-- ==== Sys2Proof/Word.lean ====
section
/-! DEFINITION. The word types of the Rhorok and the packing of fields into them (R1, R2). -/

namespace Sys2Proof

/-- A 32-bit register word (R51). -/
abbrev Word := BitVec 32

/-- A 64-bit value: a register pair, a latch, an address (R51, R57). -/
abbrev DWord := BitVec 64

/-- One byte of memory. -/
abbrev Byte := BitVec 8

/-- A 9-bit operand selector (R140). -/
abbrev Sel := BitVec 9

/-- The fields of a list, lowest field first, each a width and a value, laid side by side (R2). -/
def packFields : List (Nat × Nat) → Nat
  | [] => 0
  | (w, v) :: rest => v % 2 ^ w + 2 ^ w * packFields rest

/-- The values of the fields whose widths are listed, lowest field first (R2). -/
def unpackFields : List Nat → Nat → List Nat
  | [], _ => []
  | w :: ws, n => n % 2 ^ w :: unpackFields ws (n / 2 ^ w)

/-- Field [hi:lo] of a number (R2). -/
def bitsOf (x hi lo : Nat) : Nat := x / 2 ^ lo % 2 ^ (hi + 1 - lo)

/-- Bit i of a number. -/
def bitOf (x i : Nat) : Bool := x / 2 ^ i % 2 == 1

/-- 1 or 0. -/
def b2n (b : Bool) : Nat := if b then 1 else 0

/-- The low `w` bits of `x` as a two's-complement integer (`sext` of R148). -/
def sextN (x w : Nat) : Int :=
  if x % 2 ^ w < 2 ^ (w - 1) then (x % 2 ^ w : Nat) else (x % 2 ^ w : Nat) - (2 ^ w : Nat)

/-- `x` modulo 2^w as an unsigned integer (`wrap` of R148). -/
def wrapI (x : Int) (w : Nat) : Nat := (x % ((2 ^ w : Nat) : Int)).toNat

/-- `clamp` of R148. -/
def clampI (x lo hi : Int) : Int := if x < lo then lo else if x > hi then hi else x

/-- The little-endian number of a list of bytes (R2). -/
def leNat : List Byte → Nat
  | [] => 0
  | b :: bs => b.toNat + 256 * leNat bs

/-- The `n` bytes of a number, little-endian (R2). -/
def leBytes : Nat → Nat → List Byte
  | 0, _ => []
  | n + 1, x => BitVec.ofNat 8 x :: leBytes n (x / 256)

end Sys2Proof
end

