-- ==== Sys2Proof/Config.lean ====
section
/-! DEFINITION. What an implementation fixes, and the free values: constants that the spec leaves open. An `opaque`
constant has no value that a proof could use, so what is proved holds for every value of it. -/

namespace Sys2Proof.Config

/-- Cycles of the arithmetic clock in a microsecond: 1.20 GHz (R12). -/
def cyclesPerMicro : Nat := 1200

/-- Arithmetic-clock cycles of the conflict window of 65,536 memory-side cycles at 1.6 GHz (R12, R368). -/
def conflictWindow : Nat := 49152

/-- Bytes of second-tier memory attached to an expander port, "populated as attached" (R356). -/
opaque expanderBytes : Nat → Nat

/-- Bytes of host memory that the host grants from PA 0x8000_0000_0000 on, "as the host grants" (R356). -/
opaque hostBytes : Nat

/-- The activation limit that the controller keeps for the device (R374). -/
opaque activationLimit : Nat

/-- A free value: a byte pattern the spec leaves open, one for each use. -/
opaque freeWord : Nat → BitVec 64

/-- A free choice between two behaviours that the spec allows, one for each use. -/
opaque freeBool : Nat → Bool

/-- A byte of a frame that another package holds, at a use of the link: that memory is no state of this package
(R423). -/
opaque remoteByte : Nat → Nat → Nat → Byte

/-- What the home package answers to a request: 0 performed, else the detail of the PROT (R425). -/
opaque remoteDetail : Nat → Nat → Nat → Nat

/-- The number of the switch port at which a link port meets its plane at bring-up, or none for a port that meets no switch
(R423). -/
opaque switchPort : Nat → Option (Fin 144)

/-- A switch plane reaches another package, between two changes of the link (R424). -/
opaque planeReaches : Nat → Nat → Nat → Bool

/-- The signature (r, s) of a digest under the device key (R433). -/
opaque deviceSign : List Byte → Nat × Nat

/-- The vendor key of slot 0 (R431), X and Y. -/
opaque vendorKey : Nat × Nat

/-- SHA-256 of the device public key (R433). -/
opaque keyHash : Nat

/-- The firmware image of component 1 to 4 that the part holds when nothing else has been staged (R432); it ends in its
signature (R429). -/
opaque firmware : Nat → List Byte

/-- What the Director supervisor of a die starts with: the byte offset of its first slate, its register count, and its
scratchpad units (R435). -/
opaque supervisorStart : Nat → Nat × Nat × Nat

/-- A 32-bit candidate for a transcendental result: function, argument (R119). A candidate within the bound is the
part's result. -/
opaque transcendental : Nat → BitVec 32 → BitVec 32

end Sys2Proof.Config
end

