-- ==== Sys2Proof/Machine/Crypto.lean ====
section
/-! DEFINITION. SHA-256 and the verification of ECDSA P-256 signatures, which the spec names for images, keys and
reports (R300, R429 to R434). PRESUMED: both follow their published standards, which the spec does not repeat. -/

namespace Sys2Proof.Machine

/-- A big-endian number. -/
def beNat (bs : List Byte) : Nat := bs.foldl (fun acc b => acc * 256 + b.toNat) 0

/-- The `n` bytes of a number, big-endian. -/
def beBytes (n x : Nat) : List Byte := (leBytes n x).reverse

/-! ## SHA-256 -/

/-- The whole part of a root of a number below 2^(40 · e), found bit by bit from the highest. -/
def rootFloor (e n : Nat) : Nat :=
  (List.range 40).foldl (fun x i => if (x + 2 ^ (39 - i)) ^ e ≤ n then x + 2 ^ (39 - i) else x) 0

/-- The first 64 prime numbers. -/
def shaPrimes : List Nat := (List.range 312).filter fun p => 2 ≤ p && (List.range p).all fun d => d < 2 || p % d != 0

/-- The first 32 bits of the fraction of a root of a prime. -/
def rootBits (e p : Nat) : Nat := rootFloor e (p * 2 ^ (32 * e)) % 2 ^ 32

/-- The round constants, from the cube roots of the primes, and the starting value of the eight working words, from the
square roots of the first eight. -/
def shaK : List Nat := shaPrimes.map (rootBits 3)
def shaStart : List Word := (shaPrimes.take 8).map fun p => BitVec.ofNat 32 (rootBits 2 p)

/-- The message schedule of a block, newest word first, after `n` further words. -/
def shaSchedule : Nat → List Word → List Word
  | 0, ws => ws
  | n + 1, ws =>
    let x := ws.getD 14 0
    let y := ws.getD 1 0
    let s0 := x.rotateRight 7 ^^^ x.rotateRight 18 ^^^ (x >>> 3)
    let s1 := y.rotateRight 17 ^^^ y.rotateRight 19 ^^^ (y >>> 10)
    shaSchedule n ((ws.getD 15 0 + s0 + ws.getD 6 0 + s1) :: ws)

/-- One round. -/
def shaRound (h : List Word) (kw : Nat × Word) : List Word :=
  let g := fun (i : Nat) => h.getD i 0
  let e := g 4
  let a := g 0
  let t1 := g 7 + (e.rotateRight 6 ^^^ e.rotateRight 11 ^^^ e.rotateRight 25) + ((e &&& g 5) ^^^ (~~~ e &&& g 6)) +
    BitVec.ofNat 32 kw.1 + kw.2
  let t2 := (a.rotateRight 2 ^^^ a.rotateRight 13 ^^^ a.rotateRight 22) + ((a &&& g 1) ^^^ (a &&& g 2) ^^^ (g 1 &&& g 2))
  [t1 + t2, a, g 1, g 2, g 3 + t1, e, g 5, g 6]

/-- One block of 64 bytes. -/
def shaBlock (h : List Word) (block : List Byte) : List Word :=
  let ws := (List.range 16).map fun i => BitVec.ofNat 32 (beNat ((block.drop (4 * i)).take 4))
  let all := (shaSchedule 48 ws.reverse).reverse
  List.zipWith (· + ·) h ((shaK.zip all).foldl shaRound h)

/-- The message with its padding. -/
def shaPad (bs : List Byte) : List Byte :=
  bs ++ [0x80] ++ List.replicate ((119 - bs.length % 64) % 64) 0 ++ beBytes 8 (8 * bs.length)

/-- SHA-256: the 32 bytes of the digest, in order. -/
def sha256 (bs : List Byte) : List Byte :=
  let m := shaPad bs
  ((List.range (m.length / 64)).foldl (fun h i => shaBlock h ((m.drop (64 * i)).take 64)) shaStart).flatMap fun w =>
    beBytes 4 w.toNat

/-- Extend a digest by an image (R432, R433). Digests are kept as the number whose little-endian bytes they are. -/
def extendDigest (d : Nat) (image : List Byte) : Nat := leNat (sha256 (leBytes 32 d ++ sha256 image))

/-! ## ECDSA P-256 -/

/-- The field prime, the order of the base point, and the coefficient b of the curve. -/
def ecP : Nat := 0xffffffff00000001000000000000000000000000ffffffffffffffffffffffff
def ecN : Nat := 0xffffffff00000000ffffffffffffffffbce6faada7179e84f3b9cac2fc632551
def ecB : Nat := 0x5ac635d8aa3a93e7b3ebbd55769886bc651d06b0cc53b0f63bce3c3e27d2604b

/-- The base point. -/
def ecG : Nat × Nat :=
  (0x6b17d1f2e12c4247f8bce6e563a440f277037d812deb33a0f4a13945d898c296,
   0x4fe342e2fe1a7f9b8ee7eb4a7c0f9e162bce33576b315ececbb6406837bf51f5)

/-- A power modulo m, by the low `n` bits of the exponent. -/
def powMod (m : Nat) : Nat → Nat → Nat → Nat
  | 0, _, _ => 1
  | n + 1, b, e => (if e % 2 == 1 then b else 1) * powMod m n (b * b % m) (e / 2) % m

/-- The inverse modulo a prime. -/
def invMod (m x : Nat) : Nat := powMod m 256 (x % m) (m - 2)

/-- The sum of two points; none is the point at infinity. -/
def ecAdd (a b : Option (Nat × Nat)) : Option (Nat × Nat) :=
  match a, b with
  | none, b => b
  | a, none => a
  | some p, some q =>
    if p.1 == q.1 && (p.2 + q.2) % ecP == 0 then none
    else
      let l := if p == q then (3 * p.1 * p.1 + ecP - 3) * invMod ecP (2 * p.2) % ecP
        else (q.2 + ecP - p.2) * invMod ecP (q.1 + ecP - p.1) % ecP
      let x := (l * l + 2 * ecP - p.1 - q.1) % ecP
      some (x, (l * (p.1 + ecP - x) + ecP - p.2) % ecP)

/-- A multiple of a point, by the low `n` bits of the factor. -/
def ecMul : Nat → Nat → Option (Nat × Nat) → Option (Nat × Nat)
  | 0, _, _ => none
  | n + 1, k, p => ecAdd (if k % 2 == 1 then p else none) (ecMul n (k / 2) (ecAdd p p))

/-- The signature (r, s) verifies over a digest under the public key (x, y). -/
def ecdsaVerify (x y : Nat) (digest : List Byte) (r s : Nat) : Bool :=
  let onCurve := x < ecP && y < ecP && y * y % ecP == (x * x * x + (ecP - 3) * x + ecB) % ecP
  onCurve && 0 < r && r < ecN && 0 < s && s < ecN &&
    let w := invMod ecN s
    match ecAdd (ecMul 256 (beNat digest * w % ecN) (some ecG)) (ecMul 256 (r * w % ecN) (some (x, y))) with
    | none => false
    | some p => p.1 % ecN == r

/-- Bytes that end in a 64-byte signature, r then s, over the rest: it verifies under a key. -/
def signedBy (key : Nat × Nat) (bs : List Byte) : Bool :=
  let n := bs.length - 64
  ecdsaVerify key.1 key.2 (sha256 (bs.take n)) (beNat ((bs.drop n).take 32)) (beNat ((bs.drop (n + 32)).take 32))

end Sys2Proof.Machine
end

