-- ==== Sys2Proof/Machine/Flags.lean ====
section
/-! DEFINITION. The flags of FPSR (R112) and every computation that sets one: integer wrapping and saturation (R104),
and the float formats with their one rounding (R106 to R118). -/

namespace Sys2Proof.Machine

/-! ## The flags (R112) -/

def flagNV : Nat := 1
def flagDZ : Nat := 2
def flagOF : Nat := 4
def flagUF : Nat := 8
def flagNX : Nat := 16
def flagSAT : Nat := 32

/-- The union of flags. -/
def orF (a b : Nat) : Nat := a ||| b

/-! ## Integers (R104) -/

/-- The range of a format of `w` bits. -/
def intLo (signed : Bool) (w : Nat) : Int := if signed then -(2 ^ (w - 1) : Nat) else 0
def intHi (signed : Bool) (w : Nat) : Int := if signed then ((2 ^ (w - 1) : Nat) : Int) - 1 else ((2 ^ w : Nat) : Int) - 1

/-- The value of the low `w` bits under a signedness. -/
def intVal (signed : Bool) (w x : Nat) : Int := if signed then sextN x w else ((x % 2 ^ w : Nat) : Int)

/-- A result of `w` bits: wrapped, or clamped with SAT when `sat` is set (R104). -/
def intRes (sat signed : Bool) (w : Nat) (x : Int) : Nat × Nat :=
  if sat then
    let y := clampI x (intLo signed w) (intHi signed w)
    (wrapI y w, if y == x then 0 else flagSAT)
  else (wrapI x w, 0)

/-! ## Float formats (R106, R107) -/

/-- A float format: exponent and fraction bits, bias, and whether it is E4M3, which has no infinities. -/
structure Fmt where
  eb   : Nat
  fb   : Nat
  bias : Nat
  e4m3 : Bool
  deriving DecidableEq, Repr, Inhabited

def f32 : Fmt := { eb := 8, fb := 23, bias := 127, e4m3 := false }
def f16 : Fmt := { eb := 5, fb := 10, bias := 15, e4m3 := false }
def bf16 : Fmt := { eb := 8, fb := 7, bias := 127, e4m3 := false }
def e5m2 : Fmt := { eb := 5, fb := 2, bias := 15, e4m3 := false }
def e4m3 : Fmt := { eb := 4, fb := 3, bias := 7, e4m3 := true }

/-- Width of a format. -/
def Fmt.width (f : Fmt) : Nat := 1 + f.eb + f.fb

/-- The canonical NaN (R107). -/
def Fmt.nan (f : Fmt) : Nat :=
  if f.e4m3 then 0x7F else (2 ^ f.eb - 1) * 2 ^ f.fb + 2 ^ (f.fb - 1)

/-- The infinity of a sign (R107). -/
def Fmt.inf (f : Fmt) (neg : Bool) : Nat := b2n neg * 2 ^ (f.eb + f.fb) + (2 ^ f.eb - 1) * 2 ^ f.fb

/-- The largest finite encoding (R107). -/
def Fmt.maxBits (f : Fmt) : Nat := if f.e4m3 then 0x7E else (2 ^ f.eb - 1) * 2 ^ f.fb - 1

/-- A value: NaN, an infinity, or a sign with an exact magnitude num / den. -/
inductive FVal where
  | nan
  | inf (neg : Bool)
  | fin (neg : Bool) (num den : Nat)
  deriving DecidableEq, Repr, Inhabited

/-- 2^e as a fraction. -/
def pow2 (e : Int) : Nat × Nat := if 0 ≤ e then (2 ^ e.toNat, 1) else (1, 2 ^ (-e).toNat)

/-- The value of an encoding (`val` of R148, R106). -/
def Fmt.val (f : Fmt) (x : Nat) : FVal :=
  let neg := bitOf x (f.eb + f.fb)
  let e := x / 2 ^ f.fb % 2 ^ f.eb
  let m := x % 2 ^ f.fb
  let fin := fun (m : Nat) (e : Int) => let p := pow2 e; FVal.fin neg (m * p.1) p.2
  if f.e4m3 then
    if e == 15 && m == 7 then .nan
    else if e == 0 then fin m (1 - (f.bias : Int) - f.fb)
    else fin (2 ^ f.fb + m) ((e : Int) - f.bias - f.fb)
  else if e == 2 ^ f.eb - 1 then (if m == 0 then .inf neg else .nan)
  else if e == 0 then fin m (1 - (f.bias : Int) - f.fb)
  else fin (2 ^ f.fb + m) ((e : Int) - f.bias - f.fb)

/-- The rounding modes RNE, RZ, RU, RD (R110). -/
abbrev Mode := Nat

/-- Whether a magnitude between r and r + 1 rounds up: `rem` of `den` is what is left (R110). -/
def roundsUp (mode : Mode) (neg : Bool) (r rem den : Nat) : Bool :=
  if rem == 0 then false
  else match mode with
    | 0 => decide (den < 2 * rem) || (2 * rem == den && r % 2 == 1)
    | 1 => false
    | 2 => !neg
    | _ => neg

/-- The exponent of the leading bit of num / den, for num and den above zero. -/
def leadExp (num den : Nat) : Int :=
  let g : Int := (Nat.log2 num : Int) - Nat.log2 den
  let p := pow2 g
  if num * p.2 < den * p.1 then g - 1 else g

/-- The sign bit of a format. -/
def Fmt.signed (f : Fmt) (neg : Bool) (x : Nat) : Nat := b2n neg * 2 ^ (f.eb + f.fb) + x

/-- One rounding of an exact value to a format (`round_fmt` of R148; R111, R112, R114): the encoding and the flags.
`sat` selects the saturation of `.sat` to E5M2. -/
def Fmt.round (f : Fmt) (mode : Mode) (x : FVal) (sat : Bool := false) : Nat × Nat :=
  match x with
  | .nan => (f.nan, 0)
  | .inf neg =>
    if f.e4m3 || sat then (f.signed neg f.maxBits, flagOF + flagNX) else (f.inf neg, 0)
  | .fin neg num den =>
    if num == 0 then (f.signed neg 0, 0)
    else
      let emin : Int := 1 - (f.bias : Int)
      let q := max (leadExp num den) emin - f.fb
      let p := pow2 q
      let n := num * p.2
      let d := den * p.1
      let r := n / d + b2n (roundsUp mode neg (n / d) (n % d) d)
      let nx := n % d != 0
      -- r units of 2^q; the biased exponent follows from q, and a carry out of the fraction raises it
      let bits := if r < 2 ^ f.fb then r else (q + f.fb + f.bias - 1).toNat * 2 ^ f.fb + r
      if f.maxBits < bits then
        let toMax := f.e4m3 || sat || mode == 1 || (mode == 2 && neg) || (mode == 3 && !neg)
        (if toMax then f.signed neg f.maxBits else f.inf neg, flagOF + flagNX)
      else
        (f.signed neg bits,
          (if nx then flagNX else 0) + (if nx && decide (bits < 2 ^ f.fb) then flagUF else 0))

/-! ## Exact arithmetic (R115) -/

/-- Negate. -/
def FVal.neg : FVal → FVal
  | .nan => .nan
  | .inf s => .inf !s
  | .fin s n d => .fin (!s) n d

/-- Whether a value is a NaN. -/
def FVal.isNan : FVal → Bool
  | .nan => true
  | _ => false

/-- The product, and whether it is invalid (0 × infinity). -/
def FVal.mul : FVal → FVal → FVal × Bool
  | .nan, _ => (.nan, false)
  | _, .nan => (.nan, false)
  | .inf s, .inf t => (.inf (s != t), false)
  | .inf s, .fin t n _ => if n == 0 then (.nan, true) else (.inf (s != t), false)
  | .fin s n _, .inf t => if n == 0 then (.nan, true) else (.inf (s != t), false)
  | .fin s n d, .fin t m e => (.fin (s != t) (n * m) (d * e), false)

/-- A signed sum of fractions. -/
def addFrac (s : Bool) (n d : Nat) (t : Bool) (m e : Nat) : Bool × Nat × Nat :=
  let a := n * e
  let b := m * d
  if s == t then (s, a + b, d * e) else if b ≤ a then (s, a - b, d * e) else (t, b - a, d * e)

/-- The sum, and whether it is invalid (infinity − infinity). An exact zero sum of operands of opposite sign is +0, or
−0 in RD (R111). -/
def FVal.add (mode : Mode) : FVal → FVal → FVal × Bool
  | .nan, _ => (.nan, false)
  | _, .nan => (.nan, false)
  | .inf s, .inf t => if s == t then (.inf s, false) else (.nan, true)
  | .inf s, .fin _ _ _ => (.inf s, false)
  | .fin _ _ _, .inf t => (.inf t, false)
  | .fin s n d, .fin t m e =>
    let r := addFrac s n d t m e
    if r.2.1 == 0 && s != t then (.fin (mode == 3) 0 1, false) else (.fin r.1 r.2.1 r.2.2, false)

/-- A sum of products, exact, with whether a step is invalid: an invalid product or sum without any NaN input (R112). -/
def FVal.dot (mode : Mode) (ps : List (FVal × FVal)) (c : Option FVal) : FVal × Bool :=
  let anyNan := ps.any (fun p => p.1.isNan || p.2.isNan) || c.any FVal.isNan
  let terms := ps.map (fun p => p.1.mul p.2) ++ (c.toList.map fun x => (x, false))
  let bad := terms.any Prod.snd
  match terms.map Prod.fst with
  | [] => (.fin false 0 1, false)
  | x :: xs =>
    let r := xs.foldl (fun acc y => let z := acc.1.add mode y; (z.1, acc.2 || z.2)) (x, bad)
    if anyNan then (.nan, false) else if r.2 then (.nan, true) else (r.1, false)

/-- Round an exact result with its invalid mark (R112). -/
def Fmt.finish (f : Fmt) (mode : Mode) (x : FVal × Bool) : Nat × Nat :=
  if x.2 then (f.nan, flagNV) else f.round mode x.1

/-- a + b, rounded once. -/
def Fmt.add (f : Fmt) (mode : Mode) (a b : Nat) : Nat × Nat :=
  f.finish mode ((f.val a).add mode (f.val b))

/-- a × b, rounded once. -/
def Fmt.mul (f : Fmt) (mode : Mode) (a b : Nat) : Nat × Nat := f.finish mode ((f.val a).mul (f.val b))

/-- a × b + c, rounded once. -/
def Fmt.fma (f : Fmt) (mode : Mode) (a b c : Nat) : Nat × Nat :=
  f.finish mode (FVal.dot mode [(f.val a, f.val b)] (some (f.val c)))

/-- Flip the sign bit. -/
def Fmt.negBits (f : Fmt) (x : Nat) : Nat := x ^^^ 2 ^ (f.eb + f.fb)

/-- a < b of values that are no NaNs, with −0 below +0 when `zeros` is set (R118). -/
def FVal.lt (zeros : Bool) : FVal → FVal → Bool
  | .inf s, .inf t => s && !t
  | .inf s, .fin _ _ _ => s
  | .fin _ _ _, .inf t => !t
  | .fin s n d, .fin t m e =>
    if n == 0 && m == 0 then zeros && s && !t
    else match s, t with
      | false, false => n * e < m * d
      | true, true => m * d < n * e
      | true, false => true
      | false, true => false
  | _, _ => false

/-- a = b of values that are no NaNs; +0 and −0 are equal. -/
def FVal.eq : FVal → FVal → Bool
  | .inf s, .inf t => s == t
  | .fin s n d, .fin t m e => n * e == m * d && (s == t || n == 0)
  | _, _ => false

/-- FMIN and FMAX (R118). -/
def Fmt.minMax (f : Fmt) (wantMax : Bool) (a b : Nat) : Nat :=
  let x := f.val a
  let y := f.val b
  if x.isNan then (if y.isNan then f.nan else b)
  else if y.isNan then a
  else if wantMax then (if x.lt true y then b else a)
  else if y.lt true x then b else a

/-- Clamp to [+0, 1.0] (R186). -/
def Fmt.clamp01 (f : Fmt) (x : Nat) : Nat :=
  let one := f.bias * 2 ^ f.fb
  match f.val x with
  | .nan => 0
  | .inf s => if s then 0 else one
  | .fin s n d => if s then 0 else if d < n then one else x

/-- Round a value to an integer in a mode: the integer and whether it is inexact. -/
def roundInt (mode : Mode) (neg : Bool) (num den : Nat) : Int × Bool :=
  let r := num / den + b2n (roundsUp mode neg (num / den) (num % den) den)
  (if neg then -(r : Int) else r, num % den != 0)

/-- A float to an integer (R113): the wrapped bits and the flags. -/
def floatToInt (mode : Mode) (signed : Bool) (w : Nat) (x : FVal) : Nat × Nat :=
  let lo := intLo signed w
  let hi := intHi signed w
  match x with
  | .nan => (0, flagNV)
  | .inf s => (wrapI (if s then lo else hi) w, flagNV)
  | .fin s n d =>
    let r := roundInt mode s n d
    if r.1 < lo then (wrapI lo w, flagNV)
    else if hi < r.1 then (wrapI hi w, flagNV)
    else (wrapI r.1 w, if r.2 then flagNX else 0)

/-- An integer as an exact value. -/
def intFVal (x : Int) : FVal := .fin (decide (x < 0)) x.natAbs 1

/-- The quotient, rounded once (R206), without flags. -/
def Fmt.div (f : Fmt) (a b : Nat) : Nat :=
  match f.val a, f.val b with
  | .nan, _ => f.nan
  | _, .nan => f.nan
  | .inf _, .inf _ => f.nan
  | .inf s, .fin t _ _ => f.inf (s != t)
  | .fin s _ _, .inf t => f.signed (s != t) 0
  | .fin s n d, .fin t m e =>
    if m == 0 then (if n == 0 then f.nan else f.inf (s != t))
    else (f.round 0 (.fin (s != t) (n * e) (d * m))).1

/-- Integer square root, by bits from the top. -/
def isqrtAux : Nat → Nat → Nat → Nat
  | 0, _, r => r
  | k + 1, n, r => isqrtAux k n (if (r + 2 ^ k) * (r + 2 ^ k) ≤ n then r + 2 ^ k else r)

/-- ⌊√n⌋. -/
def isqrt (n : Nat) : Nat := isqrtAux (Nat.log2 n / 2 + 1) n 0

/-- √a, correctly rounded (R192): the root of a magnitude scaled so that its integer part has more bits than the format
needs, with a sticky bit below. -/
def Fmt.sqrt (f : Fmt) (mode : Mode) (a : Nat) : Nat × Nat :=
  match f.val a with
  | .nan => (f.nan, 0)
  | .inf s => if s then (f.nan, flagNV) else (a, 0)
  | .fin s n d =>
    if n == 0 then (a, 0)
    else if s then (f.nan, flagNV)
    else
      -- n / d = x / 4^k exactly when d is a power of two; the values of a format always are
      let k := Nat.log2 d + 64
      let x := n * 4 ^ k / d
      let r := isqrt x
      f.round mode (.fin false (2 * r + b2n (r * r != x)) (2 * 2 ^ k))

end Sys2Proof.Machine
end

