-- ==== Sys2Proof/Syntax.lean ====
section
/-! DEFINITION. The instructions of the Rhorok (R133 to R146) and its whole steps that are no instruction (file
95_what_each_step_holds.md): ONE constructor for each row of spec/opcode_table.json. -/

namespace Sys2Proof

/-- Format T (R134): every field of the word but its opcode. -/
structure TWord where
  mod  : BitVec 4
  d    : Sel
  nw   : Bool
  a    : Sel
  b    : Sel
  c    : Sel
  pg   : BitVec 3
  pn   : Bool
  dist : BitVec 3
  cue  : BitVec 4
  xm   : BitVec 4
  deriving DecidableEq, Repr, Inhabited

/-- Format I (R135). -/
structure IWord where
  d    : Sel
  nw   : Bool
  a    : Sel
  imm  : Word
  pg   : BitVec 3
  dist : BitVec 2
  deriving DecidableEq, Repr, Inhabited

/-- Format M (R136). -/
structure MWord where
  mod  : BitVec 4
  d    : Sel
  nw   : Bool
  a    : Sel
  s    : BitVec 6
  imm  : BitVec 12
  pg   : BitVec 3
  pn   : Bool
  dist : BitVec 3
  cue  : BitVec 4
  ex   : BitVec 4
  deriving DecidableEq, Repr, Inhabited

/-- Format J (R137). -/
structure JWord where
  mod  : BitVec 4
  d    : Sel
  a    : Sel
  tgt  : BitVec 30
  pg   : BitVec 3
  pn   : Bool
  deriving DecidableEq, Repr, Inhabited

/-- Format L (R138): the four words of `LOOPN`. `ext` holds EXT0 to EXT4 and `str` STR0 to STR14, lowest first. -/
structure LWord where
  eop   : BitVec 8
  typ   : BitVec 4
  sd    : BitVec 6
  sa    : BitVec 6
  sb    : BitVec 6
  flags : BitVec 6
  pg    : BitVec 3
  pn    : Bool
  cue   : BitVec 4
  dist  : BitVec 3
  mbz   : BitVec 9
  ext   : Vector (BitVec 11) 5
  str   : Vector (BitVec 9) 15
  mbz2  : BitVec 2
  deriving DecidableEq, Repr, Inhabited

/-- A line of the L2 (R292): a physical line, by its number PA / 128, or the requester-form lines of one
beat of a bound buffer (R294), by its binding handle and beat number. -/
inductive L2Key where
  | phys (line : Nat)
  | bound (handle beat : Nat)
  deriving DecidableEq, Repr, Inhabited

/-- What the checks of a line find (R371), and the parity of a formula slot (R301). -/
inductive LineError where
  | clean
  | corrected
  | uncorrectable
  | parity
  deriving DecidableEq, Repr

/-- The on-die stores an uncorrectable soft error may strike (R372). -/
inductive SramStore where
  | registerCache
  | scratchpad
  | operandMemory
  | cacheLine
  deriving DecidableEq, Repr

/-- The AtomicOps a host issues through BAR2 (R418), and its plain requests there. -/
inductive HostAtomic where
  | compareAndSwap
  | fetchAdd
  | swap
  | read (bytes : Nat)
  | write (data : List Byte)
  deriving DecidableEq, Repr

/-- A host request to a function beside its windows (R419): to its configuration space, function 1,024 being PF0; to the
MSI-X vectors in BAR0 of a virtual function; and to the mailbox in BAR0 of PF0 (R428). -/
inductive HostFunction where
  | config (n : Nat)
  | vectors (n : Nat) (write : Bool)
  | mailbox (offset : Nat) (write : Bool) (bytes : Nat) (data : List Byte)
  deriving DecidableEq, Repr

/-- A request from a peer package (R425). -/
inductive RemoteOp where
  | read (bytes : Nat)
  | write (data : List Byte)
  /-- an atomic by its MOD (R224) -/
  | atomic (mod : Nat) (value : DWord)
  /-- a compare-and-swap of 4 or 8 bytes (R225) -/
  | cas (wide : Bool) (compare value : DWord)
  deriving DecidableEq, Repr

/-- A request of a peer with what its package found: the page type of its leaf, and the class of the buffer record it goes
through, if it goes through one (R359, R366). -/
structure RemoteAsk where
  cm    : Nat
  place : Option (Nat × Nat × Nat)
  op    : RemoteOp
  deriving DecidableEq, Repr

/-- One constructor for each row of spec/opcode_table.json. A row with an encoding carries the fields of its format. A
row that is an event of the part carries what names its occurrence. -/
inductive Instr where
  /-- `NOP` (R151): Does nothing in any lane, and its DIST spaces the following word. -/
  | nop (w : TWord)
  /-- `MOV` (R152): Copies a 32-bit or 64-bit source unchanged to the destination in each active lane. -/
  | mov (w : TWord)
  /-- `MOVI` (R152): Writes the 32-bit immediate to the destination in each active lane. -/
  | movi (w : IWord)
  /-- `IADD` (R154): Adds integer elements, wrapping or saturating. -/
  | iadd (w : TWord)
  /-- `IADDI` (R155): Adds a 32-bit immediate and wraps to 32 bits. -/
  | iaddi (w : IWord)
  /-- `ISUB` (R154): Subtracts integer elements, wrapping or saturating. -/
  | isub (w : TWord)
  /-- `IADD3` (R154): Adds three integers, wrapping or saturating. -/
  | iadd3 (w : TWord)
  /-- `IADDC` (R156): Adds 32-bit unsigned values with a carry-in and a carry-out held in a predicate. -/
  | iaddc (w : TWord)
  /-- `ISUBB` (R156): Subtracts 32-bit unsigned values with a borrow held in a predicate. -/
  | isubb (w : TWord)
  /-- `IMUL` (R154): Multiplies integers, wrapping or saturating. -/
  | imul (w : TWord)
  /-- `IMULH` (R154): Writes the high 32 bits of the exact 64-bit product. -/
  | imulh (w : TWord)
  /-- `IMAD` (R154): Computes a × b + c, and with .acc64 accumulates into a 64-bit pair. -/
  | imad (w : TWord)
  /-- `ISAD` (R154): Sums the absolute differences of the elements and adds c. -/
  | isad (w : TWord)
  /-- `IMIN` (R154): Writes the smaller integer of each element pair. -/
  | imin (w : TWord)
  /-- `IMAX` (R154): Writes the larger integer of each element pair. -/
  | imax (w : TWord)
  /-- `IABS` (R154): Writes the absolute value of each element, wrapping or saturating. -/
  | iabs (w : TWord)
  /-- `AND` (R157): Computes the bitwise AND of two 32-bit values. -/
  | and (w : TWord)
  /-- `OR` (R157): Computes the bitwise OR of two 32-bit values. -/
  | or (w : TWord)
  /-- `XOR` (R157): Computes the bitwise XOR of two 32-bit values. -/
  | xor (w : TWord)
  /-- `ANDN` (R157): Computes a AND NOT b. -/
  | andn (w : TWord)
  /-- `LOP3` (R158): Computes any bitwise function of a, b and the old destination through an 8-bit truth table. -/
  | lop3 (w : TWord)
  /-- `ANDI` (R157): Computes the bitwise AND with a 32-bit immediate. -/
  | andi (w : IWord)
  /-- `ORI` (R157): Computes the bitwise OR with a 32-bit immediate. -/
  | ori (w : IWord)
  /-- `XORI` (R157): Computes the bitwise XOR with a 32-bit immediate. -/
  | xori (w : IWord)
  /-- `SHL` (R159): Shifts left by the whole-register amount, giving 0 at or past the width. -/
  | shl (w : TWord)
  /-- `SHR` (R159): Shifts right, arithmetically or logically by the type. -/
  | shr (w : TWord)
  /-- `SHF` (R159): Performs a funnel shift or rotate of the 64-bit pair a:b. -/
  | shf (w : TWord)
  /-- `BFX` (R160): Extracts a bit field, with sign extension for the signed type. -/
  | bfx (w : TWord)
  /-- `BFI` (R160): Inserts the low bits of a into a field of b. -/
  | bfi (w : TWord)
  /-- `POPC` (R161): Counts the set bits. -/
  | popc (w : TWord)
  /-- `CLZ` (R161): Counts the leading zero bits. -/
  | clz (w : TWord)
  /-- `BREV` (R161): Reverses the bit order. -/
  | brev (w : TWord)
  /-- `ICMP` (R162): Compares two integers and ANDs the result with a predicate. -/
  | icmp (w : TWord)
  /-- `ICMPI` (R163): Compares a 32-bit value with an immediate and writes a predicate. -/
  | icmpi (w : IWord)
  /-- `SEL` (R152): Selects a or b by the value of c. -/
  | sel (w : TWord)
  /-- `PLOP` (R164): Applies a three-input truth table to predicates. -/
  | plop (w : TWord)
  /-- `PMOV_PACK` (R165): Packs p0–p7 into a 32-bit value. -/
  | pmovPack (w : TWord)
  /-- `PMOV_UNPACK` (R165): Sets p1–p7 from the bits of a value. -/
  | pmovUnpack (w : TWord)
  /-- `SHFL` (R166): Gives each active lane the value of a source lane, or the fill value when the source is not valid. -/
  | shfl (w : TWord)
  /-- `VOTE` (R167): Computes a vote over the present active lanes and writes it to each of them. -/
  | vote (w : TWord)
  /-- `BALLOT` (R168): Writes the mask of present active lanes whose operand is nonzero. -/
  | ballot (w : TWord)
  /-- `REDUX` (R169): Reduces an operand over the present active lanes by an integer or FP32 operation. -/
  | redux (w : TWord)
  /-- `RDSPEC` (R170): Reads a special value by number. -/
  | rdspec (w : TWord)
  /-- `RDSPEC_CLR` (R170): Reads FPSR and clears it in the same lane. -/
  | rdspecClr (w : TWord)
  /-- `UMOV` (R153): Writes one lane's value to a uniform register. -/
  | umov (w : TWord)
  /-- `UIADD` (R153): Adds uniform operands into a uniform register. -/
  | uiadd (w : TWord)
  /-- `BRA` (R172): Branches to a PC-relative target, splitting the take on divergence. -/
  | bra (w : JWord)
  /-- `BRX` (R172): Branches to a target indexed per lane. -/
  | brx (w : JWord)
  /-- `CALL` (R172): Branches to a label and writes the return address to a pair. -/
  | call (w : JWord)
  /-- `CALL_R` (R172): Branches to a target held in a register pair and writes the return address. -/
  | callR (w : JWord)
  /-- `RET` (R172): Branches to the address held in a register pair. -/
  | ret (w : JWord)
  /-- `REFORM` (R27): Files each active lane's thread into a reel keyed by its next PC. -/
  | reform (w : JWord)
  /-- `REFORM_QUAD` (R40): Files the active lanes of each quad into a reel as one unit. -/
  | reformQuad (w : JWord)
  /-- `EXIT` (R24): Ends the issue of each active lane's thread and ends its cast membership. -/
  | exit (w : JWord)
  /-- `SPAWN` (R176): Starts one new thread of the scene at an entry for each active lane. -/
  | spawn (w : JWord)
  /-- `YIELD` (R179): Takes the take off issue until the end of the current scheduling round. -/
  | yield (w : JWord)
  /-- `JOIN` (R42): Enters the cast of a key, creating it if needed, and returns the rank. -/
  | join (w : JWord)
  /-- `LEAVE` (R43): Ends the cast membership of each active lane's thread. -/
  | leave (w : JWord)
  /-- `BAR` (R178): Arrives at the cast barrier and waits for the phase to complete. -/
  | bar (w : JWord)
  /-- `BAR_ARR` (R178): Records an arrival at the cast barrier, optionally requesting a bank swap or renumbering. -/
  | barArr (w : JWord)
  /-- `BAR_WAIT` (R178): Waits for the phase of the thread's last recorded arrival. -/
  | barWait (w : JWord)
  /-- `SLEEP` (R179): Holds the take off issue for a count of cycles. -/
  | sleep (w : JWord)
  /-- `REFILL` (R180): Dequeues one entry per active lane from a pending-pixel queue. -/
  | refill (w : JWord)
  /-- `TRAP` (R181): Raises SWTRAP in each active non-helper lane after moving the region start past itself. -/
  | trap (w : JWord)
  /-- `BRKPT` (R181): Raises BRK in each active lane after moving the region start past itself. -/
  | brkpt (w : JWord)
  /-- `RGNE` (R182): Marks the start of an idempotent region and raises the region counter. -/
  | rgne (w : JWord)
  /-- `RNGPUSH` (R183): Opens a labelled trace range. -/
  | rngpush (w : JWord)
  /-- `RNGPOP` (R183): Closes the innermost trace range. -/
  | rngpop (w : JWord)
  /-- `FADD` (R187): Adds FP32 values with one rounding. -/
  | fadd (w : TWord)
  /-- `FSUB` (R187): Subtracts FP32 values with one rounding. -/
  | fsub (w : TWord)
  /-- `FMUL` (R187): Multiplies FP32 values with one rounding. -/
  | fmul (w : TWord)
  /-- `FFMA` (R187): Computes the fused a × b + c in FP32. -/
  | ffma (w : TWord)
  /-- `FADDI` (R187): Adds an FP32 immediate, rounding to nearest even. -/
  | faddi (w : IWord)
  /-- `FMULI` (R187): Multiplies by an FP32 immediate, rounding to nearest even. -/
  | fmuli (w : IWord)
  /-- `FMIN` (R118): Writes the smaller FP32 operand, ignoring a NaN. -/
  | fmin (w : TWord)
  /-- `FMAX` (R118): Writes the larger FP32 operand, ignoring a NaN. -/
  | fmax (w : TWord)
  /-- `FCMP` (R188): Compares FP32 values and ANDs the result with a predicate. -/
  | fcmp (w : TWord)
  /-- `FCLASS` (R189): Tests the class of an FP32 value against a mask. -/
  | fclass (w : TWord)
  /-- `FRND` (R190): Rounds an FP32 value to an integral value. -/
  | frnd (w : TWord)
  /-- `FEXP2F` (R192): Computes 2^a on the transcendental unit for a in [−0.5, 0.5]. -/
  | fexp2f (w : TWord)
  /-- `FLDEXP` (R191): Scales an FP32 value by a power of two. -/
  | fldexp (w : TWord)
  /-- `FRCP` (R192): Computes the reciprocal on the transcendental unit. -/
  | frcp (w : TWord)
  /-- `FRSQ` (R192): Computes the reciprocal square root. -/
  | frsq (w : TWord)
  /-- `FSQRT` (R192): Computes the correctly rounded square root. -/
  | fsqrt (w : TWord)
  /-- `FLOG2` (R192): Computes log2 a. -/
  | flog2 (w : TWord)
  /-- `FSIN` (R192): Computes sin 2πa with a in turns. -/
  | fsin (w : TWord)
  /-- `FCOS` (R192): Computes cos 2πa with a in turns. -/
  | fcos (w : TWord)
  /-- `FTANH` (R192): Computes tanh a. -/
  | ftanh (w : TWord)
  /-- `HADD2` (R193): Adds packed 16-bit floats. -/
  | hadd2 (w : TWord)
  /-- `HMUL2` (R193): Multiplies packed 16-bit floats. -/
  | hmul2 (w : TWord)
  /-- `HFMA2` (R193): Computes the fused multiply-add of packed 16-bit floats. -/
  | hfma2 (w : TWord)
  /-- `HMNX2` (R193): Computes the minimum or maximum of packed 16-bit floats. -/
  | hmnx2 (w : TWord)
  /-- `FDOT2` (R194): Computes a two-element 16-bit dot product plus an FP32 value with one rounding. -/
  | fdot2 (w : TWord)
  /-- `IDP4` (R195): Computes a four-element 8-bit integer dot product plus an accumulator. -/
  | idp4 (w : TWord)
  /-- `CMUL` (R196): Multiplies complex FP32 values. -/
  | cmul (w : TWord)
  /-- `CMAD` (R196): Computes the complex multiply-add. -/
  | cmad (w : TWord)
  /-- `CMAG2` (R196): Computes the squared magnitude of a complex value. -/
  | cmag2 (w : TWord)
  /-- `F2I` (R197): Converts a float to an integer with saturation. -/
  | f2i (w : TWord)
  /-- `I2F` (R198): Converts an integer to a float. -/
  | i2f (w : TWord)
  /-- `F2F_NARROW` (R199): Converts FP32 to a narrow float format and places it in one element of a word. -/
  | f2fNarrow (w : TWord)
  /-- `F2F_WIDEN` (R199): Converts one element of a narrow float format exactly to FP32. -/
  | f2fWiden (w : TWord)
  /-- `QNT` (R200): Quantises a scaled FP32 value into one 8-bit element. -/
  | qnt (w : TWord)
  /-- `DQNT` (R200): Dequantises one 8-bit element to FP32. -/
  | dqnt (w : TWord)
  /-- `DERIVX` (R202): Writes the horizontal difference within a quad. -/
  | derivx (w : TWord)
  /-- `DERIVY` (R202): Writes the vertical difference within a quad. -/
  | derivy (w : TWord)
  /-- `QSWAP` (R203): Exchanges values with a partner lane of the quad. -/
  | qswap (w : TWord)
  /-- `RAYBOX` (R205): Clips a ray against an axis-aligned box. -/
  | raybox (w : TWord)
  /-- `RAYTRI` (R206): Intersects a ray with a triangle. -/
  | raytri (w : TWord)
  /-- `LOOPN` (R209): Runs a nest of up to five loops of one element operation over scratchpad arrays. -/
  | loopn (w : LWord)
  /-- `FILL` (R212): Writes one value to a run of scratchpad elements. -/
  | fill (w : TWord)
  /-- `LDG` (R218): Loads from global memory through a buffer record. -/
  | ldg (w : MWord)
  /-- `STG` (R218): Stores to global memory through a buffer record. -/
  | stg (w : MWord)
  /-- `ATOMG` (R224): Performs an atomic read-modify-write on global memory. -/
  | atomg (w : MWord)
  /-- `CASG` (R225): Performs a compare-and-swap on global memory. -/
  | casg (w : MWord)
  /-- `LDS` (R219): Loads from scratchpad, waiting on an empty line. -/
  | lds (w : MWord)
  /-- `STS` (R219): Stores to scratchpad. -/
  | sts (w : MWord)
  /-- `ATOMS` (R224): Performs an atomic read-modify-write on scratchpad. -/
  | atoms (w : MWord)
  /-- `CASS` (R225): Performs a compare-and-swap on scratchpad. -/
  | cass (w : MWord)
  /-- `LDSM` (R226): Loads 8×8 16-bit fragments from scratchpad for the take. -/
  | ldsm (w : MWord)
  /-- `LDSMT` (R226): Loads 8×8 16-bit fragments transposed. -/
  | ldsmt (w : MWord)
  /-- `STX` (R222): Stores into the back exchange banks of cast members on a core. -/
  | stx (w : MWord)
  /-- `LDT` (R221): Loads through a tagged pointer. -/
  | ldt (w : MWord)
  /-- `STT` (R221): Stores through a tagged pointer. -/
  | stt (w : MWord)
  /-- `ATOMT` (R221): Performs an atomic through a tagged pointer. -/
  | atomt (w : MWord)
  /-- `LDK` (R220): Loads from the kernel's constant bank. -/
  | ldk (w : MWord)
  /-- `PRFG` (R240): Prefetches lines into L2 or L1 without faulting. -/
  | prfg (w : MWord)
  /-- `FENCE` (R227): Acts as a release and an acquire at a scope and empties the record cache. -/
  | fence (w : MWord)
  /-- `FENCEX` (R228): Orders accesses of one set of path classes before those of another. -/
  | fencex (w : MWord)
  /-- `CPY` (R231): Copies w bytes per lane between global memory and scratchpad. -/
  | cpy (w : MWord)
  /-- `CPYM` (R235): Multicasts a global tile into the back exchange banks of cast cores. -/
  | cpym (w : MWord)
  /-- `CPYB` (R233): Performs a bulk tile copy described by a descriptor. -/
  | cpyb (w : MWord)
  /-- `SLOTRET` (R236): Returns one multicast free slot to a sender core. -/
  | slotret (w : MWord)
  /-- `FESET` (R237): Makes scratchpad lines empty and unpoisoned. -/
  | feset (w : MWord)
  /-- `FEQRY` (R237): Reads the full and poison bits of lines. -/
  | feqry (w : MWord)
  /-- `BUFQ` (R238): Returns a field of a buffer record. -/
  | bufq (w : MWord)
  /-- `PGREQ` (R239): Requests residency of pages by posting PAGE records without parking. -/
  | pgreq (w : MWord)
  /-- `WOARM` (R241): Returns WO lines to the unwritten state. -/
  | woarm (w : MWord)
  /-- `OPCLM` (R272): Claims the lowest unclaimed operand slot. -/
  | opclm (w : TWord)
  /-- `OPREL` (R272): Releases an operand slot after zero-filling it. -/
  | oprel (w : TWord)
  /-- `OPLD` (R273): Copies scratchpad lines into a slot. -/
  | opld (w : TWord)
  /-- `OPLDG` (R273): Copies global lines into a slot. -/
  | opldg (w : TWord)
  /-- `WLATCH` (R274): Latches a weight tile and its column scales into the shadow bank. -/
  | wlatch (w : TWord)
  /-- `MSTREAM` (R275): Streams activation rows through a T2 tile into the accumulators. -/
  | mstream (w : TWord)
  /-- `MLUT` (R275): Streams activation rows in lookup mode for W2, W4 or W8 tiles. -/
  | mlut (w : TWord)
  /-- `MDRAIN` (R276): Drains accumulator rows, scaled and converted, into scratchpad. -/
  | mdrain (w : TWord)
  /-- `MZERO` (R276): Zeroes accumulator rows and their row scales. -/
  | mzero (w : TWord)
  /-- `TASKPUT_RESV` (R288): Reserves a run of free task records. -/
  | taskputResv (w : TWord)
  /-- `TASKPUT_COMMIT` (R288): Copies a record image from scratchpad and sets the record COMMITTED. -/
  | taskputCommit (w : TWord)
  /-- `TASKPUT_FREE` (R288): Returns a task record to FREE. -/
  | taskputFree (w : TWord)
  /-- `TASKARM` (R289): Arms a committed task record as a release at package scope. -/
  | taskarm (w : TWord)
  /-- `TASKARM_DEC` (R289): Decrements a task record's predecessor count. -/
  | taskarmDec (w : TWord)
  /-- `TASKQRY` (R290): Reads a record's state, its count, or the free-record count. -/
  | taskqry (w : TWord)
  /-- `ACBIND` (R303): Verifies a formula image and binds it to a buffer record. -/
  | acbind (w : TWord)
  /-- `ACUNBIND` (R305): Removes a formula binding, writing dirty lines back. -/
  | acunbind (w : TWord)
  /-- `ACPARAM` (R306): Sets a formula parameter, optionally resetting its state. -/
  | acparam (w : TWord)
  /-- `ACQRY` (R307): Reads binding state or Accord counters. -/
  | acqry (w : TWord)
  /-- `SLD` (R327): Reconstructs and loads a pixel of a coded surface. -/
  | sld (w : TWord)
  /-- `SST` (R328): Writes a pixel of an open surface as a raw spill record. -/
  | sst (w : TWord)
  /-- `SSTC` (R329): Installs a coded block record from a scratchpad spill image. -/
  | sstc (w : TWord)
  /-- `SSTMV` (R330): Installs a SKIP block group from a motion vector. -/
  | sstmv (w : TWord)
  /-- `SSTMV_HINT` (R330): Writes a motion hint for a block. -/
  | sstmvHint (w : TWord)
  /-- `SSEAL_OPEN` (R333): Starts a new surface generation with its references. -/
  | ssealOpen (w : TWord)
  /-- `SSEAL_SEAL` (R334): Seals a surface by recoding it into the other bank. -/
  | ssealSeal (w : TWord)
  /-- `SQRY` (R339): Reads surface header fields or a block's kind. -/
  | sqry (w : TWord)
  /-- `SMAT` (R338): Materialises SKIP and INTER blocks of tiles as RAW spill entries. -/
  | smat (w : TWord)
  /-- `PRIMEMIT_TRI` (R344): Offers one triangle per lane to an open render pass. -/
  | primemitTri (w : TWord)
  /-- `PRIMEMIT_OPEN` (R343): Opens a render pass. -/
  | primemitOpen (w : TWord)
  /-- `PRIMEMIT_CLOSE` (R343): Closes an open render pass. -/
  | primemitClose (w : TWord)
  /-- `VISQ` (R348): Reads the visibility data of the lane's pixel. -/
  | visq (w : TWord)
  /-- `MVEREQ` (R350): Checks and queues a motion-search request and returns a ticket. -/
  | mvereq (w : TWord)
  /-- `MVEQRY` (R352): Reads the state of a motion request or of the queue. -/
  | mveqry (w : TWord)
  /-- `RDSYS` (R400): Reads a supervisor register. -/
  | rdsys (w : TWord)
  /-- `WRSYS` (R400): Writes a supervisor register that has no row of its own. -/
  | wrsys (w : TWord)
  /-- `WAITEV` (R403): Waits, without holding the pipe, for masked pending events or a timeout. -/
  | waitev (w : TWord)
  /-- `FRPOP` (R405): Moves fault records from the head of a queue into scratchpad. -/
  | frpop (w : TWord)
  /-- `RESUME_REC` (R406): Resumes the threads that a list of fault records names. -/
  | resumeRec (w : TWord)
  /-- `RESUME_SCN` (R406): Resumes every parked or halted thread of a scene. -/
  | resumeScn (w : TWord)
  /-- `SWAPOUT` (R407): Starts the swap-out of a resident scene. -/
  | swapout (w : TWord)
  /-- `SWAPIN` (R407): Starts restoring a READY scene to a core. -/
  | swapin (w : TWord)
  /-- `SCENEKILL` (R410): Ends a scene and abandons its operations. -/
  | scenekill (w : TWord)
  /-- `HALTB` (R408): Halts every live thread of a scene or of a context. -/
  | haltb (w : TWord)
  /-- `DUMP` (R411): Writes a core dump of a halted, drained scene. -/
  | dump (w : TWord)
  /-- `RETI` (R404): Clears events in service and pending, and exits the handler thread. -/
  | reti (w : TWord)
  /-- `TLBINV_RANGE` (R412): Invalidates the cached translations of a VA range of a context. -/
  | tlbinvRange (w : TWord)
  /-- `TLBINV_CTX` (R412): Invalidates every cached translation of a context. -/
  | tlbinvCtx (w : TWord)
  /-- `RETYPE` (R413): Applies a new tag to a frame, retyping or reassigning it. -/
  | retype (w : TWord)
  /-- `HASHVER` (R413): Installs a new address-hash mask set and starts migration. -/
  | hashver (w : TWord)
  /-- `PTWR` (R412): Writes a page-table entry as one SC store. -/
  | ptwr (w : TWord)
  /-- `DRAIN` (R409): Waits for every engine operation that a scene started earlier. -/
  | drain (w : TWord)
  /-- `DRAIN_ABANDON` (R409): Abandons a scene's held operations and WO waits, then waits for the rest. -/
  | drainAbandon (w : TWord)
  /-- `CLAUSE_START` (R33): A free pipe starts or continues the ready clause of highest priority in its bay. -/
  | clauseStart (core bay : Nat) (pipe : Bool)
  /-- `HOLD_ALLOWANCE_SPENT` (R32): A clause whose 64 cycles of holds are spent suspends at its held word. -/
  | holdAllowanceSpent (take : Nat)
  /-- `SCHEDULING_ROUND_END` (R36): At the end of each 64-cycle round, the ages of takes and reels rise and reels are drawn. -/
  | schedulingRoundEnd
  /-- `IDLE_BAY_REEL_DRAW` (R37): When a bay is idle, the oldest non-empty reel is drawn into a take bound to that bay. -/
  | idleBayReelDraw (core bay : Nat)
  /-- `SLEEP_EXPIRY` (R179): A sleeping take's count runs out and the take becomes ready. -/
  | sleepExpiry (take : Nat)
  /-- `SCENE_ADMISSION` (R19): A queued scene is admitted to the core with the most free slots once its resources are free. -/
  | sceneAdmission (scene : Nat)
  /-- `TASK_NODE_LAUNCH` (R285): The Storyboard Unit takes a ready record, validates it and launches it or fails it. -/
  | taskNodeLaunch (ctx index : Nat)
  /-- `TILE_TASK_DISPATCH` (R286): A tile task is sent to the lowest free array of the partition. -/
  | tileTaskDispatch (ctx index : Nat)
  /-- `TASK_NODE_COMPLETE` (R285): A node's work finishes: it becomes COMPLETE and its successors' counts are decremented. -/
  | taskNodeComplete (ctx index : Nat)
  /-- `SLOT_EMPTY` (R24): An exited thread's slot empties when its cue flags reach zero. -/
  | slotEmpty (thread : Nat)
  /-- `VARIABLE_COMPLETION` (R144): A Variable instruction completes: its destination is written and its cue flag falls. -/
  | variableCompletion (op : Nat)
  /-- `ENGINE_LINE_FILL` (R71): An engine operation's writes to a scratchpad line complete and the line is set full. -/
  | engineLineFill (op : Nat)
  /-- `REGISTER_LINE_FILL` (R54): An absent register line arrives in the register cache, evicting an unpinned line. -/
  | registerLineFill (thread line : Nat)
  /-- `CODE_ROW_LOAD` (R396): A code row is loaded into an instruction-memory entry. -/
  | codeRowLoad (core scene row : Nat)
  /-- `ASYNC_RECORD_HALT` (R380): A thread named by an asynchronous halt record halts at its next clause boundary. -/
  | asyncRecordHalt (thread : Nat)
  /-- `COPY_FAULT_RESUME` (R230): A copy held at a translation fault resumes from its faulting line. -/
  | copyFaultResume (op : Nat)
  /-- `WO_WAIT_TIMEOUT` (R89): A WO wait that reaches WOTIMEOUT becomes a WOWAIT fault with a record. -/
  | woWaitTimeout (thread : Nat)
  /-- `ENGINE_WO_WAIT_TIMEOUT` (R89): An engine read waiting on an unwritten line times out, poisoning its lines and posting WOWAIT. -/
  | engineWoWaitTimeout (op : Nat)
  /-- `SWAP_SAVE_COMPLETE` (R389): Step 4 of a swap-out ends: the scene becomes SWAPPED and its core resources are freed. -/
  | swapSaveComplete (scene : Nat)
  /-- `SCENE_READMISSION` (R391): A READY scene is readmitted to a core on which all its slot groups are free. -/
  | sceneReadmission (scene core : Nat)
  /-- `SCENE_RESTORE_COMPLETE` (R392): A restored scene becomes RESIDENT and its takes are rebuilt. -/
  | sceneRestoreComplete (scene : Nat)
  /-- `QUANTUM_EXPIRY` (R393): A context's time slice ends and its partition is pre-empted. -/
  | quantumExpiry (part : Nat)
  /-- `PARTITION_RESTORE` (R395): A suspended context is restored to the same cores from shadow storage. -/
  | partitionRestore (part : Nat)
  /-- `HANDLER_DISPATCH` (R404): A pending event with no waiter starts a handler thread on a Director. -/
  | handlerDispatch (die bit : Nat)
  /-- `WAITEV_WAKE` (R403): A waiting WAITEV wakes on a masked event or its timeout. -/
  | waitevWake (op : Nat)
  /-- `TIMER_EXPIRY` (R402): TIMER reaches zero and sets the TIMER event. -/
  | timerExpiry (die : Nat)
  /-- `EVPEND_WRITE` (R402): Writing 1 to an EVPEND bit clears the pending event. -/
  | evpendWrite (die : Nat) (value : Word)
  /-- `TIMER_WRITE` (R401): Writing TIMER starts or stops the event countdown. -/
  | timerWrite (die : Nat) (value : Word)
  /-- `EVENTRY_WRITE` (R404): Writing EVENTRY sets the handler entry and resumes stopped dispatch. -/
  | eventryWrite (die : Nat) (value : DWord)
  /-- `GROUPMODE_WRITE` (R366): Writing a group's mode, accepted only while no frame is allocated, starts its scrub. -/
  | groupmodeWrite (group : Nat) (value : Word)
  /-- `FQBASE_WRITE` (R383): Writing a fault queue base posts the records held for lack of a queue. -/
  | fqbaseWrite (ctx : Nat) (value : DWord)
  /-- `SUPQBASE_WRITE` (R383): Writing the supervisor queue base posts its held records. -/
  | supqbaseWrite (die : Nat) (value : DWord)
  /-- `DAILYCFG_WRITE` (R438): Configures dailies sampling, refused under SECURE when it breaks the ownership conditions. -/
  | dailycfgWrite (die : Nat) (value : Word)
  /-- `SILCFG_WRITE` (R443): Configures Sillage capture, refused under SECURE when it breaks the ownership conditions. -/
  | silcfgWrite (die : Nat) (value : Word)
  /-- `L2_LINE_FILL` (R292): An L2 fill reads DRAM through any read formula and the line checks. -/
  | l2LineFill (line : L2Key) (error : LineError)
  /-- `L2_LINE_WRITEBACK` (R292): A line leaving L2 passes any write formula and BF16 compression on its way to DRAM. -/
  | l2LineWriteback (line : L2Key) (error : LineError)
  /-- `STREAM_CONTEXT_RELEASE` (R295): An element-local stream context is released after 64 idle cycles. -/
  | streamContextRelease (accord handle : Nat) (write : Bool)
  /-- `ROW_ACTIVATION` (R368), of a line of a frame: A bank activation is counted for conflict and row-hammer limits. -/
  | rowActivation (frame line : Nat)
  /-- `CONFLICT_WINDOW_END` (R368): A 65,536-cycle conflict-count window ends. -/
  | conflictWindowEnd (stack : Nat)
  /-- `REFRESH_MANAGEMENT` (R374): A refresh-management command releases the requests of throttled rows. -/
  | refreshManagement (bank : Nat)
  /-- `SCRUB_LINE` (R365): The scrub unit zeroes the next unwritten line of a scrubbing frame. -/
  | scrubLine (frame : Nat)
  /-- `MIGRATION_STEP` (R369): A migration engine moves one line to its place under the new hash version. -/
  | migrationStep (group : Nat)
  /-- `SRAM_SOFT_ERROR` (R372): An uncorrectable error strikes a word of on-die SRAM. -/
  | sramSoftError (store : SramStore) (owner word : Nat)
  /-- `SEAL_CODING` (R336): After earlier updates drain, the seal codes every tile into the other bank. -/
  | sealCoding (job : Nat)
  /-- `BIN_FINAL` (R346): A bin's visibility becomes final and its pixel scenes are launched. -/
  | binFinal (pass bin : Nat)
  /-- `PASS_DONE` (R347): A closed pass whose pixel scenes have all ended becomes done and decrements DONE. -/
  | passDone (pass : Nat)
  /-- `MVE_REQUEST_START` (R351): A Motion and Vision Engine starts a queued request with its coarse search. -/
  | mveRequestStart (request : Nat)
  /-- `MVE_REQUEST_COMPLETE` (R351): Refinement ends, the final records and hints are written, and the cue flag falls. -/
  | mveRequestComplete (request : Nat)
  /-- `HOST_CONFIG_ACCESS` (R419): A host configuration access reaches a function. -/
  | hostConfigAccess (function : HostFunction)
  /-- `HOST_HDM_ACCESS` (R419): A host access to the HDM range is translated into a context's host window. -/
  | hostHdmAccess (offset : Nat) (write : Bool) (bytes : Nat) (data : List Byte)
  /-- `HOST_ATOMIC_WINDOW_ACCESS` (R419): A host AtomicOp through BAR2 is performed at the home slice. -/
  | hostAtomicWindowAccess (ctx offset : Nat) (op : HostAtomic) (compare value : DWord)
  /-- `HOST_SNOOP` (R418): A host snoop of a device-cached host line is served. -/
  | hostSnoop (line : Nat) (data : List Byte)
  /-- `REMOTE_REQUEST` (R425): A request from a peer package is checked against the export table and performed. -/
  | remoteRequest (pkg ctx pa : Nat) (request : RemoteAsk)
  /-- `FLIT_RETRY` (R424): A flit that fails its CRC is repeated by link-level retry. -/
  | flitRetry (port : Nat)
  /-- `LINK_PORT_DOWN` (R424): A port whose retries fail is taken down and its traffic moves to other planes. -/
  | linkPortDown (port : Nat)
  /-- `PLANE_RESTORED` (R424): The link monitor reports a plane restored and the package is reachable again. -/
  | planeRestored (plane : Nat)
  /-- `REGCTX` (R428): Mailbox command that registers a context. -/
  | regctx (payload : List Byte)
  /-- `DEREGCTX` (R427): Mailbox command that deregisters a context in order. -/
  | deregctx (payload : List Byte)
  /-- `SETPART` (R427): Mailbox command that assigns stages to a partition. -/
  | setpart (payload : List Byte)
  /-- `EXPORT` (R425): Mailbox command that adds or removes an export-table entry. -/
  | exportEntry (payload : List Byte)
  /-- `ATTEST` (R433): Mailbox command that returns a signed attestation report. -/
  | attest (payload : List Byte)
  /-- `LOADKEY` (R431): Mailbox command that installs a signed public key in slot 1–15. -/
  | loadkey (payload : List Byte)
  /-- `SETLCS` (R434): Mailbox command that requests a life-cycle change with its wipe. -/
  | setlcs (payload : List Byte)
  /-- `LOADFW` (R429): Mailbox command that reads, verifies and stages a firmware image. -/
  | loadfw (payload : List Byte)
  /-- `BRING_UP` (R435): Power good starts ROM verification, the wipe and training, until the mailbox reports ready. -/
  | bringUp
  /-- `THERMAL_TRIP` (R436): A junction trip pre-empts every partition, enters STANDBY and raises vector 0. -/
  | thermalTrip
  /-- `POWER_LIMIT_REACHED` (R436): The power estimate reaches TDP and scene admission pauses until it falls. -/
  | powerLimitReached (reached : Bool)
  /-- `STANDBY_WAKE` (R436): A mailbox command or a host access leaves STANDBY. -/
  | standbyWake
  /-- `POWER_OFF` (R436): Loss of package power puts the package in OFF: clocks stop, memory contents are lost and links go down until bring-up. -/
  | powerOff
  deriving DecidableEq, Repr, Inhabited

end Sys2Proof
end

