-- ==== Sys2Proof/WellFormed.lean ====
section
/-! DEFINITION. When a word is an instruction: the checks of R131 on one word, cause by cause, over the operand
selectors of R140 and the field tables of each instruction. -/

namespace Sys2Proof

/-- The kinds of operand that a selector names (R140). `special` is `lane`, `tid` and `scene`. -/
inductive SelClass where
  | main
  | operand
  | latch
  | uniform
  | zero
  | special
  | pred
  | integer
  | float
  | reserved
  deriving DecidableEq, Repr

/-- The rows of the selector table (R140). -/
def selClass (x : Sel) : SelClass :=
  let n := x.toNat
  if n < 0x100 then .main
  else if n < 0x108 then .operand
  else if n < 0x10C then .latch
  else if n < 0x110 then .reserved
  else if n < 0x150 then .uniform
  else if n == 0x150 then .zero
  else if n < 0x154 then .special
  else if n < 0x158 then .reserved
  else if n < 0x160 then .pred
  else if n < 0x180 then .reserved
  else if n < 0x1C0 then .integer
  else if n < 0x1D0 then .float
  else .reserved

/-- The register number a selector names within its kind (R140). -/
def selReg (x : Sel) : Nat :=
  match selClass x with
  | .operand => x.toNat - 0x100
  | .latch => x.toNat - 0x108
  | .uniform => x.toNat - 0x110
  | .special => x.toNat - 0x151
  | .pred => x.toNat - 0x158
  | .integer => x.toNat - 0x180
  | .float => x.toNat - 0x1C0
  | _ => x.toNat

/-- What an instruction's description admits in one of its selector fields. The number is the count of 32-bit
registers the operand takes (1, a pair, a quad) or, for `sreg`, what the register number must be a multiple of. -/
inductive Kind where
  /-- unused, must be zero (R133) -/
  | none
  /-- no selector; the description gives the field its own meaning -/
  | raw
  /-- a source (R140, R141) -/
  | src (n : Nat)
  /-- a destination `v`, `o`, `s` or `zero` (R149, R185) -/
  | dst (n : Nat)
  /-- a destination or a predicate -/
  | dstP
  /-- a predicate selector -/
  | pred
  /-- `zero` or a predicate selector (R156) -/
  | carry
  /-- an `s` register, an integer selector or `zero` -/
  | uni (n : Nat)
  /-- an `s` register whose number is a multiple of n, anything else being cause 0x06 -/
  | sreg (n : Nat)
  /-- a `v` or `o` register, pair or quad (R215) -/
  | atomD (n : Nat)
  /-- the destination of a load (R215) -/
  | loadD (n : Nat)
  /-- an even `v` or `o` register (R171) -/
  | callD
  /-- the first of a run of main registers (R204, R226, R341): its length, its alignment and the cause of a breach -/
  | vrun (len align cause : Nat)
  /-- `zero` alone -/
  | zeroSel
  /-- an integer selector from 0 to m -/
  | elem (m : Nat)
  deriving DecidableEq, Repr

/-- A register number that does not start a pair or quad is cause 0x07 (R51, R214). -/
def alignedReg (n : Nat) (x : Sel) : List Nat := if selReg x % n == 0 then [] else [0x07]

/-- The causes of one selector field (R131, R140, R141). -/
def Kind.causes (k : Kind) (x : Sel) : List Nat :=
  match k, selClass x with
  | .none, _ => if x.toNat == 0 then [] else [0x09]
  | .raw, _ => []
  | .src _, .reserved => [0x06]
  | .src n, .main => alignedReg n x
  | .src n, .operand => alignedReg n x
  | .src n, .uniform => if n ≤ 2 then alignedReg n x else [0x07]
  | .src n, .zero => if n ≤ 2 then [] else [0x07]
  | .src n, .float => if n == 1 then [] else [0x07]
  | .src n, _ => if n ≤ 2 then [] else [0x07]
  | .dst n, .main => alignedReg n x
  | .dst n, .operand => alignedReg n x
  | .dst n, .uniform => alignedReg n x
  | .dst _, .zero => []
  | .dst _, _ => [0x06]
  | .dstP, .main => []
  | .dstP, .operand => []
  | .dstP, .uniform => []
  | .dstP, .zero => []
  | .dstP, .pred => []
  | .dstP, _ => [0x06]
  | .pred, .pred => []
  | .pred, _ => [0x06]
  | .carry, .zero => []
  | .carry, .pred => []
  | .carry, _ => [0x06]
  | .uni n, .uniform => alignedReg n x
  | .uni _, .integer => []
  | .uni _, .zero => []
  | .uni _, _ => [0x06]
  | .sreg n, .uniform => if selReg x % n == 0 then [] else [0x06]
  | .sreg _, _ => [0x06]
  | .atomD n, .main => alignedReg n x
  | .atomD n, .operand => alignedReg n x
  | .atomD _, _ => [0x06]
  | .loadD n, .main => alignedReg n x
  | .loadD n, .operand => alignedReg n x
  | .loadD n, .uniform => if n == 1 then [] else if n == 4 then [0x07] else [0x06]
  | .loadD _, .zero => []
  | .loadD _, _ => [0x06]
  | .callD, .main => if selReg x % 2 == 0 then [] else [0x06]
  | .callD, .operand => if selReg x % 2 == 0 then [] else [0x06]
  | .callD, _ => [0x06]
  | .vrun len align cause, .main =>
      if x.toNat + len > 256 then [0x06] else if x.toNat % align == 0 then [] else [cause]
  | .vrun _ _ _, _ => [0x06]
  | .zeroSel, .zero => []
  | .zeroSel, _ => [0x06]
  | .elem m, .integer => if selReg x ≤ m then [] else [0x06]
  | .elem _, _ => [0x06]

/-- A MOD, XM or EX value that a description does not list is cause 0x08 (R146). -/
def listed (vs : List Nat) (v : Nat) : List Nat := if vs.contains v then [] else [0x08]

/-- The MOD of a format M word: a field that R213 marks 0 must be zero, cause 0x09; any other value that the description does not
list is cause 0x08. -/
def memModCauses (vs : List Nat) (v : Nat) : List Nat := if vs == [0] then (if v == 0 then [] else [0x09]) else listed vs v

/-- CUE 12 to 14 is cause 0x0A (R134). -/
def cueCauses (cue : Nat) : List Nat := if cue == 12 || cue == 13 || cue == 14 then [0x0A] else []

/-- PN = 1 with PG = 0 is cause 0x09 (R131). -/
def guardCauses (pg : Nat) (pn : Bool) : List Nat := if pn && pg == 0 then [0x09] else []

/-- A word whose D is unused, or a source, has nothing to write back, so that NW is zero (R133, R146). -/
def nwCauses (d : Kind) (nw : Bool) : List Nat :=
  match d with
  | .none => if nw then [0x09] else []
  | .src _ => if nw then [0x09] else []
  | _ => []

/-- What the description of an instruction admits: its MOD and XM or EX values, the operand in each selector field,
whether S, IMM12 and TGT are read, and causes of its own. A field it does not use must be zero (R133). -/
structure Shape where
  mods  : List Nat := [0]
  xms   : List Nat := [0]
  d     : Kind := .none
  a     : Kind := .none
  b     : Kind := .none
  c     : Kind := .none
  s     : Bool := false
  imm   : Bool := false
  tgt   : Bool := false
  extra : List Nat := []
  deriving DecidableEq, Repr

/-- A word by its format (R133); `event` for the rows that have no encoding. -/
inductive Format where
  | t (w : TWord)
  | i (w : IWord)
  | m (w : MWord)
  | j (w : JWord)
  | l (w : LWord)
  | event
  deriving DecidableEq, Repr

/-- Two registers when MOD is 0b0011, `.n64` (R152). -/
def m3W (w : TWord) : Nat := if w.mod.toNat == 3 then 2 else 1

/-- Two registers when the integer type in MOD is 64 bits wide (R150). -/
def typW (w : TWord) : Nat := if w.mod.toNat % 8 == 2 || w.mod.toNat % 8 == 3 then 2 else 1

/-- Two registers for `.acc64` (R154). -/
def accW (w : TWord) : Nat := if w.xm.toNat == 4 then 2 else 1

/-- Two registers when the type in XM[3:2] is 64 bits wide (R162). -/
def xmW (w : TWord) : Nat := if w.xm.toNat / 4 ≥ 2 then 2 else 1

/-- Two registers for `.w64` (R398). -/
def m1W (w : TWord) : Nat := if w.mod.toNat == 1 then 2 else 1

/-- The registers of a load or store of the width in MOD (R214). -/
def memW (w : MWord) : Nat := if w.mod.toNat == 3 then 2 else if w.mod.toNat == 4 then 4 else 1

/-- The registers of an atomic's operand (R224). -/
def atomW (w : MWord) : Nat := if w.mod.toNat == 1 || w.mod.toNat == 10 then 2 else 1

/-- The registers of a compare-and-swap (R225). -/
def casW (w : MWord) : Nat := if w.mod.toNat == 1 then 4 else 2

/-- The fragment count of `LDSM` (R226). The reserved code has none, and asks nothing of D. -/
def fragN (w : MWord) : Nat := if w.mod.toNat % 4 == 3 then 1 else 2 ^ (w.mod.toNat % 4)

/-- The XM values of `REDUX` (R169). -/
def reduxXm (w : TWord) : List Nat :=
  if w.mod.toNat == 0 then [0, 4, 8, 12]
  else if w.mod.toNat ≤ 5 then [0, 4]
  else if w.mod.toNat == 6 then [0, 1, 2, 3]
  else [0]

/-- `NOP` (R151): every field but the guard, DIST and a CUE of 0 or 15 is zero. -/
def nopCauses (w : TWord) : List Nat :=
  cueCauses w.cue.toNat ++ guardCauses w.pg.toNat w.pn ++
    (if w.mod.toNat == 0 && w.xm.toNat == 0 && w.d.toNat == 0 && !w.nw && w.a.toNat == 0 && w.b.toNat == 0 &&
        w.c.toNat == 0 && (w.cue.toNat == 0 || w.cue.toNat ≥ 12) then [] else [0x09])

/-- The D field of `ICMPI` (R163). -/
def icmpiCauses (w : IWord) : List Nat :=
  (if w.d.toNat / 128 == 0 then [] else [0x09]) ++ (if w.d.toNat / 8 % 16 < 10 then [] else [0x08])

/-- The masks of `FENCEX` (R228). -/
def fencexCauses (w : MWord) : List Nat :=
  (if w.a.toNat < 128 && w.imm.toNat < 128 then [] else [0x09]) ++
    (if w.a.toNat % 128 == 0 || w.imm.toNat % 128 == 0 then [0x08] else [])

/-- The element operations of `LOOPN` that do not read B (R207). -/
def loopNoB (eop : Nat) : Bool := eop == 0 || eop == 7 || eop == 8

/-- The checks of `LOOPN` (R138, R207, R208). -/
def lCauses (w : LWord) : List Nat :=
  cueCauses w.cue.toNat ++ guardCauses w.pg.toNat w.pn ++
    (if w.eop.toNat ≤ 8 && w.typ.toNat ≤ 8 then [] else [0x08]) ++
    (if w.mbz.toNat == 0 && w.mbz2.toNat == 0 && w.flags.toNat / 8 == 0 then [] else [0x09]) ++
    (if w.typ.toNat ≤ 2 then (if w.flags.toNat / 4 % 2 == 0 then [] else [0x08])
     else if w.flags.toNat % 4 == 0 then [] else [0x08]) ++
    (if loopNoB w.eop.toNat &&
        !(w.sb.toNat == 0 && [w.str[2], w.str[5], w.str[8], w.str[11], w.str[14]].all (fun x => x.toNat == 0))
     then [0x09] else [])

/-- The fields that each instruction reads and the values it admits, row by row from its description. -/
def Instr.shape : Instr → Shape
  | .nop _ => { }
  | .mov w => { mods := [0, 3], d := .dst (m3W w), a := .src (m3W w) }
  | .movi _ => { d := .dst 1 }
  | .iadd w => { mods := (List.range 16), d := .dst (typW w), a := .src (typW w), b := .src (typW w) }
  | .iaddi _ => { d := .dst 1, a := .src 1 }
  | .isub w => { mods := (List.range 16), d := .dst (typW w), a := .src (typW w), b := .src (typW w) }
  | .iadd3 w => { mods := [0, 1, 2, 3, 8, 9, 10, 11], d := .dst (typW w), a := .src (typW w), b := .src (typW w), c := .src (typW w) }
  | .iaddc _ => { mods := [1], xms := [0, 4], d := .dst 1, a := .src 1, b := .src 1, c := .carry }
  | .isubb _ => { mods := [1], xms := [0, 4], d := .dst 1, a := .src 1, b := .src 1, c := .carry }
  | .imul w => { mods := [0, 1, 2, 3, 8, 9, 10, 11], d := .dst (typW w), a := .src (typW w), b := .src (typW w) }
  | .imulh _ => { mods := [0, 1], d := .dst 1, a := .src 1, b := .src 1 }
  | .imad w => { mods := [0, 1, 8, 9], xms := [0, 4], d := .dst (accW w), a := .src 1, b := .src 1, c := .src (accW w) }
  | .isad _ => { mods := [0, 1, 6, 7, 8, 9, 14, 15], d := .dst 1, a := .src 1, b := .src 1, c := .src 1 }
  | .imin w => { mods := (List.range 8), d := .dst (typW w), a := .src (typW w), b := .src (typW w) }
  | .imax w => { mods := (List.range 8), d := .dst (typW w), a := .src (typW w), b := .src (typW w) }
  | .iabs w => { mods := [0, 2, 4, 6, 8, 10, 12, 14], d := .dst (typW w), a := .src (typW w) }
  | .and _ => { d := .dst 1, a := .src 1, b := .src 1 }
  | .or _ => { d := .dst 1, a := .src 1, b := .src 1 }
  | .xor _ => { d := .dst 1, a := .src 1, b := .src 1 }
  | .andn _ => { d := .dst 1, a := .src 1, b := .src 1 }
  | .lop3 w => { d := .dst 1, a := .src 1, b := .src 1, c := .raw, extra := (if w.c.toNat < 256 then [] else [0x09]) }
  | .andi _ => { d := .dst 1, a := .src 1 }
  | .ori _ => { d := .dst 1, a := .src 1 }
  | .xori _ => { d := .dst 1, a := .src 1 }
  | .shl w => { mods := [0, 1, 2, 3], d := .dst (typW w), a := .src (typW w), b := .src 1 }
  | .shr w => { mods := [0, 1, 2, 3], d := .dst (typW w), a := .src (typW w), b := .src 1 }
  | .shf _ => { mods := [0, 1], d := .dst 1, a := .src 1, b := .src 1, c := .src 1 }
  | .bfx _ => { mods := [0, 1], d := .dst 1, a := .src 1, b := .src 1 }
  | .bfi _ => { d := .dst 1, a := .src 1, b := .src 1, c := .src 1 }
  | .popc w => { mods := [1, 3], d := .dst 1, a := .src (m3W w) }
  | .clz w => { mods := [1, 3], d := .dst 1, a := .src (m3W w) }
  | .brev w => { mods := [1, 3], d := .dst (m3W w), a := .src (m3W w) }
  | .icmp w => { mods := (List.range 6), xms := [0, 4, 8, 12], d := .dstP, a := .src (xmW w), b := .src (xmW w), c := .pred }
  | .icmpi w => { d := .raw, a := .src 1, extra := icmpiCauses w }
  | .sel w => { mods := [0, 3], d := .dst (m3W w), a := .src (m3W w), b := .src (m3W w), c := .src 1 }
  | .plop w => { d := .pred, a := .pred, b := .pred, c := .raw, extra := (if w.c.toNat < 256 then [] else [0x09]) }
  | .pmovPack _ => { d := .dst 1 }
  | .pmovUnpack _ => { mods := [1], a := .src 1 }
  | .shfl _ => { mods := (List.range 5), d := .dst 1, a := .src 1, b := .src 1, c := .src 1 }
  | .vote w => { mods := (List.range 6), d := .dstP, a := .src 1, extra := (if w.mod.toNat == 4 && (selClass w.d == .pred) then [0x06] else []) }
  | .ballot _ => { d := .dst 1, a := .src 1 }
  | .redux w => { mods := (List.range 9), xms := (reduxXm w), d := .dst 1, a := .src 1 }
  | .rdspec w => { d := .dst (if w.a.toNat == 0x184 || w.a.toNat == 0x188 then 2 else 1), a := .elem 16 }
  | .rdspecClr w => { mods := [1], d := .dst (if w.a.toNat == 0x184 || w.a.toNat == 0x188 then 2 else 1), a := .elem 16, extra := (if w.a.toNat == 0x190 then [] else [0x08]) }
  | .umov _ => { d := .sreg 1, a := .src 1, b := .uni 1 }
  | .uiadd w => { mods := [0, 3], d := .sreg (m3W w), a := .uni (m3W w), b := .uni (m3W w) }
  | .bra _ => { tgt := true }
  | .brx _ => { a := .src 1, tgt := true }
  | .call _ => { d := .callD, tgt := true }
  | .callR _ => { mods := [1], d := .callD, a := .src 2 }
  | .ret _ => { a := .src 2 }
  | .reform _ => { }
  | .reformQuad _ => { mods := [1] }
  | .exit _ => { }
  | .spawn _ => { d := .dst 1, a := .src 1, tgt := true }
  | .yield _ => { }
  | .join _ => { d := .dst 1, a := .src 1 }
  | .leave _ => { }
  | .bar _ => { mods := [0, 4, 8, 12] }
  | .barArr _ => { mods := [1, 5, 9, 13] }
  | .barWait _ => { mods := [2] }
  | .sleep _ => { a := .src 1 }
  | .refill _ => { d := .dst 1, a := .sreg 1 }
  | .trap _ => { a := .src 1 }
  | .brkpt _ => { a := .src 1 }
  | .rgne _ => { }
  | .rngpush _ => { a := .src 1 }
  | .rngpop _ => { }
  | .fadd _ => { xms := [0, 1, 2, 3, 4, 5, 6, 7], d := .dst 1, a := .src 1, b := .src 1 }
  | .fsub _ => { xms := [0, 1, 2, 3, 4, 5, 6, 7], d := .dst 1, a := .src 1, b := .src 1 }
  | .fmul _ => { xms := [0, 1, 2, 3, 4, 5, 6, 7], d := .dst 1, a := .src 1, b := .src 1 }
  | .ffma _ => { xms := [0, 1, 2, 3, 4, 5, 6, 7], d := .dst 1, a := .src 1, b := .src 1, c := .src 1 }
  | .faddi _ => { d := .dst 1, a := .src 1 }
  | .fmuli _ => { d := .dst 1, a := .src 1 }
  | .fmin _ => { d := .dst 1, a := .src 1, b := .src 1 }
  | .fmax _ => { d := .dst 1, a := .src 1, b := .src 1 }
  | .fcmp _ => { mods := (List.range 8), d := .dstP, a := .src 1, b := .src 1, c := .pred }
  | .fclass _ => { d := .dstP, a := .src 1, c := .raw }
  | .frnd _ => { xms := [0, 1, 2, 3], d := .dst 1, a := .src 1 }
  | .fexp2f _ => { d := .dst 1, a := .src 1 }
  | .fldexp _ => { xms := [0, 1, 2, 3], d := .dst 1, a := .src 1, b := .src 1 }
  | .frcp _ => { d := .dst 1, a := .src 1 }
  | .frsq _ => { d := .dst 1, a := .src 1 }
  | .fsqrt _ => { xms := [0, 1, 2, 3], d := .dst 1, a := .src 1 }
  | .flog2 _ => { d := .dst 1, a := .src 1 }
  | .fsin _ => { d := .dst 1, a := .src 1 }
  | .fcos _ => { d := .dst 1, a := .src 1 }
  | .ftanh _ => { d := .dst 1, a := .src 1 }
  | .hadd2 _ => { mods := [0, 1], xms := [0, 1, 2, 3, 4, 5, 6, 7], d := .dst 1, a := .src 1, b := .src 1 }
  | .hmul2 _ => { mods := [0, 1], xms := [0, 1, 2, 3, 4, 5, 6, 7], d := .dst 1, a := .src 1, b := .src 1 }
  | .hfma2 _ => { mods := [0, 1], xms := [0, 1, 2, 3, 4, 5, 6, 7], d := .dst 1, a := .src 1, b := .src 1, c := .src 1 }
  | .hmnx2 _ => { mods := [0, 1, 2, 3], d := .dst 1, a := .src 1, b := .src 1 }
  | .fdot2 _ => { mods := [0, 1], xms := [0, 1, 2, 3], d := .dst 1, a := .src 1, b := .src 1, c := .src 1 }
  | .idp4 _ => { mods := [0, 1, 2, 3, 8, 9, 10, 11], d := .dst 1, a := .src 1, b := .src 1, c := .src 1 }
  | .cmul _ => { xms := [0, 1, 2, 3, 4, 5, 6, 7], d := .dst 2, a := .src 2, b := .src 2 }
  | .cmad _ => { xms := [0, 1, 2, 3, 4, 5, 6, 7], d := .dst 2, a := .src 2, b := .src 2, c := .src 2 }
  | .cmag2 _ => { xms := [0, 1, 2, 3], d := .dst 1, a := .src 2 }
  | .f2i w => { mods := (List.range 8), xms := (List.range 12), d := .dst (typW w), a := .src 1 }
  | .i2f w => { mods := (List.range 8), xms := (List.range 12), d := .dst 1, a := .src (typW w) }
  | .f2fNarrow w => { mods := [1, 2, 3, 4, 11], xms := [0, 1, 2, 3], d := .dst 1, a := .src 1, b := .elem (if w.mod.toNat % 8 == 1 || w.mod.toNat % 8 == 2 then 1 else 3), c := .src 1 }
  | .f2fWiden w => { mods := [1, 2, 3, 4], xms := [4], d := .dst 1, a := .src 1, b := .elem (if w.mod.toNat % 8 == 1 || w.mod.toNat % 8 == 2 then 1 else 3) }
  | .qnt _ => { mods := (List.range 8), xms := [0, 1, 2, 3], d := .dst 1, a := .src 1, b := .src 1 }
  | .dqnt _ => { mods := (List.range 8), xms := [0, 1, 2, 3], d := .dst 1, a := .src 1, b := .src 1 }
  | .derivx _ => { mods := [0, 1], xms := [0, 1, 2, 3], d := .dst 1, a := .src 1 }
  | .derivy _ => { mods := [0, 1], xms := [0, 1, 2, 3], d := .dst 1, a := .src 1 }
  | .qswap _ => { mods := [0, 1, 2], d := .dst 1, a := .src 1 }
  | .raybox _ => { d := .vrun 2 2 0x07, a := .vrun 8 1 0x06, b := .vrun 6 1 0x06 }
  | .raytri _ => { mods := [0, 1], d := .vrun 4 1 0x06, a := .vrun 6 1 0x06, b := .vrun 9 1 0x06 }
  | .loopn _ => { }
  | .fill _ => { mods := [0, 1, 2], a := .sreg 1, b := .src 1, c := .sreg 1 }
  | .ldg w => { mods := (List.range 7), xms := [0, 1, 2, 3, 8, 9, 10, 11], d := .loadD (memW w), a := .src 1, s := true, imm := true, extra := (if w.ex.toNat / 8 == 1 && w.pg.toNat == 0 then [0x09] else []) }
  | .stg w => { mods := (List.range 5), xms := [0, 1, 4, 5], d := .src (memW w), a := .src 1, s := true, imm := true }
  | .atomg w => { mods := (List.range 15), xms := (List.range 8), d := .atomD (atomW w), a := .src 1, s := true, imm := true }
  | .casg w => { mods := [0, 1], xms := (List.range 8), d := .atomD (casW w), a := .src 1, s := true, imm := true }
  | .lds w => { mods := (List.range 7), xms := [0, 2], d := .loadD (memW w), a := .src 1, imm := true }
  | .sts w => { mods := (List.range 5), xms := [0, 4], d := .src (memW w), a := .src 1, imm := true }
  | .atoms w => { mods := (List.range 15), xms := [0, 2, 4, 6], d := .atomD (atomW w), a := .src 1, imm := true }
  | .cass w => { mods := [0, 1], xms := [0, 2, 4, 6], d := .atomD (casW w), a := .src 1, imm := true }
  | .ldsm w => { mods := [0, 1, 2, 4, 5, 6, 8, 9, 10, 12, 13, 14], d := .vrun (fragN w) (fragN w) 0x06, a := .src 1, imm := true }
  | .ldsmt w => { mods := [0, 1, 2, 4, 5, 6, 8, 9, 10, 12, 13, 14], d := .vrun (fragN w) (fragN w) 0x06, a := .src 1, imm := true }
  | .stx w => { mods := (List.range 5), d := .src (memW w), a := .src 1, imm := true }
  | .ldt w => { mods := (List.range 7), xms := [0, 1, 2, 3, 8, 9, 10, 11], d := .loadD (memW w), a := .src 2, imm := true, extra := (if w.ex.toNat / 8 == 1 && w.pg.toNat == 0 then [0x09] else []) }
  | .stt w => { mods := (List.range 5), xms := [0, 1, 4, 5], d := .src (memW w), a := .src 2, imm := true }
  | .atomt w => { mods := (List.range 15), xms := (List.range 8), d := .atomD (atomW w), a := .src 2, imm := true }
  | .ldk w => { mods := (List.range 7), d := .loadD (memW w), a := .src 1, imm := true }
  | .prfg _ => { mods := [0, 1], a := .src 1, s := true, imm := true }
  | .fence _ => { mods := (List.range 5) }
  | .fencex w => { mods := (List.range 5), a := .raw, imm := true, extra := fencexCauses w }
  | .cpy _ => { mods := [0, 1, 2, 4, 5, 6], d := .src 1, a := .src 1, s := true, imm := true }
  | .cpym w => { a := .uni 1, s := true, extra := (if w.s.toNat % 8 == 0 then [] else [0x06]) }
  | .cpyb w => { s := true, extra := (if w.s.toNat % 8 == 0 then [] else [0x06]) }
  | .slotret _ => { a := .src 1 }
  | .feset _ => { mods := (List.range 16), a := .src 1, imm := true }
  | .feqry _ => { mods := (List.range 16), d := .dst 1, a := .src 1, imm := true }
  | .bufq _ => { mods := (List.range 7), d := .dst 1, s := true }
  | .pgreq _ => { a := .src 1, s := true, imm := true }
  | .woarm _ => { mods := (List.range 16), xms := [0, 1, 4, 5], a := .src 1, s := true, imm := true }
  | .opclm _ => { d := .dst 1 }
  | .oprel _ => { a := .src 1 }
  | .opld _ => { a := .src 1, b := .src 1, c := .src 1 }
  | .opldg _ => { a := .src 1, b := .sreg 2, c := .src 1 }
  | .wlatch _ => { mods := [0, 1, 2, 3], a := .src 1 }
  | .mstream _ => { mods := (List.range 8), a := .src 1, b := .src 1 }
  | .mlut _ => { mods := (List.range 8), a := .src 1, b := .src 1 }
  | .mdrain w => { mods := [0, 1, 2, 4, 5, 6, 8, 9, 10, 12, 13, 14], a := .sreg 2, b := .src 1, c := if w.mod.toNat % 4 == 2 then .src 1 else .none }
  | .mzero _ => { b := .src 1 }
  | .taskputResv _ => { d := .dst 1, a := .src 1 }
  | .taskputCommit _ => { mods := [1], a := .src 1, b := .src 1 }
  | .taskputFree _ => { mods := [2], a := .src 1 }
  | .taskarm _ => { a := .src 1 }
  | .taskarmDec _ => { mods := [1], a := .src 1 }
  | .taskqry w => { mods := [0, 1, 2], d := .dst 1, a := if w.mod.toNat == 2 then .zeroSel else .src 1 }
  | .acbind _ => { d := .dst 1, a := .src 1, b := .sreg 2 }
  | .acunbind _ => { mods := [1, 2, 3], d := .dst 1, a := .src 1 }
  | .acparam _ => { mods := [0, 1, 2, 3], a := .src 1, b := .src 1, c := .src 1 }
  | .acqry _ => { mods := (List.range 7), d := .dst 1, a := .src 1 }
  | .sld _ => { mods := [0, 4, 5, 6, 7], xms := [0, 4], d := .dst 1, a := .sreg 1, b := .src 1, c := .src 1 }
  | .sst _ => { mods := [0, 4, 5, 6, 7], xms := [0, 8], d := .src 1, a := .sreg 1, b := .src 1, c := .src 1 }
  | .sstc _ => { mods := [0, 1, 2, 3], xms := [0, 8], d := .src 1, a := .sreg 1, b := .src 1, c := .src 1 }
  | .sstmv _ => { mods := [0, 1, 2, 3], xms := [0, 8], d := .src 1, a := .sreg 1, b := .src 1, c := .src 1 }
  | .sstmvHint _ => { mods := [4, 5, 6, 7], xms := [0, 8], d := .src 1, a := .sreg 1, b := .src 1, c := .src 1 }
  | .ssealOpen _ => { mods := [1], a := .sreg 1, b := .sreg 4 }
  | .ssealSeal _ => { a := .sreg 1, b := .uni 1 }
  | .sqry w => { mods := (List.range 8), d := .dst 1, a := .sreg 1, b := if w.mod.toNat < 4 then .zeroSel else .src 1, c := if w.mod.toNat < 4 then .zeroSel else .src 1 }
  | .smat _ => { a := .sreg 1, b := .src 1, c := .src 1 }
  | .primemitTri _ => { a := .sreg 1, b := .vrun 10 1 0x06 }
  | .primemitOpen _ => { mods := [1], d := .dst 1, a := .sreg 1 }
  | .primemitClose _ => { mods := [2], a := .sreg 1 }
  | .visq _ => { mods := [0, 1, 2, 3], d := .dst 1 }
  | .mvereq _ => { d := .dst 1, a := .sreg 8 }
  | .mveqry w => { mods := [0, 1, 2], d := .dst 1, a := if w.mod.toNat == 2 then .zeroSel else .src 1 }
  | .rdsys w => { mods := [0, 1], d := .dst (m1W w), a := .src 1, b := .src 1 }
  | .wrsys w => { mods := [0, 1], a := .src 1, b := .src 1, c := .src (m1W w) }
  | .waitev _ => { d := .dst 1, a := .src 1, b := .src 1 }
  | .frpop _ => { d := .dst 2, a := .src 1, b := .src 1, c := .src 1 }
  | .resumeRec _ => { d := .dst 1, a := .src 1, b := .src 1, c := .src 1 }
  | .resumeScn _ => { mods := [1], d := .dst 1, a := .src 1, b := .src 1 }
  | .swapout _ => { d := .dst 1, a := .src 1, b := .src 1 }
  | .swapin _ => { d := .dst 1, a := .src 1, b := .src 1, c := .src 1 }
  | .scenekill _ => { d := .dst 1, a := .src 1, b := .src 1 }
  | .haltb _ => { d := .dst 1, a := .src 1, b := .src 1 }
  | .dump _ => { d := .dst 2, a := .src 1, b := .src 1, c := .src 2 }
  | .reti _ => { a := .src 1 }
  | .tlbinvRange _ => { a := .src 1, b := .src 2, c := .src 1 }
  | .tlbinvCtx _ => { mods := [1], a := .src 1 }
  | .retype _ => { d := .dst 1, a := .src 2, b := .src 1 }
  | .hashver _ => { d := .dst 1, a := .src 2 }
  | .ptwr _ => { a := .src 2, b := .src 2 }
  | .drain _ => { d := .dst 1, a := .src 1, b := .src 1 }
  | .drainAbandon _ => { mods := [1], d := .dst 1, a := .src 1, b := .src 1 }
  | .clauseStart _ _ _ => { }
  | .holdAllowanceSpent _ => { }
  | .schedulingRoundEnd => { }
  | .idleBayReelDraw _ _ => { }
  | .sleepExpiry _ => { }
  | .sceneAdmission _ => { }
  | .taskNodeLaunch _ _ => { }
  | .tileTaskDispatch _ _ => { }
  | .taskNodeComplete _ _ => { }
  | .slotEmpty _ => { }
  | .variableCompletion _ => { }
  | .engineLineFill _ => { }
  | .registerLineFill _ _ => { }
  | .codeRowLoad _ _ _ => { }
  | .asyncRecordHalt _ => { }
  | .copyFaultResume _ => { }
  | .woWaitTimeout _ => { }
  | .engineWoWaitTimeout _ => { }
  | .swapSaveComplete _ => { }
  | .sceneReadmission _ _ => { }
  | .sceneRestoreComplete _ => { }
  | .quantumExpiry _ => { }
  | .partitionRestore _ => { }
  | .handlerDispatch _ _ => { }
  | .waitevWake _ => { }
  | .timerExpiry _ => { }
  | .evpendWrite _ _ => { }
  | .timerWrite _ _ => { }
  | .eventryWrite _ _ => { }
  | .groupmodeWrite _ _ => { }
  | .fqbaseWrite _ _ => { }
  | .supqbaseWrite _ _ => { }
  | .dailycfgWrite _ _ => { }
  | .silcfgWrite _ _ => { }
  | .l2LineFill _ _ => { }
  | .l2LineWriteback _ _ => { }
  | .streamContextRelease _ _ _ => { }
  | .rowActivation _ _ => { }
  | .conflictWindowEnd _ => { }
  | .refreshManagement _ => { }
  | .scrubLine _ => { }
  | .migrationStep _ => { }
  | .sramSoftError _ _ _ => { }
  | .sealCoding _ => { }
  | .binFinal _ _ => { }
  | .passDone _ => { }
  | .mveRequestStart _ => { }
  | .mveRequestComplete _ => { }
  | .hostConfigAccess _ => { }
  | .hostHdmAccess _ _ _ _ => { }
  | .hostAtomicWindowAccess _ _ _ _ _ => { }
  | .hostSnoop _ _ => { }
  | .remoteRequest _ _ _ _ => { }
  | .flitRetry _ => { }
  | .linkPortDown _ => { }
  | .planeRestored _ => { }
  | .regctx _ => { }
  | .deregctx _ => { }
  | .setpart _ => { }
  | .exportEntry _ => { }
  | .attest _ => { }
  | .loadkey _ => { }
  | .setlcs _ => { }
  | .loadfw _ => { }
  | .bringUp => { }
  | .thermalTrip => { }
  | .powerLimitReached _ => { }
  | .standbyWake => { }
  | .powerOff => { }

/-- The format of each instruction (R133). -/
def Instr.format : Instr → Format
  | .nop w => .t w
  | .mov w => .t w
  | .movi w => .i w
  | .iadd w => .t w
  | .iaddi w => .i w
  | .isub w => .t w
  | .iadd3 w => .t w
  | .iaddc w => .t w
  | .isubb w => .t w
  | .imul w => .t w
  | .imulh w => .t w
  | .imad w => .t w
  | .isad w => .t w
  | .imin w => .t w
  | .imax w => .t w
  | .iabs w => .t w
  | .and w => .t w
  | .or w => .t w
  | .xor w => .t w
  | .andn w => .t w
  | .lop3 w => .t w
  | .andi w => .i w
  | .ori w => .i w
  | .xori w => .i w
  | .shl w => .t w
  | .shr w => .t w
  | .shf w => .t w
  | .bfx w => .t w
  | .bfi w => .t w
  | .popc w => .t w
  | .clz w => .t w
  | .brev w => .t w
  | .icmp w => .t w
  | .icmpi w => .i w
  | .sel w => .t w
  | .plop w => .t w
  | .pmovPack w => .t w
  | .pmovUnpack w => .t w
  | .shfl w => .t w
  | .vote w => .t w
  | .ballot w => .t w
  | .redux w => .t w
  | .rdspec w => .t w
  | .rdspecClr w => .t w
  | .umov w => .t w
  | .uiadd w => .t w
  | .bra w => .j w
  | .brx w => .j w
  | .call w => .j w
  | .callR w => .j w
  | .ret w => .j w
  | .reform w => .j w
  | .reformQuad w => .j w
  | .exit w => .j w
  | .spawn w => .j w
  | .yield w => .j w
  | .join w => .j w
  | .leave w => .j w
  | .bar w => .j w
  | .barArr w => .j w
  | .barWait w => .j w
  | .sleep w => .j w
  | .refill w => .j w
  | .trap w => .j w
  | .brkpt w => .j w
  | .rgne w => .j w
  | .rngpush w => .j w
  | .rngpop w => .j w
  | .fadd w => .t w
  | .fsub w => .t w
  | .fmul w => .t w
  | .ffma w => .t w
  | .faddi w => .i w
  | .fmuli w => .i w
  | .fmin w => .t w
  | .fmax w => .t w
  | .fcmp w => .t w
  | .fclass w => .t w
  | .frnd w => .t w
  | .fexp2f w => .t w
  | .fldexp w => .t w
  | .frcp w => .t w
  | .frsq w => .t w
  | .fsqrt w => .t w
  | .flog2 w => .t w
  | .fsin w => .t w
  | .fcos w => .t w
  | .ftanh w => .t w
  | .hadd2 w => .t w
  | .hmul2 w => .t w
  | .hfma2 w => .t w
  | .hmnx2 w => .t w
  | .fdot2 w => .t w
  | .idp4 w => .t w
  | .cmul w => .t w
  | .cmad w => .t w
  | .cmag2 w => .t w
  | .f2i w => .t w
  | .i2f w => .t w
  | .f2fNarrow w => .t w
  | .f2fWiden w => .t w
  | .qnt w => .t w
  | .dqnt w => .t w
  | .derivx w => .t w
  | .derivy w => .t w
  | .qswap w => .t w
  | .raybox w => .t w
  | .raytri w => .t w
  | .loopn w => .l w
  | .fill w => .t w
  | .ldg w => .m w
  | .stg w => .m w
  | .atomg w => .m w
  | .casg w => .m w
  | .lds w => .m w
  | .sts w => .m w
  | .atoms w => .m w
  | .cass w => .m w
  | .ldsm w => .m w
  | .ldsmt w => .m w
  | .stx w => .m w
  | .ldt w => .m w
  | .stt w => .m w
  | .atomt w => .m w
  | .ldk w => .m w
  | .prfg w => .m w
  | .fence w => .m w
  | .fencex w => .m w
  | .cpy w => .m w
  | .cpym w => .m w
  | .cpyb w => .m w
  | .slotret w => .m w
  | .feset w => .m w
  | .feqry w => .m w
  | .bufq w => .m w
  | .pgreq w => .m w
  | .woarm w => .m w
  | .opclm w => .t w
  | .oprel w => .t w
  | .opld w => .t w
  | .opldg w => .t w
  | .wlatch w => .t w
  | .mstream w => .t w
  | .mlut w => .t w
  | .mdrain w => .t w
  | .mzero w => .t w
  | .taskputResv w => .t w
  | .taskputCommit w => .t w
  | .taskputFree w => .t w
  | .taskarm w => .t w
  | .taskarmDec w => .t w
  | .taskqry w => .t w
  | .acbind w => .t w
  | .acunbind w => .t w
  | .acparam w => .t w
  | .acqry w => .t w
  | .sld w => .t w
  | .sst w => .t w
  | .sstc w => .t w
  | .sstmv w => .t w
  | .sstmvHint w => .t w
  | .ssealOpen w => .t w
  | .ssealSeal w => .t w
  | .sqry w => .t w
  | .smat w => .t w
  | .primemitTri w => .t w
  | .primemitOpen w => .t w
  | .primemitClose w => .t w
  | .visq w => .t w
  | .mvereq w => .t w
  | .mveqry w => .t w
  | .rdsys w => .t w
  | .wrsys w => .t w
  | .waitev w => .t w
  | .frpop w => .t w
  | .resumeRec w => .t w
  | .resumeScn w => .t w
  | .swapout w => .t w
  | .swapin w => .t w
  | .scenekill w => .t w
  | .haltb w => .t w
  | .dump w => .t w
  | .reti w => .t w
  | .tlbinvRange w => .t w
  | .tlbinvCtx w => .t w
  | .retype w => .t w
  | .hashver w => .t w
  | .ptwr w => .t w
  | .drain w => .t w
  | .drainAbandon w => .t w
  | .clauseStart _ _ _ => .event
  | .holdAllowanceSpent _ => .event
  | .schedulingRoundEnd => .event
  | .idleBayReelDraw _ _ => .event
  | .sleepExpiry _ => .event
  | .sceneAdmission _ => .event
  | .taskNodeLaunch _ _ => .event
  | .tileTaskDispatch _ _ => .event
  | .taskNodeComplete _ _ => .event
  | .slotEmpty _ => .event
  | .variableCompletion _ => .event
  | .engineLineFill _ => .event
  | .registerLineFill _ _ => .event
  | .codeRowLoad _ _ _ => .event
  | .asyncRecordHalt _ => .event
  | .copyFaultResume _ => .event
  | .woWaitTimeout _ => .event
  | .engineWoWaitTimeout _ => .event
  | .swapSaveComplete _ => .event
  | .sceneReadmission _ _ => .event
  | .sceneRestoreComplete _ => .event
  | .quantumExpiry _ => .event
  | .partitionRestore _ => .event
  | .handlerDispatch _ _ => .event
  | .waitevWake _ => .event
  | .timerExpiry _ => .event
  | .evpendWrite _ _ => .event
  | .timerWrite _ _ => .event
  | .eventryWrite _ _ => .event
  | .groupmodeWrite _ _ => .event
  | .fqbaseWrite _ _ => .event
  | .supqbaseWrite _ _ => .event
  | .dailycfgWrite _ _ => .event
  | .silcfgWrite _ _ => .event
  | .l2LineFill _ _ => .event
  | .l2LineWriteback _ _ => .event
  | .streamContextRelease _ _ _ => .event
  | .rowActivation _ _ => .event
  | .conflictWindowEnd _ => .event
  | .refreshManagement _ => .event
  | .scrubLine _ => .event
  | .migrationStep _ => .event
  | .sramSoftError _ _ _ => .event
  | .sealCoding _ => .event
  | .binFinal _ _ => .event
  | .passDone _ => .event
  | .mveRequestStart _ => .event
  | .mveRequestComplete _ => .event
  | .hostConfigAccess _ => .event
  | .hostHdmAccess _ _ _ _ => .event
  | .hostAtomicWindowAccess _ _ _ _ _ => .event
  | .hostSnoop _ _ => .event
  | .remoteRequest _ _ _ _ => .event
  | .flitRetry _ => .event
  | .linkPortDown _ => .event
  | .planeRestored _ => .event
  | .regctx _ => .event
  | .deregctx _ => .event
  | .setpart _ => .event
  | .exportEntry _ => .event
  | .attest _ => .event
  | .loadkey _ => .event
  | .setlcs _ => .event
  | .loadfw _ => .event
  | .bringUp => .event
  | .thermalTrip => .event
  | .powerLimitReached _ => .event
  | .standbyWake => .event
  | .powerOff => .event

/-- The opcode of each instruction (R145); 0x100 for a row that has no encoding. -/
def Instr.opcode : Instr → Nat
  | .nop _ => 0x00
  | .mov _ => 0x01
  | .movi _ => 0x02
  | .iadd _ => 0x03
  | .iaddi _ => 0x04
  | .isub _ => 0x05
  | .iadd3 _ => 0x06
  | .iaddc _ => 0x07
  | .isubb _ => 0x08
  | .imul _ => 0x09
  | .imulh _ => 0x0A
  | .imad _ => 0x0B
  | .isad _ => 0x0C
  | .imin _ => 0x0D
  | .imax _ => 0x0E
  | .iabs _ => 0x0F
  | .and _ => 0x10
  | .or _ => 0x11
  | .xor _ => 0x12
  | .andn _ => 0x13
  | .lop3 _ => 0x14
  | .andi _ => 0x15
  | .ori _ => 0x16
  | .xori _ => 0x17
  | .shl _ => 0x18
  | .shr _ => 0x19
  | .shf _ => 0x1A
  | .bfx _ => 0x1B
  | .bfi _ => 0x1C
  | .popc _ => 0x1D
  | .clz _ => 0x1E
  | .brev _ => 0x1F
  | .icmp _ => 0x20
  | .icmpi _ => 0x21
  | .sel _ => 0x22
  | .plop _ => 0x23
  | .pmovPack _ => 0x24
  | .pmovUnpack _ => 0x24
  | .shfl _ => 0x25
  | .vote _ => 0x26
  | .ballot _ => 0x27
  | .redux _ => 0x28
  | .rdspec _ => 0x29
  | .rdspecClr _ => 0x29
  | .umov _ => 0x2A
  | .uiadd _ => 0x2B
  | .bra _ => 0x30
  | .brx _ => 0x31
  | .call _ => 0x32
  | .callR _ => 0x32
  | .ret _ => 0x33
  | .reform _ => 0x34
  | .reformQuad _ => 0x34
  | .exit _ => 0x35
  | .spawn _ => 0x36
  | .yield _ => 0x37
  | .join _ => 0x38
  | .leave _ => 0x39
  | .bar _ => 0x3A
  | .barArr _ => 0x3A
  | .barWait _ => 0x3A
  | .sleep _ => 0x3B
  | .refill _ => 0x3C
  | .trap _ => 0x3D
  | .brkpt _ => 0x3E
  | .rgne _ => 0x3F
  | .rngpush _ => 0x40
  | .rngpop _ => 0x41
  | .fadd _ => 0x48
  | .fsub _ => 0x49
  | .fmul _ => 0x4A
  | .ffma _ => 0x4B
  | .faddi _ => 0x4C
  | .fmuli _ => 0x4D
  | .fmin _ => 0x4E
  | .fmax _ => 0x4F
  | .fcmp _ => 0x50
  | .fclass _ => 0x51
  | .frnd _ => 0x52
  | .fexp2f _ => 0x53
  | .fldexp _ => 0x54
  | .frcp _ => 0x55
  | .frsq _ => 0x56
  | .fsqrt _ => 0x57
  | .flog2 _ => 0x58
  | .fsin _ => 0x59
  | .fcos _ => 0x5A
  | .ftanh _ => 0x5B
  | .hadd2 _ => 0x5C
  | .hmul2 _ => 0x5D
  | .hfma2 _ => 0x5E
  | .hmnx2 _ => 0x5F
  | .fdot2 _ => 0x60
  | .idp4 _ => 0x61
  | .cmul _ => 0x62
  | .cmad _ => 0x63
  | .cmag2 _ => 0x64
  | .f2i _ => 0x65
  | .i2f _ => 0x66
  | .f2fNarrow _ => 0x67
  | .f2fWiden _ => 0x67
  | .qnt _ => 0x68
  | .dqnt _ => 0x69
  | .derivx _ => 0x6A
  | .derivy _ => 0x6B
  | .qswap _ => 0x6C
  | .raybox _ => 0x6D
  | .raytri _ => 0x6E
  | .loopn _ => 0x6F
  | .fill _ => 0x70
  | .ldg _ => 0x78
  | .stg _ => 0x79
  | .atomg _ => 0x7A
  | .casg _ => 0x7B
  | .lds _ => 0x7C
  | .sts _ => 0x7D
  | .atoms _ => 0x7E
  | .cass _ => 0x7F
  | .ldsm _ => 0x80
  | .ldsmt _ => 0x81
  | .stx _ => 0x82
  | .ldt _ => 0x83
  | .stt _ => 0x84
  | .atomt _ => 0x85
  | .ldk _ => 0x86
  | .prfg _ => 0x87
  | .fence _ => 0x88
  | .fencex _ => 0x89
  | .cpy _ => 0x8A
  | .cpym _ => 0x8B
  | .cpyb _ => 0x8C
  | .slotret _ => 0x8D
  | .feset _ => 0x8E
  | .feqry _ => 0x8F
  | .bufq _ => 0x90
  | .pgreq _ => 0x91
  | .woarm _ => 0x92
  | .opclm _ => 0x98
  | .oprel _ => 0x99
  | .opld _ => 0x9A
  | .opldg _ => 0x9B
  | .wlatch _ => 0x9C
  | .mstream _ => 0x9D
  | .mlut _ => 0x9E
  | .mdrain _ => 0x9F
  | .mzero _ => 0xA0
  | .taskputResv _ => 0xA1
  | .taskputCommit _ => 0xA1
  | .taskputFree _ => 0xA1
  | .taskarm _ => 0xA2
  | .taskarmDec _ => 0xA2
  | .taskqry _ => 0xA3
  | .acbind _ => 0xA8
  | .acunbind _ => 0xA9
  | .acparam _ => 0xAA
  | .acqry _ => 0xAB
  | .sld _ => 0xB0
  | .sst _ => 0xB1
  | .sstc _ => 0xB2
  | .sstmv _ => 0xB3
  | .sstmvHint _ => 0xB3
  | .ssealOpen _ => 0xB4
  | .ssealSeal _ => 0xB4
  | .sqry _ => 0xB5
  | .smat _ => 0xB6
  | .primemitTri _ => 0xB7
  | .primemitOpen _ => 0xB7
  | .primemitClose _ => 0xB7
  | .visq _ => 0xB8
  | .mvereq _ => 0xB9
  | .mveqry _ => 0xBA
  | .rdsys _ => 0xE0
  | .wrsys _ => 0xE1
  | .waitev _ => 0xE2
  | .frpop _ => 0xE3
  | .resumeRec _ => 0xE4
  | .resumeScn _ => 0xE4
  | .swapout _ => 0xE5
  | .swapin _ => 0xE6
  | .scenekill _ => 0xE7
  | .haltb _ => 0xE8
  | .dump _ => 0xE9
  | .reti _ => 0xEA
  | .tlbinvRange _ => 0xEB
  | .tlbinvCtx _ => 0xEB
  | .retype _ => 0xEC
  | .hashver _ => 0xED
  | .ptwr _ => 0xEE
  | .drain _ => 0xEF
  | .drainAbandon _ => 0xEF
  | .clauseStart _ _ _ => 0x100
  | .holdAllowanceSpent _ => 0x100
  | .schedulingRoundEnd => 0x100
  | .idleBayReelDraw _ _ => 0x100
  | .sleepExpiry _ => 0x100
  | .sceneAdmission _ => 0x100
  | .taskNodeLaunch _ _ => 0x100
  | .tileTaskDispatch _ _ => 0x100
  | .taskNodeComplete _ _ => 0x100
  | .slotEmpty _ => 0x100
  | .variableCompletion _ => 0x100
  | .engineLineFill _ => 0x100
  | .registerLineFill _ _ => 0x100
  | .codeRowLoad _ _ _ => 0x100
  | .asyncRecordHalt _ => 0x100
  | .copyFaultResume _ => 0x100
  | .woWaitTimeout _ => 0x100
  | .engineWoWaitTimeout _ => 0x100
  | .swapSaveComplete _ => 0x100
  | .sceneReadmission _ _ => 0x100
  | .sceneRestoreComplete _ => 0x100
  | .quantumExpiry _ => 0x100
  | .partitionRestore _ => 0x100
  | .handlerDispatch _ _ => 0x100
  | .waitevWake _ => 0x100
  | .timerExpiry _ => 0x100
  | .evpendWrite _ _ => 0x100
  | .timerWrite _ _ => 0x100
  | .eventryWrite _ _ => 0x100
  | .groupmodeWrite _ _ => 0x100
  | .fqbaseWrite _ _ => 0x100
  | .supqbaseWrite _ _ => 0x100
  | .dailycfgWrite _ _ => 0x100
  | .silcfgWrite _ _ => 0x100
  | .l2LineFill _ _ => 0x100
  | .l2LineWriteback _ _ => 0x100
  | .streamContextRelease _ _ _ => 0x100
  | .rowActivation _ _ => 0x100
  | .conflictWindowEnd _ => 0x100
  | .refreshManagement _ => 0x100
  | .scrubLine _ => 0x100
  | .migrationStep _ => 0x100
  | .sramSoftError _ _ _ => 0x100
  | .sealCoding _ => 0x100
  | .binFinal _ _ => 0x100
  | .passDone _ => 0x100
  | .mveRequestStart _ => 0x100
  | .mveRequestComplete _ => 0x100
  | .hostConfigAccess _ => 0x100
  | .hostHdmAccess _ _ _ _ => 0x100
  | .hostAtomicWindowAccess _ _ _ _ _ => 0x100
  | .hostSnoop _ _ => 0x100
  | .remoteRequest _ _ _ _ => 0x100
  | .flitRetry _ => 0x100
  | .linkPortDown _ => 0x100
  | .planeRestored _ => 0x100
  | .regctx _ => 0x100
  | .deregctx _ => 0x100
  | .setpart _ => 0x100
  | .exportEntry _ => 0x100
  | .attest _ => 0x100
  | .loadkey _ => 0x100
  | .setlcs _ => 0x100
  | .loadfw _ => 0x100
  | .bringUp => 0x100
  | .thermalTrip => 0x100
  | .powerLimitReached _ => 0x100
  | .standbyWake => 0x100
  | .powerOff => 0x100

/-- The causes of R131 that the decoder finds in an instruction's word, in no order. A row with no encoding has none. -/
def Instr.causes (i : Instr) : List Nat :=
  let h := i.shape
  match i.format with
  | .t w =>
    if i.opcode == 0 then nopCauses w
    else listed h.mods w.mod.toNat ++ listed h.xms w.xm.toNat ++ cueCauses w.cue.toNat ++
      guardCauses w.pg.toNat w.pn ++ nwCauses h.d w.nw ++ h.d.causes w.d ++ h.a.causes w.a ++ h.b.causes w.b ++
      h.c.causes w.c ++ h.extra
  | .i w => nwCauses h.d w.nw ++ h.d.causes w.d ++ h.a.causes w.a ++ h.extra
  | .m w =>
    memModCauses h.mods w.mod.toNat ++ listed h.xms w.ex.toNat ++ cueCauses w.cue.toNat ++ guardCauses w.pg.toNat w.pn ++
      nwCauses h.d w.nw ++ h.d.causes w.d ++ h.a.causes w.a ++
      (if h.s || w.s.toNat == 0 then [] else [0x09]) ++ (if h.imm || w.imm.toNat == 0 then [] else [0x09]) ++ h.extra
  | .j w =>
    listed h.mods w.mod.toNat ++ guardCauses w.pg.toNat w.pn ++ h.d.causes w.d ++ h.a.causes w.a ++
      (if h.tgt || w.tgt.toNat == 0 then [] else [0x09]) ++ h.extra
  | .l w => lCauses w
  | .event => []

/-- An instruction is well formed when R131 names no cause for its word. -/
abbrev Instr.wellFormed (i : Instr) : Prop := i.causes = []

/-- The lowest cause (R131). -/
def lowestCause : List Nat → Option Nat
  | [] => none
  | c :: cs => some (cs.foldl Nat.min c)

/-- The main registers a selector field accesses: those of a source, and those of a destination unless NW suppresses it
(R53). -/
def Kind.regs (k : Kind) (x : Sel) (nw : Bool) : List Nat :=
  let run := fun n => (List.range n).map fun i => x.toNat + i
  if selClass x != .main then []
  else match k with
    | .src n => run n
    | .atomD n => run n
    | .dst n => if nw then [] else run n
    | .loadD n => if nw then [] else run n
    | .dstP => if nw then [] else run 1
    | .callD => run 2
    | _ => []

/-- The main registers a run in a source field names (R204, R341). -/
def Kind.runRegs (k : Kind) (x : Sel) : List Nat :=
  match k with
  | .vrun n _ _ => (List.range n).map fun i => x.toNat + i
  | _ => []

/-- The main registers an instruction accesses in each active lane (R53). DEDUCED (log 83): NW suppresses the write of D, and the D
that `LOP3`, `QNT` and an atomic read is a source all the same, read and checked. -/
def Instr.regs (i : Instr) : List Nat :=
  let h := i.shape
  match i.format with
  | .t w =>
    let old := if i.opcode == 0x14 || i.opcode == 0x68 then Kind.regs (.src 1) w.d false else []
    h.d.regs w.d w.nw ++ (if w.nw then [] else h.d.runRegs w.d) ++ old ++ h.a.regs w.a false ++ h.a.runRegs w.a ++
      h.b.regs w.b false ++ h.b.runRegs w.b ++ h.c.regs w.c false
  | .i w => h.d.regs w.d w.nw ++ h.a.regs w.a false
  | .m w => h.d.regs w.d w.nw ++ (if w.nw then [] else h.d.runRegs w.d) ++ h.a.regs w.a false
  | .j w => h.d.regs w.d false ++ h.a.regs w.a false
  | _ => []

/-- The main registers of a field that a word reads: a source, and the operand of an atomic. -/
def Kind.srcRegs (k : Kind) (x : Sel) : List Nat :=
  match k with
  | .src n => (Kind.src n).regs x false
  | .atomD n => (Kind.atomD n).regs x false
  | _ => []

/-- The main registers an instruction reads in each active lane (R372). -/
def Instr.srcRegs (i : Instr) : List Nat :=
  let h := i.shape
  match i.format with
  | .t w =>
    let old := if i.opcode == 0x14 || i.opcode == 0x68 then Kind.regs (.src 1) w.d false else []
    h.d.srcRegs w.d ++ old ++ h.a.srcRegs w.a ++ h.a.runRegs w.a ++ h.b.srcRegs w.b ++ h.b.runRegs w.b ++ h.c.srcRegs w.c
  | .i w => h.d.srcRegs w.d ++ h.a.srcRegs w.a
  | .m w => h.d.srcRegs w.d ++ h.a.srcRegs w.a
  | .j w => h.d.srcRegs w.d ++ h.a.srcRegs w.a
  | _ => []

/-- The registers of the control line that a selector names: 256 + k for `ok`, and 266 for the predicates (R55, R140). -/
def controlSel (x : Sel) (n : Nat) : List Nat :=
  match selClass x with
  | .operand => (List.range n).map fun k => 256 + selReg x + k
  | .pred => if selReg x == 0 then [] else [266]
  | _ => []

/-- The registers of a selector that a field accesses. -/
def Kind.width : Kind → Nat
  | .none | .raw | .elem _ | .zeroSel => 0
  | .src n | .dst n | .uni n | .atomD n | .loadD n => n
  | .callD => 2
  | _ => 1

/-- The words of the control line that an instruction accesses beside its guard, those that it writes whole apart (R55,
R372). -/
def Instr.control (i : Instr) (whole : Bool) : List Nat :=
  let h := i.shape
  let f := fun (k : Kind) (x : Sel) => controlSel x k.width
  let dst := fun (k : Kind) (x : Sel) (nw : Bool) => match k with
    | .src n => if whole then [] else controlSel x n
    | .atomD n => controlSel x n
    | _ => if nw then [] else (f k x).filter fun n => whole == (n != 266)
  let src := fun (k : Kind) (x : Sel) => if whole then [] else f k x
  match i.format with
  | .t w =>
    let own := match i with
      | .rdspec y => if selReg y.a == 16 then [270] else []
      | .rdspecClr _ => [270]
      | .pmovPack _ | .pmovUnpack _ => [266]
      | _ => []
    dst h.d w.d w.nw ++ src h.a w.a ++ src h.b w.b ++ src h.c w.c ++ (if whole then [] else own)
  | .i w =>
    (if i.opcode == 0x21 && !w.nw && !whole && w.d.toNat % 8 != 0 then [266] else []) ++ dst h.d w.d w.nw ++ src h.a w.a
  | .m w => dst h.d w.d w.nw ++ src h.a w.a
  | .j w => dst h.d w.d false ++ src h.a w.a
  | _ => []

/-- The guard of a word: PG and PN (R139). -/
def Instr.guard (i : Instr) : Nat × Bool :=
  match i.format with
  | .t w => (w.pg.toNat, w.pn)
  | .i w => (w.pg.toNat, false)
  | .m w => (w.pg.toNat, w.pn)
  | .j w => (w.pg.toNat, w.pn)
  | .l w => (w.pg.toNat, w.pn)
  | .event => (0, false)

/-- The register lines that a word names: 0 the control line, k + 1 data line k (R51, R54). -/
def Instr.lines (i : Instr) : List Nat :=
  (if i.guard.1 == 0 && (i.control false).isEmpty && (i.control true).isEmpty then [] else [0]) ++
    (i.regs.map fun k => k / 32 + 1).eraseDups

/-- The cue flag a word names, if any (R139, R151). -/
def Instr.cueFlag (i : Instr) : Option Nat :=
  let of := fun (c : BitVec 4) => if c.toNat < 12 then some c.toNat else none
  if i.opcode == 0 then none
  else match i.format with
    | .t w => of w.cue
    | .m w => of w.cue
    | .l w => of w.cue
    | _ => none

/-- The distance of a word (R139). -/
def Instr.dist (i : Instr) : Nat :=
  match i.format with
  | .t w => w.dist.toNat
  | .i w => w.dist.toNat
  | .m w => w.dist.toNat
  | .l w => w.dist.toNat
  | _ => 0

end Sys2Proof
end

