-- ==== Sys2Proof/Decode.lean ====
section
/-! DEFINITION. From words to instructions and back (R128 to R146): the formats, the opcode map, the decoder, total on
any bytes, and the encoder. -/

namespace Sys2Proof

/-- The field widths of format T, lowest first (R134). -/
def tWidths : List Nat := [4, 4, 3, 1, 3, 9, 9, 9, 1, 9, 4, 8]

/-- The field widths of format I, lowest first (R135). -/
def iWidths : List Nat := [2, 3, 32, 9, 1, 9, 8]

/-- The field widths of format M, lowest first (R136). -/
def mWidths : List Nat := [4, 4, 3, 1, 3, 12, 6, 9, 1, 9, 4, 8]

/-- The field widths of format J, lowest first (R137). -/
def jWidths : List Nat := [1, 3, 30, 9, 9, 4, 8]

/-- The field widths of format L, lowest first (R138). -/
def lWidths : List Nat :=
  [9, 3, 4, 1, 3, 6, 6, 6, 6, 4, 8, 8, 11, 11, 11, 11, 11, 9, 9, 9, 9, 9, 9, 9, 9, 9, 9, 9, 9, 9, 9, 9, 2]

/-- Value k of a list of fields. -/
def fieldAt (fs : List Nat) (k : Nat) : Nat := fs.getD k 0

/-- Field k as a bit vector. -/
def fieldBits (w : Nat) (fs : List Nat) (k : Nat) : BitVec w := BitVec.ofNat w (fieldAt fs k)

/-- Field k as a flag. -/
def fieldFlag (fs : List Nat) (k : Nat) : Bool := fieldAt fs k == 1

/-- A word read as format T (R134). -/
def tWord (n : Nat) : TWord :=
  let fs := unpackFields tWidths n
  { xm := fieldBits 4 fs 0, cue := fieldBits 4 fs 1, dist := fieldBits 3 fs 2, pn := fieldFlag fs 3
    pg := fieldBits 3 fs 4, c := fieldBits 9 fs 5, b := fieldBits 9 fs 6, a := fieldBits 9 fs 7, nw := fieldFlag fs 8
    d := fieldBits 9 fs 9, mod := fieldBits 4 fs 10 }

/-- A word read as format I (R135). -/
def iWord (n : Nat) : IWord :=
  let fs := unpackFields iWidths n
  { dist := fieldBits 2 fs 0, pg := fieldBits 3 fs 1, imm := fieldBits 32 fs 2, a := fieldBits 9 fs 3
    nw := fieldFlag fs 4, d := fieldBits 9 fs 5 }

/-- A word read as format M (R136). -/
def mWord (n : Nat) : MWord :=
  let fs := unpackFields mWidths n
  { ex := fieldBits 4 fs 0, cue := fieldBits 4 fs 1, dist := fieldBits 3 fs 2, pn := fieldFlag fs 3
    pg := fieldBits 3 fs 4, imm := fieldBits 12 fs 5, s := fieldBits 6 fs 6, a := fieldBits 9 fs 7
    nw := fieldFlag fs 8, d := fieldBits 9 fs 9, mod := fieldBits 4 fs 10 }

/-- A word read as format J (R137). -/
def jWord (n : Nat) : JWord :=
  let fs := unpackFields jWidths n
  { pn := fieldFlag fs 0, pg := fieldBits 3 fs 1, tgt := fieldBits 30 fs 2, a := fieldBits 9 fs 3
    d := fieldBits 9 fs 4, mod := fieldBits 4 fs 5 }

/-- Four words read as format L (R138). -/
def lWord (n : Nat) : LWord :=
  let fs := unpackFields lWidths n
  { mbz := fieldBits 9 fs 0, dist := fieldBits 3 fs 1, cue := fieldBits 4 fs 2, pn := fieldFlag fs 3
    pg := fieldBits 3 fs 4, flags := fieldBits 6 fs 5, sb := fieldBits 6 fs 6, sa := fieldBits 6 fs 7
    sd := fieldBits 6 fs 8, typ := fieldBits 4 fs 9, eop := fieldBits 8 fs 10
    ext := Vector.ofFn fun i => fieldBits 11 fs (12 + i.val)
    str := Vector.ofFn fun i => fieldBits 9 fs (17 + i.val), mbz2 := fieldBits 2 fs 32 }

/-- The instruction whose opcode and variant the word names (R145); none where the opcode is reserved. Its other fields
are still to be checked. -/
def rawInstr (n : Nat) : Option Instr :=
  match n / 2 ^ 56 % 256 with
  | 0x00 => some (.nop (tWord n))
  | 0x01 => some (.mov (tWord n))
  | 0x02 => some (.movi (iWord n))
  | 0x03 => some (.iadd (tWord n))
  | 0x04 => some (.iaddi (iWord n))
  | 0x05 => some (.isub (tWord n))
  | 0x06 => some (.iadd3 (tWord n))
  | 0x07 => some (.iaddc (tWord n))
  | 0x08 => some (.isubb (tWord n))
  | 0x09 => some (.imul (tWord n))
  | 0x0A => some (.imulh (tWord n))
  | 0x0B => some (.imad (tWord n))
  | 0x0C => some (.isad (tWord n))
  | 0x0D => some (.imin (tWord n))
  | 0x0E => some (.imax (tWord n))
  | 0x0F => some (.iabs (tWord n))
  | 0x10 => some (.and (tWord n))
  | 0x11 => some (.or (tWord n))
  | 0x12 => some (.xor (tWord n))
  | 0x13 => some (.andn (tWord n))
  | 0x14 => some (.lop3 (tWord n))
  | 0x15 => some (.andi (iWord n))
  | 0x16 => some (.ori (iWord n))
  | 0x17 => some (.xori (iWord n))
  | 0x18 => some (.shl (tWord n))
  | 0x19 => some (.shr (tWord n))
  | 0x1A => some (.shf (tWord n))
  | 0x1B => some (.bfx (tWord n))
  | 0x1C => some (.bfi (tWord n))
  | 0x1D => some (.popc (tWord n))
  | 0x1E => some (.clz (tWord n))
  | 0x1F => some (.brev (tWord n))
  | 0x20 => some (.icmp (tWord n))
  | 0x21 => some (.icmpi (iWord n))
  | 0x22 => some (.sel (tWord n))
  | 0x23 => some (.plop (tWord n))
  | 0x24 => some (if (tWord n).mod.toNat == 1 then .pmovUnpack (tWord n) else .pmovPack (tWord n))
  | 0x25 => some (.shfl (tWord n))
  | 0x26 => some (.vote (tWord n))
  | 0x27 => some (.ballot (tWord n))
  | 0x28 => some (.redux (tWord n))
  | 0x29 => some (if (tWord n).mod.toNat == 1 then .rdspecClr (tWord n) else .rdspec (tWord n))
  | 0x2A => some (.umov (tWord n))
  | 0x2B => some (.uiadd (tWord n))
  | 0x30 => some (.bra (jWord n))
  | 0x31 => some (.brx (jWord n))
  | 0x32 => some (if (jWord n).mod.toNat == 1 then .callR (jWord n) else .call (jWord n))
  | 0x33 => some (.ret (jWord n))
  | 0x34 => some (if (jWord n).mod.toNat == 1 then .reformQuad (jWord n) else .reform (jWord n))
  | 0x35 => some (.exit (jWord n))
  | 0x36 => some (.spawn (jWord n))
  | 0x37 => some (.yield (jWord n))
  | 0x38 => some (.join (jWord n))
  | 0x39 => some (.leave (jWord n))
  | 0x3A => some (if (jWord n).mod.toNat % 4 == 1 then .barArr (jWord n) else if (jWord n).mod.toNat % 4 == 2 then .barWait (jWord n) else .bar (jWord n))
  | 0x3B => some (.sleep (jWord n))
  | 0x3C => some (.refill (jWord n))
  | 0x3D => some (.trap (jWord n))
  | 0x3E => some (.brkpt (jWord n))
  | 0x3F => some (.rgne (jWord n))
  | 0x40 => some (.rngpush (jWord n))
  | 0x41 => some (.rngpop (jWord n))
  | 0x48 => some (.fadd (tWord n))
  | 0x49 => some (.fsub (tWord n))
  | 0x4A => some (.fmul (tWord n))
  | 0x4B => some (.ffma (tWord n))
  | 0x4C => some (.faddi (iWord n))
  | 0x4D => some (.fmuli (iWord n))
  | 0x4E => some (.fmin (tWord n))
  | 0x4F => some (.fmax (tWord n))
  | 0x50 => some (.fcmp (tWord n))
  | 0x51 => some (.fclass (tWord n))
  | 0x52 => some (.frnd (tWord n))
  | 0x53 => some (.fexp2f (tWord n))
  | 0x54 => some (.fldexp (tWord n))
  | 0x55 => some (.frcp (tWord n))
  | 0x56 => some (.frsq (tWord n))
  | 0x57 => some (.fsqrt (tWord n))
  | 0x58 => some (.flog2 (tWord n))
  | 0x59 => some (.fsin (tWord n))
  | 0x5A => some (.fcos (tWord n))
  | 0x5B => some (.ftanh (tWord n))
  | 0x5C => some (.hadd2 (tWord n))
  | 0x5D => some (.hmul2 (tWord n))
  | 0x5E => some (.hfma2 (tWord n))
  | 0x5F => some (.hmnx2 (tWord n))
  | 0x60 => some (.fdot2 (tWord n))
  | 0x61 => some (.idp4 (tWord n))
  | 0x62 => some (.cmul (tWord n))
  | 0x63 => some (.cmad (tWord n))
  | 0x64 => some (.cmag2 (tWord n))
  | 0x65 => some (.f2i (tWord n))
  | 0x66 => some (.i2f (tWord n))
  | 0x67 => some (if (tWord n).xm.toNat / 4 % 2 == 1 then .f2fWiden (tWord n) else .f2fNarrow (tWord n))
  | 0x68 => some (.qnt (tWord n))
  | 0x69 => some (.dqnt (tWord n))
  | 0x6A => some (.derivx (tWord n))
  | 0x6B => some (.derivy (tWord n))
  | 0x6C => some (.qswap (tWord n))
  | 0x6D => some (.raybox (tWord n))
  | 0x6E => some (.raytri (tWord n))
  | 0x70 => some (.fill (tWord n))
  | 0x78 => some (.ldg (mWord n))
  | 0x79 => some (.stg (mWord n))
  | 0x7A => some (.atomg (mWord n))
  | 0x7B => some (.casg (mWord n))
  | 0x7C => some (.lds (mWord n))
  | 0x7D => some (.sts (mWord n))
  | 0x7E => some (.atoms (mWord n))
  | 0x7F => some (.cass (mWord n))
  | 0x80 => some (.ldsm (mWord n))
  | 0x81 => some (.ldsmt (mWord n))
  | 0x82 => some (.stx (mWord n))
  | 0x83 => some (.ldt (mWord n))
  | 0x84 => some (.stt (mWord n))
  | 0x85 => some (.atomt (mWord n))
  | 0x86 => some (.ldk (mWord n))
  | 0x87 => some (.prfg (mWord n))
  | 0x88 => some (.fence (mWord n))
  | 0x89 => some (.fencex (mWord n))
  | 0x8A => some (.cpy (mWord n))
  | 0x8B => some (.cpym (mWord n))
  | 0x8C => some (.cpyb (mWord n))
  | 0x8D => some (.slotret (mWord n))
  | 0x8E => some (.feset (mWord n))
  | 0x8F => some (.feqry (mWord n))
  | 0x90 => some (.bufq (mWord n))
  | 0x91 => some (.pgreq (mWord n))
  | 0x92 => some (.woarm (mWord n))
  | 0x98 => some (.opclm (tWord n))
  | 0x99 => some (.oprel (tWord n))
  | 0x9A => some (.opld (tWord n))
  | 0x9B => some (.opldg (tWord n))
  | 0x9C => some (.wlatch (tWord n))
  | 0x9D => some (.mstream (tWord n))
  | 0x9E => some (.mlut (tWord n))
  | 0x9F => some (.mdrain (tWord n))
  | 0xA0 => some (.mzero (tWord n))
  | 0xA1 => some (if (tWord n).mod.toNat == 1 then .taskputCommit (tWord n) else if (tWord n).mod.toNat == 2 then .taskputFree (tWord n) else .taskputResv (tWord n))
  | 0xA2 => some (if (tWord n).mod.toNat == 1 then .taskarmDec (tWord n) else .taskarm (tWord n))
  | 0xA3 => some (.taskqry (tWord n))
  | 0xA8 => some (.acbind (tWord n))
  | 0xA9 => some (.acunbind (tWord n))
  | 0xAA => some (.acparam (tWord n))
  | 0xAB => some (.acqry (tWord n))
  | 0xB0 => some (.sld (tWord n))
  | 0xB1 => some (.sst (tWord n))
  | 0xB2 => some (.sstc (tWord n))
  | 0xB3 => some (if (tWord n).mod.toNat / 4 % 2 == 1 then .sstmvHint (tWord n) else .sstmv (tWord n))
  | 0xB4 => some (if (tWord n).mod.toNat == 1 then .ssealOpen (tWord n) else .ssealSeal (tWord n))
  | 0xB5 => some (.sqry (tWord n))
  | 0xB6 => some (.smat (tWord n))
  | 0xB7 => some (if (tWord n).mod.toNat == 1 then .primemitOpen (tWord n) else if (tWord n).mod.toNat == 2 then .primemitClose (tWord n) else .primemitTri (tWord n))
  | 0xB8 => some (.visq (tWord n))
  | 0xB9 => some (.mvereq (tWord n))
  | 0xBA => some (.mveqry (tWord n))
  | 0xE0 => some (.rdsys (tWord n))
  | 0xE1 => some (.wrsys (tWord n))
  | 0xE2 => some (.waitev (tWord n))
  | 0xE3 => some (.frpop (tWord n))
  | 0xE4 => some (if (tWord n).mod.toNat == 1 then .resumeScn (tWord n) else .resumeRec (tWord n))
  | 0xE5 => some (.swapout (tWord n))
  | 0xE6 => some (.swapin (tWord n))
  | 0xE7 => some (.scenekill (tWord n))
  | 0xE8 => some (.haltb (tWord n))
  | 0xE9 => some (.dump (tWord n))
  | 0xEA => some (.reti (tWord n))
  | 0xEB => some (if (tWord n).mod.toNat == 1 then .tlbinvCtx (tWord n) else .tlbinvRange (tWord n))
  | 0xEC => some (.retype (tWord n))
  | 0xED => some (.hashver (tWord n))
  | 0xEE => some (.ptwr (tWord n))
  | 0xEF => some (if (tWord n).mod.toNat == 1 then .drainAbandon (tWord n) else .drain (tWord n))
  | 0x6F => some (.loopn (lWord n))
  | _ => none

/-- What the decoder makes of a word: an instruction, or the lowest cause of R131 that its checks find. -/
inductive Decoded where
  | instr (i : Instr)
  | illegal (cause : Nat)
  deriving DecidableEq, Repr

/-- The decoder, on the 64 bits of a word, or on the 256 bits that start with it, which a `LOOPN` takes (R131, R138). -/
def decodeWord (n : Nat) : Decoded :=
  match rawInstr n with
  | none => .illegal 0x03
  | some i =>
    match lowestCause i.causes with
    | none => .instr i
    | some c => .illegal c

/-- The decoder on the bytes that stand in memory, little-endian (R128). Bytes that end before the word does read as
zero. -/
def decodeBytes (bs : List Byte) : Decoded := decodeWord (leNat (bs.take 32))

/-- Fields of a format-T word, with its opcode (R134). -/
def tFields (op : Nat) (w : TWord) : List (Nat × Nat) :=
  [(4, w.xm.toNat), (4, w.cue.toNat), (3, w.dist.toNat), (1, b2n w.pn), (3, w.pg.toNat), (9, w.c.toNat),
   (9, w.b.toNat), (9, w.a.toNat), (1, b2n w.nw), (9, w.d.toNat), (4, w.mod.toNat), (8, op)]

/-- Fields of a format-I word (R135). -/
def iFields (op : Nat) (w : IWord) : List (Nat × Nat) :=
  [(2, w.dist.toNat), (3, w.pg.toNat), (32, w.imm.toNat), (9, w.a.toNat), (1, b2n w.nw), (9, w.d.toNat), (8, op)]

/-- Fields of a format-M word (R136). -/
def mFields (op : Nat) (w : MWord) : List (Nat × Nat) :=
  [(4, w.ex.toNat), (4, w.cue.toNat), (3, w.dist.toNat), (1, b2n w.pn), (3, w.pg.toNat), (12, w.imm.toNat),
   (6, w.s.toNat), (9, w.a.toNat), (1, b2n w.nw), (9, w.d.toNat), (4, w.mod.toNat), (8, op)]

/-- Fields of a format-J word (R137). -/
def jFields (op : Nat) (w : JWord) : List (Nat × Nat) :=
  [(1, b2n w.pn), (3, w.pg.toNat), (30, w.tgt.toNat), (9, w.a.toNat), (9, w.d.toNat), (4, w.mod.toNat), (8, op)]

/-- Fields of the four words of format L (R138). -/
def lFields (op : Nat) (w : LWord) : List (Nat × Nat) :=
  [(9, w.mbz.toNat), (3, w.dist.toNat), (4, w.cue.toNat), (1, b2n w.pn), (3, w.pg.toNat), (6, w.flags.toNat),
   (6, w.sb.toNat), (6, w.sa.toNat), (6, w.sd.toNat), (4, w.typ.toNat), (8, w.eop.toNat), (8, op)] ++
  w.ext.toList.map (fun x => (11, x.toNat)) ++ w.str.toList.map (fun x => (9, x.toNat)) ++ [(2, w.mbz2.toNat)]

/-- The fields of an instruction, lowest first (R134 to R138); none for the rows that have no encoding. -/
def Instr.fields : Instr → Option (List (Nat × Nat))
  | .nop w => some (tFields 0x00 w)
  | .mov w => some (tFields 0x01 w)
  | .movi w => some (iFields 0x02 w)
  | .iadd w => some (tFields 0x03 w)
  | .iaddi w => some (iFields 0x04 w)
  | .isub w => some (tFields 0x05 w)
  | .iadd3 w => some (tFields 0x06 w)
  | .iaddc w => some (tFields 0x07 w)
  | .isubb w => some (tFields 0x08 w)
  | .imul w => some (tFields 0x09 w)
  | .imulh w => some (tFields 0x0A w)
  | .imad w => some (tFields 0x0B w)
  | .isad w => some (tFields 0x0C w)
  | .imin w => some (tFields 0x0D w)
  | .imax w => some (tFields 0x0E w)
  | .iabs w => some (tFields 0x0F w)
  | .and w => some (tFields 0x10 w)
  | .or w => some (tFields 0x11 w)
  | .xor w => some (tFields 0x12 w)
  | .andn w => some (tFields 0x13 w)
  | .lop3 w => some (tFields 0x14 w)
  | .andi w => some (iFields 0x15 w)
  | .ori w => some (iFields 0x16 w)
  | .xori w => some (iFields 0x17 w)
  | .shl w => some (tFields 0x18 w)
  | .shr w => some (tFields 0x19 w)
  | .shf w => some (tFields 0x1A w)
  | .bfx w => some (tFields 0x1B w)
  | .bfi w => some (tFields 0x1C w)
  | .popc w => some (tFields 0x1D w)
  | .clz w => some (tFields 0x1E w)
  | .brev w => some (tFields 0x1F w)
  | .icmp w => some (tFields 0x20 w)
  | .icmpi w => some (iFields 0x21 w)
  | .sel w => some (tFields 0x22 w)
  | .plop w => some (tFields 0x23 w)
  | .pmovPack w => some (tFields 0x24 w)
  | .pmovUnpack w => some (tFields 0x24 w)
  | .shfl w => some (tFields 0x25 w)
  | .vote w => some (tFields 0x26 w)
  | .ballot w => some (tFields 0x27 w)
  | .redux w => some (tFields 0x28 w)
  | .rdspec w => some (tFields 0x29 w)
  | .rdspecClr w => some (tFields 0x29 w)
  | .umov w => some (tFields 0x2A w)
  | .uiadd w => some (tFields 0x2B w)
  | .bra w => some (jFields 0x30 w)
  | .brx w => some (jFields 0x31 w)
  | .call w => some (jFields 0x32 w)
  | .callR w => some (jFields 0x32 w)
  | .ret w => some (jFields 0x33 w)
  | .reform w => some (jFields 0x34 w)
  | .reformQuad w => some (jFields 0x34 w)
  | .exit w => some (jFields 0x35 w)
  | .spawn w => some (jFields 0x36 w)
  | .yield w => some (jFields 0x37 w)
  | .join w => some (jFields 0x38 w)
  | .leave w => some (jFields 0x39 w)
  | .bar w => some (jFields 0x3A w)
  | .barArr w => some (jFields 0x3A w)
  | .barWait w => some (jFields 0x3A w)
  | .sleep w => some (jFields 0x3B w)
  | .refill w => some (jFields 0x3C w)
  | .trap w => some (jFields 0x3D w)
  | .brkpt w => some (jFields 0x3E w)
  | .rgne w => some (jFields 0x3F w)
  | .rngpush w => some (jFields 0x40 w)
  | .rngpop w => some (jFields 0x41 w)
  | .fadd w => some (tFields 0x48 w)
  | .fsub w => some (tFields 0x49 w)
  | .fmul w => some (tFields 0x4A w)
  | .ffma w => some (tFields 0x4B w)
  | .faddi w => some (iFields 0x4C w)
  | .fmuli w => some (iFields 0x4D w)
  | .fmin w => some (tFields 0x4E w)
  | .fmax w => some (tFields 0x4F w)
  | .fcmp w => some (tFields 0x50 w)
  | .fclass w => some (tFields 0x51 w)
  | .frnd w => some (tFields 0x52 w)
  | .fexp2f w => some (tFields 0x53 w)
  | .fldexp w => some (tFields 0x54 w)
  | .frcp w => some (tFields 0x55 w)
  | .frsq w => some (tFields 0x56 w)
  | .fsqrt w => some (tFields 0x57 w)
  | .flog2 w => some (tFields 0x58 w)
  | .fsin w => some (tFields 0x59 w)
  | .fcos w => some (tFields 0x5A w)
  | .ftanh w => some (tFields 0x5B w)
  | .hadd2 w => some (tFields 0x5C w)
  | .hmul2 w => some (tFields 0x5D w)
  | .hfma2 w => some (tFields 0x5E w)
  | .hmnx2 w => some (tFields 0x5F w)
  | .fdot2 w => some (tFields 0x60 w)
  | .idp4 w => some (tFields 0x61 w)
  | .cmul w => some (tFields 0x62 w)
  | .cmad w => some (tFields 0x63 w)
  | .cmag2 w => some (tFields 0x64 w)
  | .f2i w => some (tFields 0x65 w)
  | .i2f w => some (tFields 0x66 w)
  | .f2fNarrow w => some (tFields 0x67 w)
  | .f2fWiden w => some (tFields 0x67 w)
  | .qnt w => some (tFields 0x68 w)
  | .dqnt w => some (tFields 0x69 w)
  | .derivx w => some (tFields 0x6A w)
  | .derivy w => some (tFields 0x6B w)
  | .qswap w => some (tFields 0x6C w)
  | .raybox w => some (tFields 0x6D w)
  | .raytri w => some (tFields 0x6E w)
  | .loopn w => some (lFields 0x6F w)
  | .fill w => some (tFields 0x70 w)
  | .ldg w => some (mFields 0x78 w)
  | .stg w => some (mFields 0x79 w)
  | .atomg w => some (mFields 0x7A w)
  | .casg w => some (mFields 0x7B w)
  | .lds w => some (mFields 0x7C w)
  | .sts w => some (mFields 0x7D w)
  | .atoms w => some (mFields 0x7E w)
  | .cass w => some (mFields 0x7F w)
  | .ldsm w => some (mFields 0x80 w)
  | .ldsmt w => some (mFields 0x81 w)
  | .stx w => some (mFields 0x82 w)
  | .ldt w => some (mFields 0x83 w)
  | .stt w => some (mFields 0x84 w)
  | .atomt w => some (mFields 0x85 w)
  | .ldk w => some (mFields 0x86 w)
  | .prfg w => some (mFields 0x87 w)
  | .fence w => some (mFields 0x88 w)
  | .fencex w => some (mFields 0x89 w)
  | .cpy w => some (mFields 0x8A w)
  | .cpym w => some (mFields 0x8B w)
  | .cpyb w => some (mFields 0x8C w)
  | .slotret w => some (mFields 0x8D w)
  | .feset w => some (mFields 0x8E w)
  | .feqry w => some (mFields 0x8F w)
  | .bufq w => some (mFields 0x90 w)
  | .pgreq w => some (mFields 0x91 w)
  | .woarm w => some (mFields 0x92 w)
  | .opclm w => some (tFields 0x98 w)
  | .oprel w => some (tFields 0x99 w)
  | .opld w => some (tFields 0x9A w)
  | .opldg w => some (tFields 0x9B w)
  | .wlatch w => some (tFields 0x9C w)
  | .mstream w => some (tFields 0x9D w)
  | .mlut w => some (tFields 0x9E w)
  | .mdrain w => some (tFields 0x9F w)
  | .mzero w => some (tFields 0xA0 w)
  | .taskputResv w => some (tFields 0xA1 w)
  | .taskputCommit w => some (tFields 0xA1 w)
  | .taskputFree w => some (tFields 0xA1 w)
  | .taskarm w => some (tFields 0xA2 w)
  | .taskarmDec w => some (tFields 0xA2 w)
  | .taskqry w => some (tFields 0xA3 w)
  | .acbind w => some (tFields 0xA8 w)
  | .acunbind w => some (tFields 0xA9 w)
  | .acparam w => some (tFields 0xAA w)
  | .acqry w => some (tFields 0xAB w)
  | .sld w => some (tFields 0xB0 w)
  | .sst w => some (tFields 0xB1 w)
  | .sstc w => some (tFields 0xB2 w)
  | .sstmv w => some (tFields 0xB3 w)
  | .sstmvHint w => some (tFields 0xB3 w)
  | .ssealOpen w => some (tFields 0xB4 w)
  | .ssealSeal w => some (tFields 0xB4 w)
  | .sqry w => some (tFields 0xB5 w)
  | .smat w => some (tFields 0xB6 w)
  | .primemitTri w => some (tFields 0xB7 w)
  | .primemitOpen w => some (tFields 0xB7 w)
  | .primemitClose w => some (tFields 0xB7 w)
  | .visq w => some (tFields 0xB8 w)
  | .mvereq w => some (tFields 0xB9 w)
  | .mveqry w => some (tFields 0xBA w)
  | .rdsys w => some (tFields 0xE0 w)
  | .wrsys w => some (tFields 0xE1 w)
  | .waitev w => some (tFields 0xE2 w)
  | .frpop w => some (tFields 0xE3 w)
  | .resumeRec w => some (tFields 0xE4 w)
  | .resumeScn w => some (tFields 0xE4 w)
  | .swapout w => some (tFields 0xE5 w)
  | .swapin w => some (tFields 0xE6 w)
  | .scenekill w => some (tFields 0xE7 w)
  | .haltb w => some (tFields 0xE8 w)
  | .dump w => some (tFields 0xE9 w)
  | .reti w => some (tFields 0xEA w)
  | .tlbinvRange w => some (tFields 0xEB w)
  | .tlbinvCtx w => some (tFields 0xEB w)
  | .retype w => some (tFields 0xEC w)
  | .hashver w => some (tFields 0xED w)
  | .ptwr w => some (tFields 0xEE w)
  | .drain w => some (tFields 0xEF w)
  | .drainAbandon w => some (tFields 0xEF w)
  | .clauseStart _ _ _ => none
  | .holdAllowanceSpent _ => none
  | .schedulingRoundEnd => none
  | .idleBayReelDraw _ _ => none
  | .sleepExpiry _ => none
  | .sceneAdmission _ => none
  | .taskNodeLaunch _ _ => none
  | .tileTaskDispatch _ _ => none
  | .taskNodeComplete _ _ => none
  | .slotEmpty _ => none
  | .variableCompletion _ => none
  | .engineLineFill _ => none
  | .registerLineFill _ _ => none
  | .codeRowLoad _ _ _ => none
  | .asyncRecordHalt _ => none
  | .copyFaultResume _ => none
  | .woWaitTimeout _ => none
  | .engineWoWaitTimeout _ => none
  | .swapSaveComplete _ => none
  | .sceneReadmission _ _ => none
  | .sceneRestoreComplete _ => none
  | .quantumExpiry _ => none
  | .partitionRestore _ => none
  | .handlerDispatch _ _ => none
  | .waitevWake _ => none
  | .timerExpiry _ => none
  | .evpendWrite _ _ => none
  | .timerWrite _ _ => none
  | .eventryWrite _ _ => none
  | .groupmodeWrite _ _ => none
  | .fqbaseWrite _ _ => none
  | .supqbaseWrite _ _ => none
  | .dailycfgWrite _ _ => none
  | .silcfgWrite _ _ => none
  | .l2LineFill _ _ => none
  | .l2LineWriteback _ _ => none
  | .streamContextRelease _ _ _ => none
  | .rowActivation _ _ => none
  | .conflictWindowEnd _ => none
  | .refreshManagement _ => none
  | .scrubLine _ => none
  | .migrationStep _ => none
  | .sramSoftError _ _ _ => none
  | .sealCoding _ => none
  | .binFinal _ _ => none
  | .passDone _ => none
  | .mveRequestStart _ => none
  | .mveRequestComplete _ => none
  | .hostConfigAccess _ => none
  | .hostHdmAccess _ _ _ _ => none
  | .hostAtomicWindowAccess _ _ _ _ _ => none
  | .hostSnoop _ _ => none
  | .remoteRequest _ _ _ _ => none
  | .flitRetry _ => none
  | .linkPortDown _ => none
  | .planeRestored _ => none
  | .regctx _ => none
  | .deregctx _ => none
  | .setpart _ => none
  | .exportEntry _ => none
  | .attest _ => none
  | .loadkey _ => none
  | .setlcs _ => none
  | .loadfw _ => none
  | .bringUp => none
  | .thermalTrip => none
  | .powerLimitReached _ => none
  | .standbyWake => none
  | .powerOff => none

/-- The words of an instruction as one number, the first word lowest (R128); none for a row that has no encoding. -/
def encode (i : Instr) : Option Nat := i.fields.map packFields

/-- The words an instruction takes in its clause: four for `LOOPN`, one for every other (R128). -/
def Instr.words : Instr → Nat
  | .loopn _ => 4
  | _ => 1

/-- The bytes of an instruction as they stand in memory (R128). -/
def encodeBytes (i : Instr) : Option (List Byte) := (encode i).map (leBytes (8 * i.words))

/-- The opcode's class (R130). -/
def opClass (op : Nat) : Nat :=
  if op ≤ 0x2B then 0
  else if 0x30 ≤ op && op ≤ 0x41 then 4
  else if 0x48 ≤ op && op ≤ 0x70 then 0
  else if 0x78 ≤ op && op ≤ 0x92 then 1
  else if 0x98 ≤ op && op ≤ 0xAB then 2
  else if 0xB0 ≤ op && op ≤ 0xBA then 3
  else 5

/-- The latency groups (R143). -/
inductive Group where
  | short
  | long
  | variable
  deriving DecidableEq, Repr

/-- The group of an opcode (R143). -/
def opGroup (op : Nat) : Group :=
  if [0x09, 0x0A, 0x0B, 0x0C, 0x25, 0x28, 0x60, 0x61, 0x62, 0x63, 0x64, 0x6D, 0x6E].contains op then .long
  else if [0x53, 0x55, 0x56, 0x57, 0x58, 0x59, 0x5A, 0x5B, 0x6F, 0x70].contains op || 0x78 ≤ op then .variable
  else .short

/-- The instruction the decoder reads from an instruction whose bits are `w`, numbered from the least significant bit
of its first word; the bits above `nbits` are zero. -/
def decodeTableWord (nbits w : Nat) : Option Instr :=
  match decodeBytes (leBytes 32 (w % 2 ^ nbits)) with
  | .instr i => some i
  | .illegal _ => none

end Sys2Proof
end

