-- ==== Sys2Proof/Machine/State.lean ====
section
/-! DEFINITION. The state of one Rhorok package, as plain data, and the state after reset (R435). -/

namespace Sys2Proof.Machine

/-- Why the machine can stop. -/
inductive Fault where
  /-- Raised by every word instruction when no take of the machine is issuing a word, so that there is no thread to act
  for. The part never executes a word without a take: the step sets the take before it executes one. Safe. -/
  | noIssuingTake
  deriving DecidableEq, Repr

/-- Why the model can decline an instruction. -/
inductive Refusal where
  /-- Raised by the arms of `exec` whose instruction has no meaning in the model yet, with its mnemonic. Safe. -/
  | notModelled (mnemonic : String)
  deriving DecidableEq, Repr

/-- A store of bytes: the addresses that hold a byte other than zero, strictly rising. -/
abbrev Memory := List Host.Cell

/-- A sparse table of words by number, strictly rising, without zeros. -/
abbrev Table := List (Nat × Nat)

/-- Which of the machine's agents moves next. The spec leaves their interleaving open (R15, R33); a list of turns fixes
one. The model's own plain data. -/
inductive Turn where
  /-- the take issues its next word -/
  | word (take : Nat)
  /-- one of the part's whole steps that is no instruction -/
  | ev (i : Instr)
  /-- the arithmetic clock runs on -/
  | tick (cycles : Nat)
  deriving DecidableEq, Repr, Inhabited

/-- The registers a result can go to (R51, R57). -/
inductive Dest where
  | v (n : Nat)
  | o (n : Nat)
  | s (n : Nat)
  | p (n : Nat)
  | b (n : Nat)
  /-- no register: the fall of a cue flag (R139) -/
  | cue (n : Nat)
  deriving DecidableEq, Repr, Inhabited

/-- A write to a register of a thread, or of its scene for `s` (R58). A 32-bit register takes the low word. -/
structure RegWrite where
  thread : Nat
  dest   : Dest
  value  : DWord
  deriving DecidableEq, Repr, Inhabited

/-- A result on its way to its register, readable from `due` on (R143). -/
structure Pending where
  write : RegWrite
  due   : Nat
  deriving DecidableEq, Repr, Inhabited

/-- A WO wait (R89): the line's physical address with its package, the access's virtual address and buffer, and the
clock at which its timeout started. -/
structure WoWait where
  pkg   : Nat
  line  : Nat
  va    : Nat
  buf   : Nat
  since : Nat
  deriving DecidableEq, Repr, Inhabited

/-- Where a thread stands when it is not stopped. -/
inductive Place where
  | take (t : Nat)
  | reel (r : Nat)
  | nowhere
  deriving DecidableEq, Repr, Inhabited

/-- A thread (R16, R55). Its number is its place in the machine's list of threads. -/
structure Thread where
  scene    : Nat
  tid      : Nat
  slot     : Nat
  helper   : Bool
  pc       : DWord
  v        : List Word
  o        : Vector Word 8
  /-- `p1` to `p7` in bits 1 to 7 -/
  p        : BitVec 8
  cue      : Vector Nat 12
  fpsr     : Word
  rgnCnt   : Word
  rgnPc    : DWord
  mid      : Bool
  wpos     : Nat
  latch    : Vector DWord 4
  parked   : Bool
  halted   : Bool
  /-- halted by `HALTB` or by an asynchronous record in a clause, at a barrier or in a WO wait: it continues there -/
  stays    : Bool
  exited   : Bool
  /-- its slot is empty (R24) -/
  gone     : Bool
  place    : Place
  wo       : Option WoWait
  /-- the clock at which the thread stopped (R388) -/
  stopped  : Nat
  /-- an asynchronous record halts it at its next clause boundary (R380) -/
  haltNext : Bool
  /-- it was resumed while its scene was not resident: the number of the `RESUME`, and its place among the threads that it
  names (R385, R392) -/
  resumed  : Option (Nat × Nat)
  /-- the thread whose record it is a companion of (R379) -/
  comp     : Option Nat
  /-- exempt from one watch comparison at this PC (R441) -/
  exempt   : Option DWord
  /-- its next clause is not matched against the breakpoints (R439) -/
  unbroken : Bool
  /-- it was resumed in step mode: 1 before its one clause, 2 after it (R439) -/
  stepping : Nat
  /-- the open labelled ranges, innermost first (R183) -/
  ranges   : List Word
  /-- the register lines present in the register cache: 0 the control line, k + 1 data line k (R54) -/
  cached   : List Nat
  /-- the clock at which each of them was last used (R54) -/
  used     : Table
  /-- the main registers whose word is in error, and at 256 and up the words of the control line (R372) -/
  bad      : List Nat
  deriving DecidableEq, Repr, Inhabited

/-- What the word that a take holds, or left its pipe at, waits for, beside the register lines and cue counters that it
names (R32). -/
inductive Hold where
  /-- nothing more -/
  | free
  /-- empty lines of the store of its scene -/
  | lines (ls : List Nat)
  /-- room in the matrix and task sequencer, or the stream unit (R270) -/
  | sequencer
  | stream
  /-- room in the motion queue of a die (R350) -/
  | motion (die : Nat)
  /-- free-slot counters of a cast from a core to others (R236) -/
  | counters (cast from1 : Nat) (nums : List Nat)
  /-- an unwritten WO line -/
  | wo (line : Nat)
  deriving DecidableEq, Repr, Inhabited

/-- What a take does. -/
inductive TakeState where
  /-- between clauses -/
  | waiting
  /-- a clause of it occupies pipe A (false) or B (true) -/
  | issuing (pipeB : Bool)
  /-- it left its pipe at a held word or between stepped word steps (R32, R34) -/
  | suspended
  /-- halted inside a clause and kept whole (R408) -/
  | kept
  /-- saved in a scene image (R389): inside a clause, or asleep between clauses -/
  | saved (mid : Bool)
  /-- it holds no lanes any more -/
  | ended
  deriving DecidableEq, Repr, Inhabited

/-- A take (R25). `lanes` pairs a colour with a thread, in ascending colour. -/
structure Take where
  core     : Nat
  scene    : Nat
  bay      : Nat
  lanes    : List (Nat × Nat)
  age      : Nat
  st       : TakeState
  /-- the address of the slate of the next clause, or of the one under way -/
  pc       : DWord
  /-- words of the clause under way that have issued, and its count of words -/
  pos      : Nat
  cnt      : Nat
  /-- the clock at which the last word issued -/
  last     : Nat
  /-- cycles of hold the clause or the stepped word step has spent, and what its word waits for (R32) -/
  holds    : Nat
  hold     : Hold
  /-- the stepped word under way: its operation's number and 1 more; and a step of it has begun and is not over (R34) -/
  progress : Nat
  inStep   : Bool
  /-- cycles of `SLEEP` left (R179) -/
  sleep    : Nat
  /-- `YIELD` took its claim until the round ends -/
  yielded  : Bool
  /-- it had a ready clause, or started one, in the round under way (R36) -/
  ready    : Bool
  started  : Bool
  /-- drawn from a continuation reel, its clause's WAIT condition still to be met (R89) -/
  cont     : Bool
  deriving DecidableEq, Repr, Inhabited

/-- A reel (R27): the threads waiting at one address. -/
structure Reel where
  core     : Nat
  scene    : Nat
  pc       : DWord
  lanes    : List (Nat × Nat)
  /-- colours kept for the absent threads of quads (R40) -/
  reserved : List Nat
  age      : Nat
  /-- it held a thread when the round began (R36) -/
  held     : Bool
  live     : Bool
  /-- its threads stopped inside a clause and continue there (R89) -/
  cont     : Bool
  deriving DecidableEq, Repr, Inhabited

/-- The states of a scene (R390), and `queued` before its first admission (R19). -/
inductive SceneState where
  | queued
  | resident
  | saving
  | swapped
  | ready
  | restoring
  | suspended
  | ended
  deriving DecidableEq, Repr, Inhabited

/-- An operand slot with its side area, bytes 32768 on (R74, R267). -/
structure OSlot where
  claimed : Bool
  data    : Memory
  /-- its 4-byte words in error (R372) -/
  bad     : List Nat
  deriving DecidableEq, Repr, Inhabited

/-- A latch bank: the format code of R275 (4 for none), the tile's bytes and the column scales (R264). -/
structure Bank where
  fmt     : Nat
  weights : Memory
  scales  : Memory
  deriving DecidableEq, Repr, Inhabited

/-- The array of the holder (R264): accumulator (row, column) at 256 × row + column. -/
structure MatArray where
  active   : Bank
  shadow   : Bank
  acc      : Table
  rowScale : Table
  deriving DecidableEq, Repr, Inhabited

/-- A unit of quad work of a pixel scene (R346): the quad's first pixel and the triangle's number in its pass. -/
structure QuadWork where
  x    : Nat
  y    : Nat
  prim : Nat
  /-- which of its four pixels lie in the render and show the primitive -/
  own  : List Bool
  deriving DecidableEq, Repr, Inhabited

/-- A scene (R17, R19). Its number is its place in the machine's list of scenes. -/
structure Scene where
  /-- its context, 1024 for the supervisor context (R397) -/
  ctx      : Nat
  sid      : Word
  /-- its task record, or none for a handler or pixel scene -/
  node     : Option Nat
  kernel   : Nat
  code     : Nat
  codeSize : Nat
  kconst   : Nat
  kcSize   : Nat
  entries  : List Nat
  entry    : Nat
  nthr     : Nat
  cap      : Nat
  regs     : Nat
  /-- bytes of the allocation and of one exchange bank (R68, R72) -/
  alloc    : Nat
  win      : Nat
  slots    : Nat
  quad     : Bool
  arr      : Bool
  consts   : List Word
  prio     : Nat
  /-- the field DIE, and the die whose unit took its record (R285, R452) -/
  die      : Nat
  unit     : Nat
  part     : Nat
  core     : Nat
  groups   : List Nat
  st       : SceneState
  /-- the order in which it entered its queue (R19, R391) -/
  seq      : Nat
  nextTid  : Nat
  uni      : Vector Word 64
  /-- the allocation, then the two exchange banks -/
  sp       : Memory
  /-- bank 1 is the front bank (R72) -/
  front    : Bool
  /-- the empty lines, the poisoned lines and the words in error of that store (R71, R372) -/
  empty    : List Nat
  poison   : List Nat
  bad      : List Nat
  oslots   : List OSlot
  mat      : MatArray
  /-- the event bit whose handler it is (R404) -/
  handler  : Option Nat
  /-- the render pass and its quad work (R346) -/
  pass     : Option Nat
  work     : List QuadWork
  /-- first thread of the scene in the machine's list, and the threads it has -/
  threads  : List Nat
  deriving DecidableEq, Repr, Inhabited

/-- A member of a cast (R42 to R47). -/
structure Member where
  thread  : Nat
  rank    : Nat
  /-- the first phase in which it is awaited (R45) -/
  since   : Nat
  /-- the phase it has arrived for, still open -/
  arrived : Option Nat
  /-- the phase whose completion releases it, while it waits -/
  waiting : Option Nat
  /-- an arrival made again before the earlier phase completed (R44): swap and compact of it, and whether it waits -/
  again   : Option (Bool × Bool × Bool)
  /-- its arrival asks for a swap of the banks, or for a renumbering (R47), and the release that it is (R46) -/
  swap    : Bool
  pack    : Bool
  mark    : Option Nat
  deriving DecidableEq, Repr, Inhabited

/-- A cast (R42). -/
structure Cast where
  ctx     : Nat
  die     : Nat
  key     : Word
  live    : Bool
  rankCtr : Nat
  phase   : Nat
  members : List Member
  /-- cast core numbers with their cores (R63) -/
  nums    : List (Nat × Nat)
  /-- free-slot counters of the pairs (s, r), at 16 s + r (R236) -/
  free    : List (Nat × Nat)
  deriving DecidableEq, Repr, Inhabited

/-- A fault that a check has found: the kind (R377), the virtual address and the detail (R382). -/
structure FaultInfo where
  kind   : Nat
  va     : Nat
  detail : Nat
  deriving DecidableEq, Repr, Inhabited

/-- A fault record (R382), field by field. -/
structure FaultRec where
  kind   : Nat
  lane   : Nat
  halt   : Bool
  buf    : Nat
  tid    : Nat
  pc     : Nat
  scene  : Nat
  rgnPc  : Nat
  rgnCnt : Nat
  va     : Nat
  detail : Nat
  time   : Nat
  deriving DecidableEq, Repr, Inhabited

/-- A dailies sample that an instruction carries (R442): the lanes active at its issue, its requests and sectors, and whether
its requests reach the L1, and the home slice with what lies behind it. -/
structure Daily where
  active  : Nat
  lines   : Nat
  sectors : Nat
  l1      : Bool
  home    : Bool
  deriving DecidableEq, Repr, Inhabited

/-- An engine operation or an instruction of the Variable group, from its issue to its completion (R144). -/
structure Op where
  instr    : Instr
  ctx      : Nat
  scene    : Nat
  core     : Nat
  /-- colours and threads active at issue, ascending -/
  lanes    : List (Nat × Nat)
  cue      : Option Nat
  /-- it issued on pipe B (R58) -/
  pipeB    : Bool
  /-- the address of its word, and its offset in the kernel's code -/
  pc       : DWord
  pcOff    : Nat
  issued   : Nat
  /-- captured operands, in the order its meaning gives them -/
  args     : List Nat
  writes   : List RegWrite
  flags    : List (Nat × Nat)
  /-- line jobs or steps done -/
  progress : Nat
  /-- line jobs of a copy that a fault has refused (R294), and those whose source was poisoned (R229) -/
  lost     : List Nat
  tainted  : List Nat
  /-- held at a translation fault (R230) -/
  held     : Option FaultInfo
  /-- an engine read in a WO wait (R89) -/
  wo       : Option WoWait
  done     : Bool
  /-- threads that have met its cue flag at zero since it completed (R96) -/
  met      : List Nat
  /-- it has written bytes that carry no arrival signal (R98) -/
  silent   : Bool
  /-- the release that its completion is (R334) -/
  rel      : Option Nat
  /-- the dailies sample it carries (R442) -/
  daily    : Option Daily
  /-- what a `CPYM` delivers at its end, and the lines that this makes full: its destinations hold all of it or none (R448) -/
  staged   : List (Nat × Byte) := []
  filled   : List Nat := []
  deriving DecidableEq, Repr, Inhabited

/-- Supervisor registers of a die (R401, R437). -/
structure DieRegs where
  ageMax    : Nat
  parkFrac  : Nat
  parkT     : Nat
  quantum   : Nat
  woTimeout : Nat
  evPend    : Word
  evMask    : Word
  evSvc     : Word
  evEntry   : DWord
  /-- µs of TIMER left, and the clock at which they were written -/
  timer     : Nat
  timerAt   : Nat
  conflTh   : Nat
  supQBase  : Nat
  supQLog2  : Nat
  supQHead  : Nat
  supQTail  : Nat
  sPtRoot   : Nat
  sBufBase  : Nat
  sBufCnt   : Nat
  skTab     : Nat
  skTCnt    : Nat
  dailyCfg  : Word
  dailyBase : Nat
  dailyLog2 : Nat
  dailyHead : Nat
  silCfg    : Word
  silBase   : Nat
  silLog2   : Nat
  silHead   : Nat
  silStart  : Nat
  silStop   : Nat
  silLabel  : DWord
  /-- dispatch stopped until EVENTRY is written (R404) -/
  noDispatch : Bool
  /-- Sillage: capture is open, it stopped at a full ring, events lost (R443, R444) -/
  silOpen   : Bool
  silFull   : Bool
  silLost   : Nat
  deriving DecidableEq, Repr, Inhabited

/-- What a context holds (R401, R437, R429). -/
structure Ctx where
  registered : Bool
  homeDie    : Nat
  part       : Nat
  hostSub    : Bool
  hwBase     : Nat
  ptRoot     : Nat
  policy     : Word
  bufBase    : Nat
  bufCnt     : Nat
  taskBase   : Nat
  taskCnt    : Nat
  fqBase     : Nat
  fqLog2     : Nat
  fqHead     : Nat
  fqTail     : Nat
  kTab       : Nat
  ktCnt      : Nat
  step       : Word
  bpt        : Vector DWord 8
  wpLine     : Vector DWord 16
  wpMask0    : Vector DWord 16
  wpMask1    : Vector DWord 16
  /-- CTXDIGEST (R433) -/
  digest     : Nat
  /-- the next scene identifier the Storyboard Unit gives (R22) -/
  nextSid    : Word
  /-- the clock of its last run in its partition (R393) -/
  lastRun    : Nat
  deriving DecidableEq, Repr, Inhabited

/-- A record held until its queue takes it (R383): the queue is a context, or 0x400 + die for a supervisor queue. With it stand the
context and the core of the event, and the thread it belongs to, if any, for Sillage (R444). -/
structure HeldRec where
  queue  : Nat
  fault  : FaultRec
  ctx    : Nat
  core   : Nat
  thread : Option Nat
  deriving DecidableEq, Repr, Inhabited

/-- A page request still open (R239). -/
structure PageReq where
  ctx  : Nat
  page : Nat
  deriving DecidableEq, Repr, Inhabited

/-- A leaf entry that a TLB holds (R361): the unit, the context and the first page it maps. A unit is a core, or 0x1000 and
its die for a group of copy engines, 0x2000 and the handle for the Accords of a binding, 0x3000 and its core for a Surface
Unit, 0x4000 and its number for a Motion and Vision Engine. -/
structure TlbEntry where
  unit  : Nat
  ctx   : Nat
  va    : Nat
  level : Nat
  leaf  : DWord
  deriving DecidableEq, Repr, Inhabited

/-- A non-leaf entry that a walk unit holds (R361): of a context's walk, for the addresses from `va` on that it covers at a
level, with its address. -/
structure WalkEntry where
  ctx   : Nat
  va    : Nat
  level : Nat
  at1   : Nat
  entry : Nat
  deriving DecidableEq, Repr, Inhabited

/-- A line that a core's L1 holds (R82, R93). A line of a binding is named by 0x1000 and the handle for its package, and
its virtual line; `part` gives the offsets that were requested of it. -/
structure L1Line where
  core  : Nat
  ctx   : Nat
  pkg   : Nat
  line  : Nat
  data  : List Byte
  /-- an IP line, the offsets of its bytes that the core has written and memory does not have yet, and the CMPR of its
  last write -/
  ip    : Bool
  dirty : List Nat
  cmpr  : Bool
  part  : List Nat
  deriving DecidableEq, Repr, Inhabited

/-- A buffer record that a core's record cache holds (R66). -/
structure CachedRec where
  core  : Nat
  ctx   : Nat
  index : Nat
  bits  : Nat
  deriving DecidableEq, Repr, Inhabited

/-- A line of the L2 (R292): dirty, and the CMPR of the translation that last filled or wrote it (R373). -/
structure L2Line where
  key   : L2Key
  dirty : Bool
  cmpr  : Bool
  deriving DecidableEq, Repr, Inhabited

/-- One direction of a binding: the formula image, its parameters, its counters, and the running state of each serving
Accord's cells (R295, R307). -/
structure FormDir where
  image  : List Byte
  params : Vector Word 8
  beats  : Nat
  err    : Nat
  /-- Accord and its 64 values of state, after the first beat -/
  cells  : List (Nat × List Nat)
  /-- Accords that hold an element-local stream context (R295) -/
  streams : List Nat
  /-- Accords whose slot or context holds a parity error that the next beat there meets, and those whose slot met one
  and is to be reloaded (R301) -/
  hurt   : List Nat
  reload : List Nat
  deriving DecidableEq, Repr, Inhabited

/-- A binding of a buffer record to formulas (R303). -/
structure Binding where
  handle : Nat
  ctx    : Nat
  index  : Nat
  base   : Nat
  extent : Nat
  icls   : Nat
  stk    : Nat
  ch     : Nat
  /-- the die of the core that bound it, whose registers a supervisor binding uses (R397) -/
  die    : Nat
  rd     : Option FormDir
  wr     : Option FormDir
  /-- memory-side cycles that its beats have waited for a stream context (R295, R307) -/
  stall  : Nat
  /-- requester-form bytes of the beats that L2 holds -/
  lines  : Memory
  /-- the frames of the footprint when it was bound, in runs, and whether one has got a type that R311 forbids -/
  frames : List (Nat × Nat)
  barred : Bool
  /-- poisoned requester-form lines, by number (R301, R312) -/
  poison : List Nat
  deriving DecidableEq, Repr, Inhabited

/-- A triangle of a pass, in the fixed-point units of R344 with its depths and ID. -/
structure Tri where
  x  : List Int
  y  : List Int
  z  : List Word
  id : Word
  deriving DecidableEq, Repr, Inhabited

/-- A render pass (R342) that a die's Binning Unit holds. -/
structure Pass where
  ctx    : Nat
  buf    : Nat
  scene  : Nat
  die    : Nat
  part   : Nat
  core   : Nat
  /-- 1 open, 2 closed, 3 done -/
  state  : Nat
  tris   : List Tri
  /-- bytes of the bin area in use -/
  used   : Nat
  /-- bins that are final (R346) -/
  final  : List Nat
  deriving DecidableEq, Repr, Inhabited

/-- A motion request (R350): `desc` is its descriptor, `issuer` the operation, or `node` the run of the vision node. -/
structure MveReq where
  die     : Nat
  ctx     : Nat
  ticket  : Nat
  desc    : Nat
  issuer  : Option Nat
  node    : Option Nat
  /-- 0 queued, 1 running, 2 coarse written, 3 done, 4 failed (R352) -/
  state   : Nat
  /-- the engine of the die that runs it, 0 to 3 -/
  eng     : Nat
  refined : Nat
  /-- the final records of its blocks, computed at its start -/
  final   : List Byte
  /-- CUR's header as the search read it, and the buffer and the generation of its reference -/
  hdr     : Nat
  refBuf  : Nat
  refGen  : Nat
  deriving DecidableEq, Repr, Inhabited

/-- A seal under way (R334): its operation, or the run of its node. -/
structure SealJob where
  ctx    : Nat
  die    : Nat
  buf    : Nat
  flags  : Nat
  issuer : Option Nat
  node   : Option Nat
  done   : Bool
  deriving DecidableEq, Repr, Inhabited

/-- A record that is armed (R285): its place in the order of arming, and once it is ready the die whose unit takes it
(R452). -/
structure Armed where
  ctx   : Nat
  index : Nat
  seq   : Nat
  unit  : Option Nat
  deriving DecidableEq, Repr, Inhabited

/-- A node that the Storyboard Unit has launched (R285). -/
structure NodeRun where
  ctx   : Nat
  index : Nat
  kind  : Nat
  /-- the field DIE, and the die whose unit took the record (R285, R452) -/
  die   : Nat
  unit  : Nat
  prio  : Nat
  /-- the order of arming -/
  seq   : Nat
  /-- its work has begun -/
  begun : Bool
  /-- the core of a tile task once it is dispatched (R286) -/
  core  : Option Nat
  /-- the operand of a tile task that it reads, its lines done, the operand bytes so far, each with whether its line was
  poisoned, the fault it is held at (R286), and the WO line that it waits for (R89) -/
  stage : Nat
  progress : Nat
  got   : List (Byte × Bool)
  held  : Option FaultInfo
  wo    : Option WoWait
  live  : Bool
  deriving DecidableEq, Repr, Inhabited

/-- An agent of the memory model (R75), or a group of agents that learn of a write together. -/
inductive Agent where
  | thread (i : Nat)
  /-- an engine operation -/
  | op (i : Nat)
  /-- the threads of a scene and the operations that they start -/
  | scene (i : Nat)
  /-- the engine of a node that is no scene, by its run -/
  | node (i : Nat)
  /-- the Accords of a binding, by its handle -/
  | accord (handle : Nat)
  /-- the host and the peers -/
  | ext
  deriving DecidableEq, Repr, Inhabited

/-- Where bytes stand: in memory, in the store of a scene, or in the requester form of a binding. -/
inductive Space where
  | mem
  | sp (scene : Nat)
  | bound (handle : Nat)
  deriving DecidableEq, Repr, Inhabited

/-- A `FENCEX` that covers a write (R96): a class of its after-mask, the thread that executed it, the first operation
after it, and its scope on the die of the thread. -/
structure Fenced where
  cls    : Nat
  thread : Nat
  first  : Nat
  scope  : Nat
  die    : Nat
  deriving DecidableEq, Repr, Inhabited

/-- A write that some reader may not see yet (R97): a 16-byte granule with its bytes from before the write. -/
structure OldGranule where
  space  : Space
  gran   : Nat
  /-- the path class of the write, and of the operation that it counts as an access of (R75, R310) -/
  cls    : Nat
  via    : Nat
  owners : List Agent
  bytes  : List Byte
  /-- the agents that the write happens-before, its own among them (R83, R96) -/
  knows  : List Agent
  /-- the releases that the write happens-before (R83) -/
  marks  : List Nat
  fenced : List Fenced
  /-- the agents that have read it, or a later write of the granule, and the cores whose L1 has taken a copy of it since
  (R82) -/
  seen   : List Agent
  l1s    : List Nat
  deriving DecidableEq, Repr, Inhabited

/-- Who reads or writes, where path classes meet (R97): a class, the class that its writes count under for fences (R310),
an agent, the scene whose knowledge it shares, the threads that read or started the operation, its die, and the number of
the operation among all. -/
structure Reader where
  cls     : Nat
  via     : Nat
  agent   : Agent
  scene   : Option Nat
  threads : List Nat
  die     : Nat
  first   : Nat
  deriving DecidableEq, Repr, Inhabited

/-- A release that an acquire can read (R83): its number, who released and at which scope, the bytes it wrote, and the
threads that were in the take of the one who released (R76). -/
structure Release where
  mark  : Nat
  agent : Agent
  scope : Nat
  space : Space
  lo    : Nat
  n     : Nat
  team  : List Nat
  deriving DecidableEq, Repr, Inhabited

/-- A `FENCEX` whose first set holds writes to scratchpad (R96): their mark, the thread that executed it, its after-mask and
scope, the threads of its take then, and the first operation after it. -/
structure Trail where
  mark   : Nat
  thread : Nat
  after  : Nat
  scope  : Nat
  team   : List Nat
  first  : Nat
  deriving DecidableEq, Repr, Inhabited

/-- An arrival signal (R98): the line that an operation filled or wrote, and the threads that have read it since. -/
structure Signal where
  op    : Nat
  space : Space
  line  : Nat
  seen  : List Nat
  deriving DecidableEq, Repr, Inhabited

/-- A row of a core's instruction memory with its lease entry (R396). -/
structure CodeRow where
  core   : Nat
  row    : Nat
  ctx    : Nat
  kernel : Nat
  code   : Nat
  /-- 1 loading, 2 loaded -/
  state  : Nat
  bytes  : List Byte
  used   : Nat
  deriving DecidableEq, Repr, Inhabited

/-- A partition (R426): its stages and the context whose slice it runs (R393). -/
structure Partition where
  stages  : List Nat
  current : Option Nat
  /-- the clock at which the slice began -/
  since   : Nat
  /-- its pre-emption is under way (R394, step 1), for the context that has the next slice, or for none -/
  closing : Bool
  next    : Option Nat
  deriving DecidableEq, Repr, Inhabited

/-- A scrubbing frame (R365): the lines that have been written or scrubbed since it entered scrubbing, and whether the unit
holds a map for it, as it does from its retype or from the first write to it. -/
structure Scrub where
  frame : Nat
  marks : List Nat
  map   : Bool
  deriving DecidableEq, Repr, Inhabited

/-- An entry of the export table (R425). -/
structure ExportEntry where
  srcPkg : Nat
  srcCtx : Nat
  ctx    : Nat
  deriving DecidableEq, Repr, Inhabited

/-- What the host link answered to the last request (R418 to R420). -/
inductive HostReply where
  | none
  | data (bytes : List Byte)
  | done
  | poison
  | unsupported
  | dropped
  deriving DecidableEq, Repr, Inhabited

/-- What the package answered to the last remote request (R425). -/
inductive RemoteReply where
  | none
  | data (bytes : List Byte)
  | done
  | poison
  | refused (kind detail : Nat)
  deriving DecidableEq, Repr, Inhabited

/-- The power states (R436), and `boot` before bring-up ends (R435). -/
inductive Power where
  | boot
  | run
  | standby
  | off
  deriving DecidableEq, Repr, Inhabited

/-- The word that executes: its take, its address and its position in the clause. -/
structure Cur where
  take : Nat
  addr : DWord
  pos  : Nat
  deriving DecidableEq, Repr, Inhabited

/-- The whole package. -/
structure State where
  /-- the take whose word executes, within a step -/
  cur      : Option Cur
  agenda   : List Turn
  clock    : Nat
  /-- the next of the free values (Config) -/
  freeIx   : Nat
  /-- scheduling rounds that have ended (R36) -/
  rounds   : Nat
  power    : Power
  /-- life-cycle state (R434) -/
  lcs      : Nat
  -- threads and their groups
  threads  : List Thread
  takes    : List Take
  reels    : List Reel
  scenes   : List Scene
  casts    : List Cast
  pend     : List Pending
  /-- uniform registers that pipe B has written at the present clock: clock, scene and number (R58) -/
  uniB     : List (Nat × Nat × Nat)
  ops      : List Op
  codeRows : List CodeRow
  /-- the context in each core's shadow entry (R395) -/
  shadow   : Table
  -- supervisor state
  dies     : Vector DieRegs 4
  ctxs     : List (Nat × Ctx)
  held     : List HeldRec
  pageReqs : List PageReq
  parts    : Vector Partition 48
  seqCtr   : Nat
  -- memory
  mem      : Memory
  lineTags : Table
  frameTags : Table
  /-- reset, or a life-cycle change, has put every HBM and second-tier frame into scrubbing (R363, R434) -/
  wiped    : Bool
  scrubs   : List Scrub
  tlb      : List TlbEntry
  /-- the non-leaf entries that the walk units cache, by their addresses (R361) -/
  walks    : List WalkEntry
  l1       : List L1Line
  recCache : List CachedRec
  l2       : List L2Line
  /-- writes that a reader of another class may not see yet, the last first (R97) -/
  olds     : List OldGranule
  /-- releases so far, those that an acquire can still read, those that a thread's plain loads have read, and those of
  its fences, with their scopes (R83, R84) -/
  markCtr  : Nat
  releases : List Release
  loaded   : List (Nat × Nat)
  fences   : List (Nat × Nat × Nat)
  /-- fences across path classes, and the accesses that came after them: one who sees such an access sees the writes before
  the fence (R96) -/
  trails   : List Trail
  tracks   : List Release
  /-- releases that the launch of a record of a context acquires (R99, R287) -/
  nodeMarks : List (Nat × Nat × Nat)
  /-- arrival signals, the last first (R98) -/
  signals  : List Signal
  -- the address map and the stacks
  groupMode : Table
  hashVer  : Nat
  masks    : List Nat
  oldMasks : List Nat
  migrating : Bool
  /-- of each group the line at which its migration stands, and one more than the line in the staging line (R369) -/
  moved    : Table
  staging  : Table
  openRows : Table
  bankCnt  : Table
  rowCnt   : Table
  conflicted : List Nat
  throttled : List Nat
  /-- the clock at which each stack's conflict window began (R368) -/
  windowAt : Table
  errCnt   : Table
  /-- the error events posted, the last first: the die of the Director and the address (R371) -/
  memErrs  : List (Nat × Nat)
  -- units
  bindings : List Binding
  passes   : List Pass
  mveReqs  : List MveReq
  seals    : List SealJob
  nodes    : List NodeRun
  /-- records that are armed -/
  armed    : List Armed
  /-- byte 1, and 1 more, of the image last committed to record i of context c, at 2^32 c + i: a data record has no header
  (R279), so that its readers get back the byte that STATE has taken (R288, R290) -/
  listBytes : Table
  /-- MEM instructions that each core has issued for dailies (R442) -/
  dailyCnt : Table
  -- host, links and trust
  pkgId    : Nat
  standalone : Bool
  portsDown : List Nat
  /-- link ports that disagree with the package ID, as the link monitor reports them (R423) -/
  badPorts : List Nat
  /-- changes of the link so far, and the packages that are marked unreachable (R424) -/
  linkCtr  : Nat
  cutOff   : List Nat
  exports  : List ExportEntry
  /-- keys of slots 1 to 15 (R431) -/
  keys     : Table
  fwDigest : Nat
  fwOk     : Bool
  /-- the images that LOADFW has staged, by component (R429) -/
  staged   : List (Nat × List Byte)
  /-- the bytes of the mailbox that are not zero (R428), whether the command in it is still to be done, and bring-up has ended -/
  mailbox  : Memory
  mbWait   : Bool
  mbReady  : Bool
  powerLow : Bool
  msix     : List (Nat × Nat)
  hostReply : HostReply
  remoteReply : RemoteReply
  deriving DecidableEq, Repr, Inhabited

/-- The registers of a die at reset (R401, R437). -/
def DieRegs.reset : DieRegs :=
  { ageMax := 8, parkFrac := 32, parkT := 20, quantum := 2000, woTimeout := 100, evPend := 0, evMask := 0, evSvc := 0
    evEntry := 0, timer := 0, timerAt := 0, conflTh := 4096, supQBase := 0, supQLog2 := 4, supQHead := 0
    supQTail := 0, sPtRoot := 0, sBufBase := 0, sBufCnt := 0, skTab := 0, skTCnt := 0, dailyCfg := 0, dailyBase := 0
    dailyLog2 := 8, dailyHead := 0, silCfg := 0, silBase := 0, silLog2 := 8, silHead := 0, silStart := 0
    silStop := 0, silLabel := 0, noDispatch := false, silOpen := false, silFull := false, silLost := 0 }

/-- The registers of a context that is not registered (R400, R401, R437). -/
def Ctx.reset : Ctx :=
  { registered := false, homeDie := 0, part := 0, hostSub := false, hwBase := 0, ptRoot := 0, policy := 0x00237EDE
    bufBase := 0, bufCnt := 0, taskBase := 0, taskCnt := 0, fqBase := 0, fqLog2 := 4, fqHead := 0, fqTail := 0
    kTab := 0, ktCnt := 0, step := 0, bpt := .replicate 8 0, wpLine := .replicate 16 0, wpMask0 := .replicate 16 0
    wpMask1 := .replicate 16 0, digest := 0, nextSid := 0, lastRun := 0 }

/-- The masks of hash version 0: every mask is its designated bit alone (R366, R367). Mask j of mode k stands at
13 k + j. -/
def resetMasks : List Nat :=
  ([7, 8, 9, 10, 11, 12, 13, 14, 15, 16, 17, 18, 19] ++ [29, 30, 31, 7, 8, 9, 10, 11, 12, 13, 14, 15, 16] ++
    [29, 30, 31, 24, 25, 26, 27, 28, 7, 8, 9, 10, 11] ++ [21, 22, 23, 24, 25, 26, 27, 28, 7, 8, 9, 10, 11]).map
    (2 ^ ·)

/-- The machine right after reset: power is good, bring-up has not run (R435), and nothing is registered. -/
def State.reset : State :=
  { cur := none, agenda := [], clock := 0, freeIx := 0, rounds := 0, power := .boot, lcs := 1, threads := [], takes := []
    reels := [], scenes := [], casts := [], pend := [], uniB := [], ops := [], codeRows := [], shadow := []
    dies := .replicate 4 .reset, ctxs := [], held := [], pageReqs := []
    parts := .replicate 48 { stages := [], current := none, since := 0, closing := false, next := none }, seqCtr := 0, mem := [], lineTags := []
    frameTags := [], wiped := true, scrubs := [], tlb := [], walks := [], l1 := [], recCache := [], l2 := [], olds := [], markCtr := 0, releases := [], loaded := []
    fences := [], trails := [], tracks := [], nodeMarks := [], signals := [], groupMode := [], hashVer := 0
    masks := resetMasks, oldMasks := resetMasks, migrating := false, moved := [], staging := [], openRows := [], bankCnt := []
    rowCnt := [], conflicted := [], throttled := [], windowAt := [], errCnt := [], memErrs := [], bindings := [], passes := []
    mveReqs := [], seals := [], nodes := [], armed := [], listBytes := [], dailyCnt := [], pkgId := 0, standalone := true
    portsDown := [], badPorts := [], linkCtr := 0, cutOff := [], exports := [], keys := [], fwDigest := 0, fwOk := false, staged := []
    mailbox := [], mbWait := false, mbReady := false, powerLow := false, msix := [], hostReply := .none
    remoteReply := .none }

end Sys2Proof.Machine
end

