-- ==== Sys2Proof/Machine/Ops.lean ====
section
/-! DEFINITION. The named operations over the state: memory and tables, registers and their timing, frame and line tags,
fault records and the taking of a fault, threads, takes, reels, casts and the ends of threads and scenes. -/

namespace Sys2Proof.Machine

/-! ## Memory -/

/-- The byte at an address; an address that is not listed reads as zero. -/
def Memory.read (m : Memory) (a : Nat) : Byte :=
  match m with
  | [] => 0
  | (k, b) :: rest => if a == k then b else Memory.read rest a

/-- List a byte at its place among rising addresses. -/
def Memory.put (m : Memory) (a : Nat) (x : Byte) : Memory :=
  match m with
  | [] => [(a, x)]
  | (k, b) :: rest =>
    if a < k then (a, x) :: (k, b) :: rest
    else if a == k then (a, x) :: rest
    else (k, b) :: Memory.put rest a x

/-- Store one byte, keeping the form: rising addresses, no zeros. -/
def Memory.write (m : Memory) (a : Nat) (x : Byte) : Memory :=
  if x == 0 then m.filter fun c => c.1 != a else m.put a x

/-- The canonical form: addresses strictly rising from `lo` on, no listed byte zero. -/
def Memory.wfFrom (lo : Nat) : Memory → Bool
  | [] => true
  | (k, b) :: rest => decide (lo ≤ k) && b != 0 && Memory.wfFrom (k + 1) rest

/-- The canonical form of a memory. -/
def Memory.wf (m : Memory) : Bool := Memory.wfFrom 0 m

/-- `n` bytes from an address on. -/
def Memory.readN (m : Memory) (a n : Nat) : List Byte := (List.range n).map fun i => m.read (a + i)

/-- Store bytes from an address on. -/
def Memory.writeN (m : Memory) (a : Nat) : List Byte → Memory
  | [] => m
  | b :: bs => (m.write a b).writeN (a + 1) bs

/-- A little-endian number of `n` bytes (R2). -/
def Memory.num (m : Memory) (a n : Nat) : Nat := leNat (m.readN a n)

/-- Store a number of `n` bytes (R2). -/
def Memory.setNum (m : Memory) (a n x : Nat) : Memory := m.writeN a (leBytes n x)

/-- The entry of a table; an entry that is not listed is zero. -/
def Table.get (t : Table) (k : Nat) : Nat :=
  match t with
  | [] => 0
  | (j, x) :: rest => if k == j then x else Table.get rest k

/-- List an entry at its place among rising numbers. -/
def Table.put (t : Table) (k x : Nat) : Table :=
  match t with
  | [] => [(k, x)]
  | (j, y) :: rest =>
    if k < j then (k, x) :: (j, y) :: rest
    else if k == j then (k, x) :: rest
    else (j, y) :: Table.put rest k x

/-- Set an entry of a table, keeping its form. -/
def Table.set (t : Table) (k x : Nat) : Table := if x == 0 then t.filter fun e => e.1 != k else t.put k x

/-- Put a number into a rising list without repeats. -/
def insertNat (k : Nat) : List Nat → List Nat
  | [] => [k]
  | j :: rest => if k < j then k :: j :: rest else if k == j then j :: rest else j :: insertNat k rest

/-! ## The parts of the state by number -/

/-- Thread `i`. -/
def State.thread (s : State) (i : Nat) : Thread := s.threads.getD i default

/-- Take `i`. -/
def State.take (s : State) (i : Nat) : Take := s.takes.getD i default

/-- Reel `i`. -/
def State.reel (s : State) (i : Nat) : Reel := s.reels.getD i default

/-- Scene `i`. -/
def State.scene (s : State) (i : Nat) : Scene := s.scenes.getD i default

/-- Cast `i`. -/
def State.cast (s : State) (i : Nat) : Cast := s.casts.getD i default

/-- Operation `i`. -/
def State.op (s : State) (i : Nat) : Op := s.ops.getD i default

/-- Change thread `i`. -/
def State.modThread (s : State) (i : Nat) (f : Thread → Thread) : State := { s with threads := s.threads.modify i f }

/-- Change take `i`. -/
def State.modTake (s : State) (i : Nat) (f : Take → Take) : State := { s with takes := s.takes.modify i f }

/-- Change reel `i`. -/
def State.modReel (s : State) (i : Nat) (f : Reel → Reel) : State := { s with reels := s.reels.modify i f }

/-- Change scene `i`. -/
def State.modScene (s : State) (i : Nat) (f : Scene → Scene) : State := { s with scenes := s.scenes.modify i f }

/-- Change cast `i`. -/
def State.modCast (s : State) (i : Nat) (f : Cast → Cast) : State := { s with casts := s.casts.modify i f }

/-- Change operation `i`. -/
def State.modOp (s : State) (i : Nat) (f : Op → Op) : State := { s with ops := s.ops.modify i f }

/-- The indices of a list's elements that satisfy a test, ascending. -/
def indices {α : Type} (xs : List α) (p : α → Bool) : List Nat :=
  (xs.zipIdx.filter fun x => p x.1).map Prod.snd

/-- The registers of a die (R401). -/
def State.die (s : State) (d : Nat) : DieRegs := s.dies.toList.getD d default

/-- Change the registers of a die. -/
def State.modDie (s : State) (d : Nat) (f : DieRegs → DieRegs) : State :=
  { s with dies := s.dies.mapFinIdx fun i r _ => if i == d then f r else r }

/-- A context; one that is not registered holds the reset values (R400). -/
def State.ctx (s : State) (c : Nat) : Ctx := ((s.ctxs.find? fun x => x.1 == c).map Prod.snd).getD Ctx.reset

/-- Set a context. -/
def State.setCtx (s : State) (c : Nat) (x : Ctx) : State :=
  { s with ctxs := (s.ctxs.filter fun y => y.1 < c) ++ [(c, x)] ++ (s.ctxs.filter fun y => c < y.1) }

/-- Change a registered context. -/
def State.modCtx (s : State) (c : Nat) (f : Ctx → Ctx) : State :=
  if (s.ctx c).registered then s.setCtx c (f (s.ctx c)) else s

/-- The number that stands for the supervisor context (R397). -/
def supCtx : Nat := 1024

/-- The die of a core in the numbering of `RDSPEC` value 10 (R60). -/
def coreDie (core : Nat) : Nat := core / 64

/-- A Director core (R60). -/
def isDirector (core : Nat) : Bool := core % 64 == 48 || core % 64 == 49

/-- A core of the package. -/
def isCore (core : Nat) : Bool := core / 64 < 4 && core % 64 < 50

/-- The next free value, and the state that has used it. -/
def State.fresh (s : State) : DWord × State := (Config.freeWord s.freeIx, { s with freeIx := s.freeIx + 1 })

/-- A free choice between two allowed behaviours. -/
def State.choose (s : State) : Bool × State := (Config.freeBool s.freeIx, { s with freeIx := s.freeIx + 1 })

/-- The motion queue of a die holds 64 requests (R350). -/
def State.motionFull (s : State) (die : Nat) : Bool := 64 ≤ (s.mveReqs.filter fun r => r.die == die && r.state == 0).length

/-! ## Physical memory: what is populated, frame tags and line tags -/

/-- HBM (R356). -/
def isHbm (pa : Nat) : Bool := pa < 0x8000000000

/-- Second-tier memory (R356). -/
def isTier2 (pa : Nat) : Bool := 0x200000000000 ≤ pa && pa < 0x400000000000

/-- Host memory (R356). -/
def isHostPa (pa : Nat) : Bool := 0x800000000000 ≤ pa && pa < 0x1000000000000

/-- A populated physical address (R356). -/
def populated (pa : Nat) : Bool :=
  isHbm pa ||
  (isTier2 pa && (pa - 0x200000000000) % 0x40000000000 < Config.expanderBytes ((pa - 0x200000000000) / 0x40000000000)) ||
  (isHostPa pa && pa - 0x800000000000 < Config.hostBytes)

/-- What the tag of a frame that no entry describes reads as: an IP frame with no assignment, scrubbing from reset until
bring-up has scrubbed it (R363, R365), and again after a life-cycle change (R434). -/
def State.baseTag (s : State) (frame : Nat) : Nat :=
  if s.wiped && (isHbm (frame * 65536) || isTier2 (frame * 65536)) then 7 else 3

/-- The tag of a frame (R363). The table holds what differs from the frame's base tag. -/
def State.frameTag (s : State) (frame : Nat) : Nat := s.frameTags.get frame ^^^ s.baseTag frame

/-- Set the tag of a frame (R363). -/
def State.setFrameTag (s : State) (frame tag : Nat) : State :=
  { s with frameTags := s.frameTags.set frame (tag ^^^ s.baseTag frame) }

/-- TYPE, SCRUB, ALLOC, OWNER and RETIRED of a tag (R363). -/
def tagType (t : Nat) : Nat := t % 4
def tagScrub (t : Nat) : Bool := bitOf t 2
def tagAlloc (t : Nat) : Bool := bitOf t 3
def tagOwner (t : Nat) : Nat := bitsOf t 13 4
def tagRetired (t : Nat) : Bool := bitOf t 14

/-- A tag from its fields. -/
def mkTag (type : Nat) (scrub alloc : Bool) (owner : Nat) (retired : Bool) : Nat :=
  packFields [(2, type), (1, b2n scrub), (1, b2n alloc), (10, owner), (1, b2n retired)]

/-- The frame of a physical address (R356). -/
def frameOf (pa : Nat) : Nat := pa / 65536

/-- The line of a physical address. -/
def lineOf (pa : Nat) : Nat := pa / 128

/-- The tag of a line (R370). -/
def State.lineTag (s : State) (line : Nat) : Nat := s.lineTags.get line

/-- WR and PSN of a line (R370). -/
def State.lineWr (s : State) (line : Nat) : Bool := bitOf (s.lineTag line) 9
def State.linePsn (s : State) (line : Nat) : Bool := bitOf (s.lineTag line) 10

/-- Set or clear a bit of a number. -/
def setBitN (x i : Nat) (b : Bool) : Nat := if bitOf x i == b then x else if b then x + 2 ^ i else x - 2 ^ i

/-- Set a bit of a line's tag. -/
def State.setLineBit (s : State) (line i : Nat) (b : Bool) : State :=
  { s with lineTags := s.lineTags.set line (setBitN (s.lineTag line) i b) }

/-! ## The address map -/

/-- Parity of a number. -/
def parityN (x : Nat) : Bool := ((List.range 64).filter fun i => bitOf x i).length % 2 == 1

/-- The mask of output j under the mode of an address's group, in a mask set. -/
def State.maskOf (s : State) (ms : List Nat) (pa j : Nat) : Nat := ms.getD (13 * s.groupMode.get (pa / 2 ^ 32) + j) 0

/-- The line that the new map puts where the old map has the line of `pa` (R369). A mask takes its own designated bit and
undesignated ones only, so that the new map exchanges lines in pairs, or leaves a line where it is: every cycle of the
permutation has one line or two. -/
def State.partner (s : State) (pa : Nat) : Nat :=
  (List.range 13).foldl (fun acc j =>
    if parityN (pa &&& s.maskOf s.masks pa j) == parityN (pa &&& s.maskOf s.oldMasks pa j) then acc
    else acc ^^^ s.maskOf resetMasks pa j) (pa / 128 * 128)

/-- The number of a line in its group. -/
def groupLine (pa : Nat) : Nat := pa % 2 ^ 32 / 128

/-- The lower line of the cycle that a line belongs to. -/
def State.cycleLead (s : State) (pa : Nat) : Nat := min (groupLine pa) (groupLine (s.partner pa))

/-- The line is in the engine's staging line (R369). -/
def State.lineStaged (s : State) (pa : Nat) : Bool := s.migrating && s.staging.get (pa / 2 ^ 32) == groupLine pa + 1

/-- A line has moved: LV at the place that the new map gives it has the new parity (R369). The cycles of a group move in
ascending order of their lower lines, the lower line of each first. -/
def State.lineMoved (s : State) (pa : Nat) : Bool :=
  !s.migrating ||
    (let k := s.moved.get (pa / 2 ^ 32)
     decide (s.cycleLead pa < k) ||
       (s.cycleLead pa == k && s.staging.get (pa / 2 ^ 32) != 0 && groupLine pa == k))

/-- Output j of the map for a line (R366): by the new map where the line has moved, else, or from the staging line, by the
old one (R369). -/
def State.selection (s : State) (pa j : Nat) : Bool :=
  parityN (pa &&& s.maskOf (if s.lineMoved pa then s.masks else s.oldMasks) pa j)

/-- Outputs lo to lo + n − 1 as a number. -/
def State.outputs (s : State) (pa lo n : Nat) : Nat :=
  (List.range n).foldl (fun acc i => acc + b2n (s.selection pa (lo + i)) * 2 ^ i) 0

/-- Stack and channel of an HBM line (R366). -/
def State.stackOf (s : State) (pa : Nat) : Nat := s.outputs pa 0 3
def State.channelOf (s : State) (pa : Nat) : Nat := s.outputs pa 3 5

/-- The Accord that serves a line (R291). -/
def State.accordOf (s : State) (pa : Nat) : Nat := 4 * s.stackOf pa + s.channelOf pa / 8

/-- The die of a line's home L2 slice (R452). -/
def State.homeDieOf (s : State) (pa : Nat) : Nat :=
  if isHbm pa then s.stackOf pa / 2
  else if isTier2 pa then (pa - 0x200000000000) / 0x40000000000 / 2
  else 0

/-! ## Scrubbing (R365) -/

/-- Mark a line of a scrubbing frame as written, with a map from then on, or as scrubbed (R365). -/
def State.markScrub (s : State) (line : Nat) (written : Bool := true) : State :=
  if tagScrub (s.frameTag (line / 512)) then
    if s.scrubs.any (fun x => x.frame == line / 512) then
      { s with scrubs := s.scrubs.map fun x =>
          if x.frame == line / 512 then { x with marks := insertNat (line % 512) x.marks, map := x.map || written } else x }
    else { s with scrubs := s.scrubs ++ [{ frame := line / 512, marks := [line % 512], map := written }] }
  else s

/-- The scrub unit has passed the last line of a frame: every line that nothing has written is zero with a zero tag, as it
reads already, and the frame's map is free (R365). -/
def State.finishScrub (s : State) (frame : Nat) : State :=
  { s with scrubs := s.scrubs.filter fun x => x.frame != frame : State }.setFrameTag frame
    (setBitN (s.frameTag frame) 2 false)

/-- Every map of the scrub unit that would hold a frame's is in use (R365). -/
def State.mapsFull (s : State) (frame : Nat) : Bool :=
  4096 ≤ (s.scrubs.filter fun x => x.map && s.stackOf (x.frame * 65536) == s.stackOf (frame * 65536)).length

/-- A write to a scrubbing frame that has no map yet waits, where every map of its stack is in use, until the unit has
passed one of those frames (R365). -/
def State.awaitMap (s : State) (frame : Nat) : State :=
  if tagScrub (s.frameTag frame) && s.scrubs.all (fun x => x.frame != frame || !x.map) && s.mapsFull frame then
    match s.scrubs.find? fun x => x.map && s.stackOf (x.frame * 65536) == s.stackOf (frame * 65536) with
    | some x => s.finishScrub x.frame
    | none => s
  else s

/-- A unit stores a number of `n` bytes, which lies in one line, at a physical address; the line of a scrubbing frame is
written from then on (R365). -/
def State.storeNum (s : State) (a n x : Nat) : State :=
  let s := s.awaitMap (frameOf a)
  ({ s with mem := s.mem.setNum a n x } : State).markScrub (a / 128)

/-- Drop what is listed of a range. -/
def Memory.dropRange (m : Memory) (a n : Nat) : Memory := m.filter fun c => c.1 < a || a + n ≤ c.1

/-- Put a frame into scrubbing (R365): it has no line written by its new owner, and every line of it reads as zeros with
a zero tag from this moment. -/
def State.startScrub (s : State) (frame : Nat) : State :=
  { s with
    mem := s.mem.dropRange (frame * 65536) 65536
    lineTags := s.lineTags.filter fun x => x.1 / 512 != frame
    scrubs := (s.scrubs.filter fun x => x.frame != frame) ++ [{ frame := frame, marks := [], map := true }]
    olds := s.olds.filter fun y => y.space != .mem || y.gran / 4096 != frame
    l2 := s.l2.filter fun x => match x.key with
      | .phys l => l / 512 != frame
      | .bound _ _ => true : State }.setFrameTag frame (setBitN (s.frameTag frame) 2 true)

/-! ## Registers -/

/-- Predicate j of a thread; `p0` reads as 1 (R59). -/
def Thread.pred (t : Thread) (j : Nat) : Bool := j == 0 || t.p.toNat / 2 ^ j % 2 == 1

/-- Write predicate j; a write to `p0` is discarded (R59). -/
def Thread.setPred (t : Thread) (j : Nat) (b : Bool) : Thread :=
  if j == 0 then t else { t with p := BitVec.ofNat 8 (setBitN t.p.toNat j b) }

/-- `vk` of a thread (R52). -/
def Thread.reg (t : Thread) (k : Nat) : Word := t.v.getD k 0

/-- Write `vk`; the write repairs a word in error (R372). -/
def Thread.setReg (t : Thread) (k : Nat) (x : Word) : Thread :=
  { t with v := t.v.set k x, bad := t.bad.filter fun n => n != k }

/-- Cue flag j (R56). -/
def Thread.cueOf (t : Thread) (j : Nat) : Nat := t.cue.toList.getD j 0

/-- Set cue flag j. -/
def Thread.setCue (t : Thread) (j n : Nat) : Thread :=
  { t with cue := t.cue.mapFinIdx fun i x _ => if i == j then n else x }

/-- Write `ok`; the write repairs a word in error (R372). -/
def Thread.setO (t : Thread) (k : Nat) (x : Word) : Thread :=
  { t with o := t.o.mapFinIdx fun i y _ => if i == k then x else y
           bad := t.bad.filter fun n => n != 256 + k }

/-- Write latch `bn` (R57). -/
def Thread.setLatch (t : Thread) (n : Nat) (x : DWord) : Thread :=
  { t with latch := t.latch.mapFinIdx fun i y _ => if i == n then x else y }

/-- `sk` of a scene (R58). -/
def Scene.uniReg (c : Scene) (k : Nat) : Word := c.uni.toList.getD k 0

/-- Write `sk`. -/
def Scene.setUni (c : Scene) (k : Nat) (x : Word) : Scene :=
  { c with uni := c.uni.mapFinIdx fun i y _ => if i == k then x else y }

/-- Raise a thread's cue flag by one (R139). -/
def State.raiseCue (s : State) (th j : Nat) : State := s.modThread th fun t => t.setCue j (t.cueOf j + 1)

/-- Lower a thread's cue flag by one (R29). -/
def State.lowerCue (s : State) (th j : Nat) : State := s.modThread th fun t => t.setCue j (t.cueOf j - 1)

/-- Make one write: the one operation that writes registers (R51, R58, R59). -/
def State.writeReg (s : State) (w : RegWrite) : State :=
  match w.dest with
  | .v n => s.modThread w.thread fun t => t.setReg n (w.value.setWidth 32)
  | .o n => s.modThread w.thread fun t => t.setO n (w.value.setWidth 32)
  | .s n => s.modScene (s.thread w.thread).scene fun c => c.setUni n (w.value.setWidth 32)
  | .p n => s.modThread w.thread fun t => t.setPred n (w.value.toNat % 2 == 1)
  | .b n => s.modThread w.thread fun t => t.setLatch n w.value
  | .cue n => s.lowerCue w.thread n

/-- Make a write of a word at its issue, or of an instruction at its completion: of the writes of the two pipes to one
uniform register in one cycle, that of pipe B stands (R58). -/
def State.pipeWrite (s : State) (pipeB : Bool) (w : RegWrite) : State :=
  match w.dest with
  | .s n =>
    let key := (s.clock, (s.thread w.thread).scene, n)
    if pipeB then
      ({ s with uniB := key :: s.uniB.filter fun k => k.1 == s.clock && k != key } : State).writeReg w
    else if s.uniB.contains key then s
    else s.writeReg w
  | _ => s.writeReg w

/-- Make such writes in order. DESIGN CHOICE (log 86): a result of an earlier word that is still on its way to the same register
arrives at its own cycle, after this write, and stands. -/
def State.pipeWrites (s : State) (pipeB : Bool) (ws : List RegWrite) : State :=
  ws.foldl (fun (s : State) w => s.pipeWrite pipeB w) s

/-- Make writes in order. -/
def State.writeRegs (s : State) (ws : List RegWrite) : State := ws.foldl State.writeReg s

/-- Put a result on its way, in order of the cycle at which it arrives (R143). -/
def insertPending (p : Pending) : List Pending → List Pending
  | [] => [p]
  | q :: rest => if p.due < q.due then p :: q :: rest else q :: insertPending p rest

/-- Put a write on its way. -/
def State.later (s : State) (due : Nat) (w : RegWrite) : State :=
  { s with pend := insertPending { write := w, due := due } s.pend }

/-- Let every result that is due by cycle `now` arrive (R143). -/
def State.settle (s : State) (now : Nat) : State :=
  ({ s with pend := s.pend.filter fun p => now < p.due } : State).writeRegs
    ((s.pend.filter fun p => p.due ≤ now).map (·.write))

/-- The words of a thread's control line that `ok`, the predicates and FPSR stand in, in the numbering of its words in
error (R55, R372). -/
def controlWord (k : Nat) : Nat := 256 + k
def predWord : Nat := controlWord 10
def fpsrWord : Nat := controlWord 14

/-- Set bits of a thread's FPSR, which are sticky (R112). -/
def State.orFlags (s : State) (th flags : Nat) : State :=
  if flags == 0 then s else s.modThread th fun t => { t with fpsr := t.fpsr ||| BitVec.ofNat 32 flags }

/-! ## Fault records and queues -/

/-- The 32 bytes of a record as a number (R382). -/
def FaultRec.bits (r : FaultRec) : Nat :=
  packFields [(8, r.kind), (6, r.lane), (1, b2n r.halt), (1, 0), (16, r.buf), (12, r.tid), (20, r.pc), (32, r.scene),
    (20, r.rgnPc), (12, r.rgnCnt), (57, r.va), (7, 0), (32, r.detail), (32, r.time)]

/-- Bits [35:4] of the clock (R382). -/
def State.stamp (s : State) : Nat := s.clock / 16 % 2 ^ 32

/-- The pending events that a waiting operation waits for (R403). -/
def State.waitedEvents (s : State) (o : Op) : Nat := (s.die (coreDie o.core)).evPend.toNat &&& o.args.getD 0 0

/-- A `WAITEV` that waits on a die meets an event: it wakes with the events that are pending now, whatever becomes of them
afterwards (R403). What it returns stands after its mask and its timeout. -/
def State.wakeWaiter (s : State) (d : Nat) (o : Op) : Op :=
  match o.instr with
  | .waitev _ =>
    if !o.done && coreDie o.core == d && o.args.length == 2 && s.waitedEvents o != 0 then
      { o with args := o.args ++ [s.waitedEvents o] }
    else o
  | _ => o

/-- Set an event bit of a die; every waiter whose mask covers it wakes (R402, R403). -/
def State.setEvent (s : State) (d bit : Nat) : State :=
  let s := s.modDie d fun r => { r with evPend := r.evPend ||| BitVec.ofNat 32 (2 ^ bit) }
  { s with ops := s.ops.map (s.wakeWaiter d) }

/-- A live thread: launched or spawned and not exited (R388). -/
def Thread.live (t : Thread) : Bool := !t.exited && !t.gone

/-- Sillage captures an event of a context (R443, R444): `th` is the thread it belongs to, if any, and `own` is a label
that is being pushed or popped. The record goes to the ring of every die whose configuration selects it. An event with no thread
stands in a range while a live thread of the context has one open. The count in a record of type 10 follows the losses after it. -/
def State.sillage (s : State) (ctx type core a b : Nat) (th : Option Nat) (own : Option Word) : State :=
  (List.range 4).foldl (fun s d =>
    let r := s.die d
    let mode := r.silCfg.toNat % 4
    let value := r.silLabel.toNat % 2 ^ 32
    let mask := r.silLabel.toNat / 2 ^ 32
    let hit := fun (x : Word) => x.toNat &&& mask == value &&& mask
    let open1 := fun (t : Thread) => t.ranges.any hit
    let wanted := r.silCfg.toNat / 2 ^ 16 % 1024 == ctx &&
      ((mode == 1 && r.silOpen) ||
       (mode == 2 && match th with
         | some i => open1 (s.thread i) || (own.map hit).getD false || type == 8 || type == 9
         | none => s.threads.any fun t => t.live && (s.scene t.scene).st != .ended && (s.scene t.scene).ctx == ctx && open1 t))
    let cap := 2 ^ r.silLog2
    if !wanted then s
    else if r.silFull then
      (s.storeNum (r.silBase + 16 * ((r.silHead + 2 ^ 32 - 1) % cap) + 8) 4 (r.silLost + 1)).modDie d fun r =>
        { r with silLost := r.silLost + 1 }
    else
      let last := !bitOf r.silCfg.toNat 2 && r.silHead % cap == cap - 1
      let rec1 := if last then packFields [(8, 10), (8, 255), (10, ctx), (6, 0), (32, s.stamp), (32, 1), (32, 0)]
        else packFields [(8, type), (8, core), (10, ctx), (6, 0), (32, s.stamp), (32, a), (32, b)]
      (s.storeNum (r.silBase + 16 * (r.silHead % cap)) 16 rec1).modDie d fun r =>
        { r with silHead := (r.silHead + 1) % 2 ^ 32, silFull := last, silLost := if last then 1 else r.silLost }) s

/-- Room in the queue that a held record waits for (R383), and the address its next record takes. -/
def State.queueSlot (s : State) (q : Nat) : Option Nat :=
  if q < 1024 then
    let c := s.ctx q
    if c.fqBase == 0 || c.fqTail - c.fqHead ≥ 2 ^ c.fqLog2 then none
    else some (c.fqBase + 32 * (c.fqTail % 2 ^ c.fqLog2))
  else
    let d := s.die (q - 0x400)
    if d.supQBase == 0 || d.supQTail - d.supQHead ≥ 2 ^ d.supQLog2 then none
    else some (d.supQBase + 32 * (d.supQTail % 2 ^ d.supQLog2))

/-- Write one record into its queue at an address, and raise the queue's event (R383, R402). -/
def State.putRecord (s : State) (q addr : Nat) (r : FaultRec) : State :=
  let s := s.storeNum addr 32 r.bits
  if q < 1024 then (s.modCtx q fun c => { c with fqTail := c.fqTail + 1 }).setEvent (s.ctx q).homeDie 0
  else (s.modDie (q - 0x400) fun d => { d with supQTail := d.supQTail + 1 }).setEvent (q - 0x400) 1

/-- Post a held record in its queue, at an address (R383); Sillage records the posting (R444). -/
def State.postRecord (s : State) (h : HeldRec) (addr : Nat) : State :=
  (s.putRecord h.queue addr h.fault).sillage h.ctx 5 h.core h.fault.scene
    (packFields [(8, h.fault.kind), (12, h.fault.tid), (6, h.fault.lane)]) h.thread none

/-- Post the held records that their queues have room for, in order (R383). -/
def State.postHeld (s : State) : State :=
  s.held.foldl (fun s h =>
    match s.queueSlot h.queue with
    | some a => s.postRecord h a
    | none => { s with held := s.held ++ [h] }) { s with held := [] }

/-- Post a record to a queue (R383). -/
def State.post (s : State) (q ctx core : Nat) (th : Option Nat) (r : FaultRec) : State :=
  ({ s with held := s.held ++ [{ queue := q, fault := r, ctx := ctx, core := core, thread := th }] } : State).postHeld

/-- A record that no thread raised (R18, R382). -/
def State.blankRec (s : State) (kind va detail : Nat) : FaultRec :=
  { kind := kind, lane := 0x3F, halt := false, buf := 0xFFFF, tid := 0xFFF, pc := 0xFFFFF, scene := 0xFFFFFFFF
    rgnPc := 0xFFFFF, rgnCnt := 0xFFF, va := va, detail := detail, time := s.stamp }

/-- Post a record of a node or a unit in the name of a context (R18, R286), with the buffer of the access (R382). -/
def State.postUnit (s : State) (ctx die kind va detail : Nat) (buf : Nat := 0xFFFF) : State :=
  s.post (if ctx == supCtx then 0x400 + die else ctx) ctx 255 none { s.blankRec kind va detail with buf := buf }

/-- The policy of a context halts the fault kind (R377, R381). -/
def State.halts (s : State) (ctx kind : Nat) : Bool := ctx == supCtx || bitOf (s.ctx ctx).policy.toNat (kind - 1)

/-! ## Leaving and joining takes and reels -/

/-- Cores of takes and their bays: the bay of the core that holds the fewest takes, the lower number winning (R25). -/
def State.freeBay (s : State) (core : Nat) : Nat :=
  let load := fun b => (s.takes.filter fun t => t.core == core && t.bay == b && t.st != .ended && (s.scene t.scene).st == .resident).length
  [1, 2, 3].foldl (fun best b => if load b < load best then b else best) 0

/-- Set where each thread of a lane list stands. -/
def State.placeAll (s : State) (lanes : List (Nat × Nat)) (p : Place) : State :=
  lanes.foldl (fun s x => s.modThread x.2 fun t => { t with place := p }) s

/-- A new take of the lanes at an address (R25, R26). -/
def State.newTake (s : State) (core scene bay age : Nat) (pc : DWord) (lanes : List (Nat × Nat)) (last : Nat) : State :=
  let i := s.takes.length
  { s with takes := s.takes ++ [{ core := core, scene := scene, bay := bay, lanes := lanes, age := age, st := .waiting
                                  pc := pc, pos := 0, cnt := 0, last := last, holds := 0, hold := .free
                                  progress := 0, inStep := false, sleep := 0
                                  yielded := false, ready := false, started := false
                                  cont := false }] : State }.placeAll lanes (.take i)

/-- A thread leaves the take it stands in; a take left with no lanes ceases to exist (R27, R378). -/
def State.leaveTake (s : State) (th : Nat) : State :=
  match (s.thread th).place with
  | .take t =>
    (s.modTake t fun k =>
      let ls := k.lanes.filter fun x => x.2 != th
      { k with lanes := ls, st := if ls.isEmpty then .ended else k.st }).modThread th fun x => { x with place := .nowhere }
  | .reel r =>
    (s.modReel r fun k =>
      let ls := k.lanes.filter fun x => x.2 != th
      { k with lanes := ls, live := !ls.isEmpty }).modThread th fun x => { x with place := .nowhere }
  | .nowhere => s

/-- Insert into a lane list, in ascending colour. -/
def insertLane (x : Nat × Nat) : List (Nat × Nat) → List (Nat × Nat)
  | [] => [x]
  | y :: rest => if x.1 < y.1 then x :: y :: rest else y :: insertLane x rest

/-- Threads filed in a reel at a number. -/
def State.putInReel (s : State) (r : Nat) (lanes : List (Nat × Nat)) : State :=
  (s.modReel r fun k =>
    { k with lanes := lanes.foldl (fun ls x => insertLane x ls) k.lanes }).placeAll lanes (.reel r)

/-- A new reel on a core, when one of its 64 is free (R28). -/
def State.newReel (s : State) (core scene : Nat) (pc : DWord) (cont : Bool) : Option (Nat × State) :=
  if (s.reels.filter fun r => r.core == core && r.live && (s.scene r.scene).st != .suspended).length ≥ 64 then none
  else some (s.reels.length, { s with reels := s.reels ++ [{ core := core, scene := scene, pc := pc, lanes := []
                                                             reserved := [], age := 0, held := false, live := true
                                                             cont := cont }] })

/-- File threads of distinct colours, as one unit, into the first reel of the key that has their colours free, or into
one newly chained (R27). None when no reel takes them (R28). -/
def State.fileUnit (s : State) (core scene : Nat) (pc : DWord) (cont : Bool) (lanes : List (Nat × Nat)) : Option State :=
  let fits := fun (r : Reel) => r.live && r.core == core && r.scene == scene && r.pc == pc && r.cont == cont &&
    lanes.all fun x => !(r.lanes.any fun y => y.1 == x.1) && !(r.reserved.contains x.1)
  match (indices s.reels fits).head? with
  | some r => some (s.putInReel r lanes)
  | none => (s.newReel core scene pc cont).map fun (r, s) => s.putInReel r lanes

/-- The colour of a thread: its slot modulo 32 (R20). -/
def Thread.colour (t : Thread) : Nat := t.slot % 32

/-- File one thread at an address, or give it a take of its own when no reel is free (R23, R27, R89). DESIGN CHOICE (log
59): R23 says so of a spawned thread; a released waiter, a woken one or one that comes back gets a take of age 0 too. -/
def State.fileThread (s : State) (th : Nat) (pc : DWord) (cont : Bool) : State :=
  let t := s.thread th
  let core := (s.scene t.scene).core
  let s := s.modThread th fun t => { t with pc := pc, mid := cont, wpos := if cont then t.wpos else 0 }
  match s.fileUnit core t.scene pc cont [(t.colour, th)] with
  | some s => s
  | none =>
    let i := s.takes.length
    let s := s.newTake core t.scene (s.freeBay core) 0 pc [(t.colour, th)] 0
    if cont then s.modTake i fun k =>
      { k with pos := t.wpos, pc := BitVec.ofNat 64 (pc.toNat - 8 * (t.wpos + 1)), st := .suspended, cont := true } else s

/-! ## Taking a fault -/

/-- The record of a thread's fault (R382): `pc` is the address of the word, or of the slate. DESIGN CHOICE (log 85): a target below
the kernel's code has offset 0, and an offset or an address wider than its field keeps its low bits. -/
def State.threadRec (s : State) (th kind : Nat) (halt : Bool) (pc : DWord) (buf va detail : Nat) : FaultRec :=
  let t := s.thread th
  let c := s.scene t.scene
  { kind := kind, lane := t.colour, halt := halt, buf := buf, tid := t.tid, pc := pc.toNat - c.code, scene := c.sid.toNat
    rgnPc := t.rgnPc.toNat - c.code, rgnCnt := t.rgnCnt.toNat % 4096, va := va, detail := detail, time := s.stamp }

/-- The queue of a scene's faults: its context's, or the supervisor queue of its die (R381). -/
def State.sceneQueue (s : State) (sc : Nat) : Nat :=
  let c := s.scene sc
  if c.ctx == supCtx then 0x400 + coreDie c.core else c.ctx

/-- Stop a thread: it leaves its take at once and is parked or halted (R378). Inside a clause it keeps its place there
(R55): `pos` is the position of its word. -/
def State.stopThread (s : State) (th : Nat) (halt : Bool) (pc : DWord) (pos : Option Nat) : State :=
  (s.leaveTake th).modThread th fun t =>
    { t with pc := pc, mid := pos.isSome, wpos := pos.getD 0, parked := !halt, halted := halt, stays := false
             wo := none, stopped := s.clock, comp := none }

/-- TAKING A FAULT, the shared operation (R378, R381, R383). A fault of the given kind in a thread, at the word at `pc`
and clause position `pos`: the record goes to its queue, and the thread leaves its take, parked or halted under the
context's policy (halted always when `force`, R439, and on a Director, R381). -/
def State.takeFault (s : State) (th kind : Nat) (pc : DWord) (pos : Option Nat) (buf va detail : Nat)
    (force : Bool := false) : State :=
  let sc := (s.thread th).scene
  let halt := force || s.halts (s.scene sc).ctx kind
  let r := s.threadRec th kind halt pc buf va detail
  (s.stopThread th halt pc pos).post (s.sceneQueue sc) (s.scene sc).ctx (s.scene sc).core (some th) r

/-- A companion of another thread's record: it leaves its take and enters the same state, with no record (R379). -/
def State.takeCompanion (s : State) (th lead : Nat) (pc : DWord) (pos : Option Nat) : State :=
  (s.stopThread th (s.thread lead).halted pc pos).modThread th fun t => { t with comp := some lead }

/-- The cast a thread is a member of (R42). -/
def State.castOf (s : State) (th : Nat) : Option Nat :=
  (indices s.casts fun c => c.live && c.members.any fun m => m.thread == th).head?

/-- A thread's membership in a cast. -/
def Cast.member (c : Cast) (th : Nat) : Option Member := c.members.find? fun m => m.thread == th

/-- A thread waits at a barrier, or for its earlier phase (R44, R178). -/
def State.atBarrier (s : State) (th : Nat) : Bool :=
  match s.castOf th with
  | none => false
  | some i => match (s.cast i).member th with
    | some m => m.waiting.isSome || m.again.isSome
    | none => false

/-! ## What happens before what (R83)

A write that other path classes may not see yet is held with the agents that it happens-before (R97). A release gives
what its agent knows a mark, and an acquire makes the writes of a mark known. -/

/-- An acquire of a thread drops the core's RC lines from its L1 (R83). -/
def State.acquireL1 (s : State) (core : Nat) : State := { s with l1 := s.l1.filter fun x => x.core != core || x.ip }

/-- The scene whose knowledge an agent shares (R99). -/
def State.agentScene (s : State) : Agent → Option Nat
  | .thread i => some (s.thread i).scene
  | .op i => some (s.op i).scene
  | .scene i => some i
  | _ => none

/-- The agent knows the write: it happens-before what the agent does next. -/
def State.agentKnows (s : State) (a : Agent) (y : OldGranule) : Bool :=
  y.knows.contains a || (s.agentScene a).any fun c => y.knows.contains (.scene c)

/-- Put an element into a list without repeats. -/
def insertNew {α : Type} [BEq α] (x : α) (xs : List α) : List α := if xs.contains x then xs else xs ++ [x]

/-- A release: the writes of a set get a mark. None where the set is empty. -/
def State.markOlds (s : State) (p : OldGranule → Bool) : Option Nat × State :=
  if s.olds.any p then
    (some s.markCtr, { s with markCtr := s.markCtr + 1
                              olds := s.olds.map fun y => if p y then { y with marks := y.marks ++ [s.markCtr] } else y })
  else (none, s)

/-- An acquire: an agent learns of the writes of a mark. -/
def State.learn (s : State) (a : Agent) (mark : Nat) : State :=
  { s with olds := s.olds.map fun y => if y.marks.contains mark then { y with knows := insertNew a y.knows } else y }

/-! ## Casts -/

/-- The cast core number that a core holds (R63). -/
def Cast.numOf (c : Cast) (core : Nat) : Option Nat := (c.nums.find? fun x => x.2 == core).map Prod.fst

/-- The core that holds a cast core number. -/
def Cast.coreOf (c : Cast) (num : Nat) : Option Nat := (c.nums.find? fun x => x.1 == num).map Prod.snd

/-- Give a core a cast core number: the lowest that no core holds, with its free-slot counters at 4 (R63, R236). -/
def Cast.giveNum (c : Cast) (core : Nat) : Option Cast :=
  if (c.numOf core).isSome then some c
  else match (List.range 16).find? fun n => (c.coreOf n).isNone with
    | none => none
    | some n =>
      some { c with nums := c.nums ++ [(n, core)]
                    free := (c.free.filter fun x => x.1 / 16 != n && x.1 % 16 != n) ++
                      ((List.range 16).flatMap fun r => if r == n then [(17 * n, 4)] else [(16 * n + r, 4), (16 * r + n, 4)]) }

/-- A free-slot counter (R236). -/
def Cast.freeOf (c : Cast) (from1 dst : Nat) : Nat := ((c.free.find? fun x => x.1 == 16 * from1 + dst).map Prod.snd).getD 4

/-- Set a free-slot counter (R236). -/
def Cast.setFree (c : Cast) (from1 dst n : Nat) : Cast :=
  { c with free := (c.free.filter fun x => x.1 != 16 * from1 + dst) ++ [(16 * from1 + dst, n)] }

/-- `JOIN` of one thread (R42, R177): the rank, or all ones with nothing changed. -/
def State.joinCast (s : State) (th : Nat) (key : Word) : Word × State :=
  let sc := s.scene (s.thread th).scene
  let die := coreDie sc.core
  let found := (indices s.casts fun c => c.live && c.ctx == sc.ctx && c.die == die && c.key == key).head?
  if key == 0xFFFFFFFF || (s.castOf th).isSome then (0xFFFFFFFF, s)
  else match found with
    | none =>
      if (s.casts.filter fun c => c.live && c.die == die).length ≥ 256 then (0xFFFFFFFF, s)
      else
        let c : Cast := { ctx := sc.ctx, die := die, key := key, live := true, rankCtr := 1, phase := 0
                          members := [{ thread := th, rank := 0, since := 0, arrived := none, waiting := none
                                        again := none, swap := false, pack := false, mark := none }]
                          nums := [], free := [] }
        (0, { s with casts := s.casts ++ [(c.giveNum sc.core).getD c] })
    | some i =>
      let c := s.cast i
      match c.giveNum sc.core with
      | none => (0xFFFFFFFF, s)
      | some c' =>
        if c.rankCtr ≥ 0xFFFFFFFF then (0xFFFFFFFF, s)
        else
          let since := if c.members.any fun m => m.arrived == some c.phase then c.phase + 1 else c.phase
          (BitVec.ofNat 32 c.rankCtr,
           s.modCast i fun _ => { c' with rankCtr := c.rankCtr + 1
                                          members := c.members ++ [{ thread := th, rank := c.rankCtr, since := since
                                                                     arrived := none, waiting := none, again := none
                                                                     swap := false, pack := false, mark := none }] })

/-- Renumber the members 0, 1, 2 … in the order of their ranks (R47). -/
def compactRanks (ms : List Member) : List Member :=
  ms.map fun m => { m with rank := (ms.filter fun x => x.rank < m.rank).length }

/-- Whether the current phase is complete: every member awaited in it has arrived (R44). -/
def Cast.complete (c : Cast) : Bool :=
  !c.members.isEmpty && c.members.all fun m => c.phase < m.since || m.arrived == some c.phase

/-- No member is awaited in the current phase (R44, R45). -/
def Cast.unawaited (c : Cast) : Bool := c.members.all fun m => c.phase < m.since

/-- A member records an arrival for the phase it is awaited in (R44, R45). -/
def Cast.arrive (c : Cast) (th : Nat) (swap pack wait : Bool) (mark : Option Nat) : Cast :=
  { c with members := c.members.map fun m => if m.thread == th then
      { m with arrived := some (max c.phase m.since), waiting := if wait then some (max c.phase m.since) else none
               again := none, swap := swap, pack := pack, mark := mark } else m }

/-- A member arrives: its arrival is a release (R46). -/
def State.arrive (s : State) (i th : Nat) (swap pack wait : Bool) : State :=
  let q := s.markOlds (s.agentKnows (.thread th))
  q.2.modCast i fun c => c.arrive th swap pack wait q.1

/-- Swap the exchange banks of a scene (R47, R72). -/
def Scene.swapBanks (c : Scene) : Scene := { c with front := !c.front }

/-- Release a waiter: it is filed at the address after its `BAR` (R46). One that is halted or whose scene is away keeps
that address until it is resumed or restored (R48, R408). -/
def State.releaseWaiter (s : State) (th : Nat) : State :=
  let t := s.thread th
  if t.halted || t.parked || (s.scene t.scene).st != .resident then s
  else s.fileThread th t.pc false

/-- The release of a waiter is an acquire of the arrivals of its phase (R46, R83). -/
def State.passBarrier (s : State) (marks : List Nat) (th : Nat) : State :=
  marks.foldl (fun (s : State) m => s.learn (.thread th) m) (s.acquireL1 (s.scene (s.thread th).scene).core)

/-- The phases of the members after the current one has completed. A phase in which nobody was awaited releases no
waiter (R44): a member that waits in it without an arrival waits for the next (DESIGN CHOICE, log 62). -/
def Cast.nextPhase (c : Cast) : Cast :=
  let pack := c.members.any fun m => m.arrived == some c.phase && m.pack
  let ms := c.members.map fun m =>
    if m.arrived == some c.phase then
      { m with arrived := none, waiting := none, again := none, swap := false, pack := false, mark := none }
    else if m.waiting == some c.phase then { m with waiting := if c.unawaited then some (c.phase + 1) else none } else m
  { c with phase := c.phase + 1, members := if pack then compactRanks ms else ms
           rankCtr := if pack then ms.length else c.rankCtr }

/-- Complete phases while the current one is complete (R44, R47): banks swap and ranks are renumbered first, as the
arrivals of the phase ask, then every waiting member is released, and arrivals made again count toward the next phase. -/
def State.runPhases (s : State) (i : Nat) : Nat → State
  | 0 => s
  | fuel + 1 =>
    let c := s.cast i
    if !c.live || !c.complete then s
    else
      let here := c.members.filter fun m => m.arrived == some c.phase
      let again := here.filter fun m => m.again.isSome
      let out := if c.unawaited then [] else c.members.filter fun m => m.waiting == some c.phase && m.again.isNone
      let scs := (c.members.map fun m => (s.thread m.thread).scene).eraseDups
      let s := if here.any (·.swap) then scs.foldl (fun s x => s.modScene x Scene.swapBanks) s else s
      let s := s.modCast i Cast.nextPhase
      let s := out.foldl (fun (s : State) m => s.passBarrier (here.filterMap (·.mark)) m.thread) s
      let s := out.foldl (fun s m => s.releaseWaiter m.thread) s
      let s := again.foldl (fun (s : State) m => match m.again with
        | some (swap, pk, wait) =>
          let s := (s.passBarrier (here.filterMap (·.mark)) m.thread).arrive i m.thread swap pk wait
          if wait then s else s.releaseWaiter m.thread
        | none => s) s
      s.runPhases i fuel

/-- A thread leaves its cast: its arrival is withdrawn with what it asks for, and a cast without members is deleted (R43,
R44). -/
def State.leaveCast (s : State) (th : Nat) : State :=
  match s.castOf th with
  | none => s
  | some i =>
    let s := s.modCast i fun c =>
      let ms := c.members.filter fun m => m.thread != th
      { c with members := ms, live := !ms.isEmpty }
    s.runPhases i (s.threads.length + 2)

/-! ## The ends of threads and scenes -/

/-- The scenes of a context that stand suspended on a core. -/
def State.suspendedOn (s : State) (core ctx : Nat) : List Nat :=
  indices s.scenes fun c => c.st == .suspended && c.core == core && c.ctx == ctx

/-- A scene ends (R24): its resources are free, and a shadow entry that held nothing else (R395). What its stores hold stands
there until the core is given to another scene, and its node completes in TASK_NODE_COMPLETE. -/
def State.endScene (s : State) (sc : Nat) : State :=
  let c := s.scene sc
  let last := c.st == .suspended && s.suspendedOn c.core c.ctx == [sc] && s.shadow.get c.core == c.ctx + 1
  { s.modScene sc fun c => { c with st := .ended, groups := [] } with
    shadow := if last then s.shadow.set c.core 0 else s.shadow
    takes := s.takes.map fun t => if t.scene == sc then { t with st := .ended, lanes := [] } else t
    reels := s.reels.map fun r => if r.scene == sc then { r with live := false, lanes := [] } else r }

/-- A thread that has exited with every cue flag at zero leaves its slot empty; the scene whose slots are all empty
ends (R24). -/
def State.slotEmpty (s : State) (th : Nat) : State :=
  let t := s.thread th
  if t.exited && !t.gone && t.cue.toList.all (· == 0) then
    let s := s.modThread th fun t => { t with gone := true }
    let c := s.scene t.scene
    if c.threads.all fun i => (s.thread i).gone then s.endScene t.scene else s
  else s

/-- `EXIT` of one thread (R24, R43). -/
def State.exitThread (s : State) (th : Nat) : State :=
  (((s.leaveTake th).modThread th fun t => { t with exited := true, place := .nowhere }).leaveCast th).slotEmpty th

/-- A stopped thread: parked, in a WO wait, or halted (R388). -/
def Thread.isStopped (t : Thread) : Bool := t.live && (t.parked || t.halted || t.wo.isSome)

/-- The condition of the READY state (R390): no thread in a fault park or WO wait, and one thread not halted. -/
def State.sceneReady (s : State) (sc : Nat) : Bool :=
  let ts := ((s.scene sc).threads.map s.thread).filter Thread.live
  ts.all (fun t => !t.parked && (t.wo.isNone || t.halted)) && ts.any fun t => !t.halted

/-- Evaluate the READY condition of a scene that is away (R390). -/
def State.evalReady (s : State) (sc : Nat) : State :=
  let c := s.scene sc
  if c.st == .swapped && s.sceneReady sc then
    { s.modScene sc fun c => { c with st := .ready, seq := s.seqCtr } with seqCtr := s.seqCtr + 1 : State }.setEvent
      (if c.ctx == supCtx then coreDie c.core else (s.ctx c.ctx).homeDie) 5
  else if c.st == .ready && !s.sceneReady sc then s.modScene sc fun c => { c with st := .swapped }
  else s

/-! ## Asynchronous records (R380) -/

/-- An asynchronous record halts a thread (R380): at once where the thread stands still, else at its next clause
boundary. A thread that waits at a barrier or in a WO wait stays there. -/
def State.haltStanding (s : State) (th : Nat) : State :=
  let t := s.thread th
  if t.exited || t.gone then s
  else if t.parked || t.halted || t.wo.isSome || s.atBarrier th then
    s.modThread th fun x => { x with halted := true, stays := x.stays || (!x.parked && !x.halted), haltNext := false
                                     stopped := if t.parked || t.halted || t.wo.isSome then x.stopped else s.clock }
  else if t.place == .nowhere && !t.mid then
    s.modThread th fun t => { t with halted := true, haltNext := false, stopped := s.clock }
  else s.modThread th fun t => { t with haltNext := true }

/-- An asynchronous record halts a thread; a scene that is READY by no other thread becomes SWAPPED again (R380, R390). -/
def State.haltAsync (s : State) (th : Nat) : State := (s.haltStanding th).evalReady (s.thread th).scene

/-- An asynchronous record in a thread's name (R380): it stops nothing, or under the halt policy it halts the thread, if
that still lives. -/
def State.asyncFault (s : State) (th kind : Nat) (pc : DWord) (buf va detail : Nat) : State :=
  let t := s.thread th
  let halt := t.live && s.halts (s.scene t.scene).ctx kind
  let s := s.post (s.sceneQueue t.scene) (s.scene t.scene).ctx (s.scene t.scene).core (some th)
    (s.threadRec th kind halt pc buf va detail)
  if halt then s.haltAsync th else s

end Sys2Proof.Machine
end

