-- ==== Sys2Proof/Machine/Formula.lean ====
section
/-! DEFINITION. Formulas: the image and its checks (R298 to R300), the cell grid and its operations (R296, R297), the
shipped formulas (R313), and a beat through a binding's direction (R293, R301). -/

namespace Sys2Proof.Machine

/-! ## The image (R298, R299) -/

/-- Field [hi:lo] of an image. -/
abbrev Image := List Byte

/-- A number of `n` bytes of an image. -/
def imgNum (img : Image) (a n : Nat) : Nat := leNat ((List.range n).map fun i => img.getD (a + i) 0)

/-- The header as one number. -/
def imgHeader (img : Image) : Nat := imgNum img 0 64

def imgSize (h : Nat) : Nat := bitsOf h 47 32
def imgWrite (h : Nat) : Bool := bitOf h 56
def imgStateful (h : Nat) : Bool := bitOf h 57
def imgInW (h : Nat) : Nat := bitsOf h 67 64 + 1
def imgOutW (h : Nat) : Nat := bitsOf h 71 68 + 1
def imgConsts (h : Nat) : Nat := bitsOf h 77 72
def imgTabs (h : Nat) : Nat := bitsOf h 82 78
def imgFormId (h : Nat) : Nat := bitsOf h 127 96
def imgKeyId (h : Nat) : Nat := bitsOf h 135 128

/-- A cell's record (R299). -/
structure Cell where
  op   : Nat
  w    : Nat
  sgn  : Bool
  satf : Bool
  src  : List Nat
  out  : Nat
  cidx : Nat
  tidx : Nat
  cfg  : Nat
  rsv  : Bool
  deriving DecidableEq, Repr, Inhabited

/-- Cell c of an image. -/
def imgCell (img : Image) (c : Nat) : Cell :=
  let r := imgNum img (0x40 + 16 * c) 16
  { op := bitsOf r 4 0, w := bitsOf r 6 5, sgn := bitOf r 7, satf := bitOf r 8
    src := [bitsOf r 17 10, bitsOf r 25 18, bitsOf r 33 26], out := bitsOf r 38 34, cidx := bitsOf r 45 40
    tidx := bitsOf r 49 46, cfg := bitsOf r 79 64
    rsv := bitOf r 9 || bitOf r 39 || bitsOf r 63 50 != 0 || bitsOf r 127 80 != 0 }

/-- The neighbour that a source names: none off the grid; `some none` for a source that is no neighbour (R296). -/
def neighbour (c src : Nat) : Option (Option Nat) :=
  match src % 16 with
  | 1 => if c < 8 then none else some (some (c - 8))
  | 2 => if c % 8 == 7 then none else some (some (c + 1))
  | 3 => if 56 ≤ c then none else some (some (c + 8))
  | 4 => if c % 8 == 0 then none else some (some (c - 1))
  | _ => some none

/-- The bits of CFG that an operation uses, and whether CFG and W suit it (R297). -/
def cfgOk (x : Cell) : Bool :=
  let used := match x.op with
    | 2 | 3 => 0x0001
    | 4 | 5 => if bitOf x.cfg 15 then 0x803F else 0x8000
    | 12 => 0x0007
    | 14 => 0x003F
    | 15 => 0x1FFF
    | 17 => 0x0003
    | 20 => if 8 ≤ x.cfg % 16 then 0x000F else 0x007F
    | 21 => 0x000F
    | _ => 0
  let width := 8 * 2 ^ x.w
  (x.cfg &&& used) == x.cfg &&
    match x.op with
    | 2 | 3 => x.w == 2
    | 12 => x.cfg % 8 < 6
    | 13 => x.w < 2
    | 14 | 15 => 1 ≤ x.cfg % 64 && x.cfg % 64 ≤ width
    | 20 => x.cfg % 16 < 10
    | 21 => x.cfg % 16 ≤ 8
    | _ => true

/-- An order in which each cell follows the neighbours it reads: up to 64 passes, each taking the cells that are free
(R296). -/
def cellOrder (cells : List Cell) : Nat → List Nat → List Nat
  | 0, done => done
  | n + 1, done =>
    let free := (List.range 64).filter fun c =>
      !done.contains c && ((cells.getD c default).src.all fun x => match neighbour c x with
        | some (some d) => done.contains d
        | _ => true)
    if free.isEmpty then done else cellOrder cells n (done ++ free)

/-- The cells that a path from an output port reaches. -/
def cellReach (cells : List Cell) : Nat → List Nat → List Nat
  | 0, seen => seen
  | n + 1, seen =>
    let more := (seen.flatMap fun c => (cells.getD c default).src.filterMap fun x => (neighbour c x).join).eraseDups
    let new := more.filter fun c => !seen.contains c
    if new.isEmpty then seen else cellReach cells n (seen ++ new)

/-- A cell uses state (R296). -/
def usesState (x : Cell) : Bool := x.op == 19 || x.src.any fun k => k % 16 == 8

/-- The image is valid but for its signature (R300). -/
def imageValid (img : Image) : Bool :=
  let h := imgHeader img
  let cells := (List.range 64).map (imgCell img)
  let order := cellOrder cells 64 []
  let seen := cellReach cells 64 (indices0 cells)
  bitsOf h 31 0 == 0x46444341 && imgSize h == 0x440 + 16 * imgConsts h + 512 * imgTabs h + 64 && imgSize h ≤ 16384 &&
    bitsOf h 55 48 == 1 && bitsOf h 63 58 == 0 && imgTabs h ≤ 16 && bitsOf h 95 83 == 0 && bitsOf h 511 136 == 0 &&
    (cells.zipIdx.all fun (x, c) =>
      x.op < 24 && x.w < 3 && !x.rsv && x.out ≤ 16 && cfgOk x &&
        (x.src.all fun k => k % 16 < 9 && (neighbour c k).isSome && (k % 16 != 6 || x.cidx < imgConsts h)) &&
        (x.op != 13 || x.tidx < imgTabs h) &&
        (seen.contains c || (x.op == 18 && x.src.all (fun k => k % 16 == 0) && x.out == 0))) &&
    order.length == 64 &&
    ((List.range 16).all fun p =>
      (cells.filter fun x => x.out == p + 1).length == if p < imgOutW h then 1 else 0) &&
    imgStateful h == cells.any usesState
where
  /-- The cells that drive a port. -/
  indices0 (cells : List Cell) : List Nat := (cells.zipIdx.filter fun x => x.1.out != 0).map Prod.snd

/-! ## The operations of a cell (R297) -/

/-- Lane i of W bits. -/
def laneOf (w x i : Nat) : Nat := x / 2 ^ (w * i) % 2 ^ w

/-- A 128-bit value from its lanes. -/
def ofLanes (w : Nat) (f : Nat → Nat) : Nat :=
  (List.range (128 / w)).foldl (fun acc i => acc + f i % 2 ^ w * 2 ^ (w * i)) 0

/-- The float formats of the conversion modes: source and target. -/
def cvtFmts (mode : Nat) : Fmt × Fmt :=
  match mode with
  | 0 => (bf16, f32)
  | 1 => (f32, bf16)
  | 2 => (f16, f32)
  | 3 => (f32, f16)
  | 4 => (e4m3, f32)
  | 5 => (f32, e4m3)
  | 6 => (e5m2, f32)
  | _ => (f32, e5m2)

/-- CVT (R297): a widening mode reads a part of X, a narrowing mode writes a part of R and takes the rest from Y. -/
def cvtCell (cfg x y : Nat) : Nat :=
  let mode := cfg % 16
  let part := bitsOf cfg 6 4
  if mode == 8 then ofLanes 32 fun i => (f32.round 0 (intFVal (sextN (laneOf 32 x i) 32))).1
  else if mode == 9 then ofLanes 32 fun i => (floatToInt 0 true 32 (f32.val (laneOf 32 x i))).1
  else
    let f := cvtFmts mode
    if mode % 2 == 0 then
      ofLanes 32 fun i => (f32.round 0 (f.1.val (laneOf f.1.width x (4 * part + i)))).1
    else
      let n := f.2.width
      ofLanes n fun i =>
        if 4 * part ≤ i && i < 4 * part + 4 then (f.2.round 0 (f32.val (laneOf 32 x (i - 4 * part)))).1
        else laneOf n y i

/-- The five T2 codes of a T5 byte (R297, R123). -/
def tritCodes (b : Nat) : Nat :=
  if 243 ≤ b then 0b1010101010
  else (List.range 5).foldl (fun acc d =>
    acc + (match b / 3 ^ d % 3 with
      | 0 => 0
      | 1 => 1
      | _ => 3) * 4 ^ d) 0

/-- The result of a cell from its operands; `prev` is its X of the previous beat, and `table` gives the entries of its
table. -/
def cellOp (c : Cell) (table : Nat → Nat) (prev x y z : Nat) : Nat :=
  let w := 8 * 2 ^ c.w
  let n := 128 / w
  let v := fun (a i : Nat) => intVal c.sgn w (laneOf w a i)
  let fit := fun (r : Int) => (intRes c.satf c.sgn w r).1
  let h := c.cfg % 2
  let mul16 := fun i => intVal c.sgn 16 (laneOf 16 x (2 * i + h)) * intVal c.sgn 16 (laneOf 16 y (2 * i + h))
  let amount := fun i => if bitOf c.cfg 15 then c.cfg % 64 else laneOf w y i
  match c.op with
  | 0 => ofLanes w fun i => fit (v x i + v y i)
  | 1 => ofLanes w fun i => fit (v x i - v y i)
  | 2 => ofLanes w fun i => fit (mul16 i)
  | 3 => ofLanes w fun i => fit (v z i + mul16 i)
  | 4 => ofLanes w fun i => if w ≤ amount i then 0 else laneOf w x i * 2 ^ amount i
  | 5 => ofLanes w fun i => wrapI (v x i / ((2 ^ min (amount i) w : Nat) : Int)) w
  | 6 => x &&& y
  | 7 => x ||| y
  | 8 => x ^^^ y
  | 9 => ofLanes w fun i => wrapI (min (v x i) (v y i)) w
  | 10 => ofLanes w fun i => wrapI (max (v x i) (v y i)) w
  | 11 => ofLanes w fun i => if laneOf w z i != 0 then laneOf w x i else laneOf w y i
  | 12 => ofLanes w fun i =>
    let a := v x i
    let b := v y i
    if (match c.cfg % 8 with
      | 0 => a == b
      | 1 => a != b
      | 2 => decide (a < b)
      | 3 => decide (a ≤ b)
      | 4 => decide (b < a)
      | _ => decide (b ≤ a)) then 2 ^ w - 1 else 0
  | 13 => ofLanes w fun i => table (laneOf w x i % 256)
  | 14 =>
    let f := c.cfg % 64
    ((List.range (2 * n)).foldl (fun acc i =>
      acc + (if i < n then laneOf w x i else laneOf w y (i - n)) % 2 ^ f * 2 ^ (f * i)) 0) % 2 ^ 128
  | 15 =>
    let f := c.cfg % 64
    ofLanes w fun i => wrapI (intVal c.sgn f (x / 2 ^ (bitsOf c.cfg 12 6 + f * i))) w
  | 16 => ofLanes w fun i => ((List.range w).filter fun k => bitOf (laneOf w x i) k).length
  | 17 =>
    let xs := (List.range n).map (v x)
    match c.cfg % 4 with
    | 0 => fit (v z 0 + xs.sum)
    | 1 => wrapI (xs.foldl max (v z 0)) w
    | 2 => wrapI (xs.foldl min (v z 0)) w
    | _ => ((List.range n).map (laneOf w x)).foldl (· ^^^ ·) (laneOf w z 0)
  | 18 => x
  | 19 => prev
  | 20 => cvtCell c.cfg x y
  | 21 => ofLanes 16 fun i => tritCodes (laneOf 8 x (c.cfg % 16 + i))
  | 22 => ofLanes w fun i => wrapI (clampI (v x i) (v y i) (v z i)) w
  | _ => ofLanes w fun i => (List.range (w / 8)).foldl (fun acc k =>
      acc + laneOf 8 (laneOf w x i) (w / 8 - 1 - k) * 2 ^ (8 * k)) 0

/-- One beat through the grid: the output bytes and the state after it, R of each cell and then X of each cell. -/
def gridBeat (img : Image) (params : List Word) (state : List Nat) (input : List Byte) : List Byte × List Nat :=
  let h := imgHeader img
  let cells := (List.range 64).map (imgCell img)
  let run := (cellOrder cells 64 []).foldl (fun (acc : List Nat × List Nat) c =>
    let x := cells.getD c default
    let val := fun (k : Nat) =>
      match k % 16 with
      | 5 => if k / 16 < imgInW h then leNat ((input.drop (16 * (k / 16))).take 16) else 0
      | 6 => imgNum img (0x440 + 16 * x.cidx) 16
      | 7 => (params.getD (k / 16 % 8) 0).toNat * 0x1000000010000000100000001
      | 8 => state.getD c 0
      | _ => match neighbour c k with
        | some (some d) => acc.1.getD d 0
        | _ => 0
    let op := fun i => val (x.src.getD i 0)
    let table := fun i => imgNum img (0x440 + 16 * imgConsts h + 512 * x.tidx + 2 * i) 2
    (acc.1.set c (cellOp x table (state.getD (64 + c) 0) (op 0) (op 1) (op 2)), acc.2.set c (op 0)))
    (List.replicate 64 0, List.replicate 64 0)
  ((List.range (imgOutW h)).flatMap fun p =>
    leBytes 16 (((cells.zipIdx.find? fun y => y.1.out == p + 1).map fun y => run.1.getD y.2 0).getD 0),
    run.1 ++ run.2)

/-! ## The shipped formulas (R313) -/

/-- One T5 column of 26 bytes as a T2 column of 32. -/
def t5Column (col : List Byte) : List Byte :=
  let codes := ((List.range 25).map fun i => tritCodes (col.getD i 0).toNat)
  let last := (col.getD 25 0).toNat
  let low := codes.zipIdx.foldl (fun acc x => acc + x.1 * 2 ^ (10 * x.2)) 0
  leBytes 32 (low + (if 27 ≤ last then 0b101010 else tritCodes last) * 2 ^ 250)

/-- CRC-32 with polynomial 0x04C1_1DB7 reflected (R313). -/
def crc32 (bs : List Byte) : Nat :=
  (bs.foldl (fun crc b =>
    (List.range 8).foldl (fun c _ => if c % 2 == 1 then c / 2 ^^^ 0xEDB88320 else c / 2) (crc ^^^ b.toNat))
    0xFFFFFFFF) ^^^ 0xFFFFFFFF

/-- The 16-bit elements of a byte list. -/
def halves (bs : List Byte) : List Nat := (List.range (bs.length / 2)).map fun i => imgNum bs (2 * i) 2

/-- `bf16q8`: the row and its scale. -/
def q8Row (bs : List Byte) : List Byte × Nat :=
  let xs := (halves bs).map bf16.val
  let m := xs.foldl (fun (m : Nat × Nat) x => match x with
    | .fin _ n d => if m.1 * d < n * m.2 then (n, d) else m
    | _ => m) (0, 1)
  let s := (f32.round 0 (.fin false m.1 (m.2 * 127))).1
  let scale := match f32.val s with
    | .fin _ n d => (n, d)
    | _ => (0, 1)
  (xs.map fun x => BitVec.ofInt 8 (match x with
    | .nan => 0
    | .inf neg => if neg then -127 else 127
    | .fin neg n d => if scale.1 == 0 then 0 else clampI (roundInt 0 neg (n * scale.2) (d * scale.1)).1 (-127) 127), s)

/-- A shipped formula by its FORMID: the output of a beat and its side word. -/
def shippedBeat (formId p0 : Nat) (input : List Byte) : Option (List Byte × Option Nat) :=
  let scaled := fun (x : FVal) => (x.mul (f32.val p0)).1
  match formId with
  | 0x00010001 => some ((List.range 8).flatMap fun c => t5Column ((input.drop (26 * c)).take 26), none)
  | 0x00010002 => let r := q8Row input; some (r.1, some r.2)
  | 0x00010003 => some (input, some (crc32 input))
  | 0x00010004 => some ((halves input).map fun x => BitVec.ofNat 8 (e4m3.round 0 (scaled (bf16.val x))).1, none)
  | 0x00010005 => some (input.flatMap fun x => leBytes 2 (bf16.round 0 (scaled (e4m3.val x.toNat))).1, none)
  | _ => none

/-! ## A direction of a binding -/

/-- The output of one beat that an Accord processes: the bytes, the side word, and the direction after it. -/
def FormDir.beat (f : FormDir) (accord : Nat) (input : List Byte) : List Byte × Option Nat × FormDir :=
  let h := imgHeader f.image
  let f1 := { f with
    beats := f.beats + 1
    streams := if imgStateful h then f.streams else insertNat accord f.streams }
  match (if imgKeyId h == 0 then shippedBeat (imgFormId h) (f.params.toList.getD 0 0).toNat input else none) with
  | some r => (r.1, r.2, f1)
  | none =>
    let st := ((f.cells.find? fun c => c.1 == accord).map Prod.snd).getD (List.replicate 128 0)
    let r := gridBeat f.image f.params.toList st input
    (r.1, none,
      if imgStateful h then { f1 with cells := (f.cells.filter fun c => c.1 != accord) ++ [(accord, r.2)] } else f1)

/-- Requester and memory bytes of a beat of a direction (R293). -/
def FormDir.sizes (f : FormDir) (write : Bool) : Nat × Nat :=
  let h := imgHeader f.image
  if write then (16 * imgInW h, 16 * imgOutW h) else (16 * imgOutW h, 16 * imgInW h)

/-- RB and MB of a binding (R293). -/
def Binding.sizes (b : Binding) : Nat × Nat :=
  match b.rd, b.wr with
  | some f, _ => f.sizes false
  | none, some f => f.sizes true
  | none, none => (16, 16)

/-- A direction of the binding keeps state (R308). -/
def Binding.stateful (b : Binding) : Bool :=
  (b.rd.map fun f => imgStateful (imgHeader f.image)).getD false ||
    (b.wr.map fun f => imgStateful (imgHeader f.image)).getD false

/-- The directions of a binding that are bound. -/
def Binding.dirs (b : Binding) : List FormDir := b.rd.toList ++ b.wr.toList

/-- A page type that R311 allows for a formula of these widths. -/
def typeAllowed (h cm : Nat) : Bool := cm == 0 || cm == 1 || (cm == 2 && imgInW h == 8 && imgOutW h == 8)

/-- A formula of a binding forbids a page type for its footprint and its requester form (R311). -/
def Binding.forbids (b : Binding) (type : Nat) : Bool := b.dirs.any fun f => !typeAllowed (imgHeader f.image) type

end Sys2Proof.Machine
end

