-- ==== Sys2Proof/Machine/Order.lean ====
section
/-! DEFINITION. Agents and scopes (R75, R76), and data that crosses between path classes (R95 to R99): until a write is
ordered before a reader of another class, each 16-byte granule of it may still read as its bytes from before the write.
Writes are held here with those bytes. SC pages (R80), WO lines (R88), IP pages (R93) and scratchpad lines that the write
made full (R98) need no `FENCEX`. -/

namespace Sys2Proof.Machine

/-! ## Agents and scopes -/

/-- The die on which a node's engine works: that of a tile task's array, or that of its unit (R283, R285). -/
def NodeRun.place (n : NodeRun) : Nat := match n.kind, n.core with
  | 2, some k => coreDie k
  | _, _ => n.unit

/-- The dies of an agent (R76): its core's, its node's, or those whose stacks the Accords of a binding serve (R291). -/
def State.agentDies (s : State) : Agent → List Nat
  | .thread i => [coreDie (s.scene (s.thread i).scene).core]
  | .op i => [coreDie (s.op i).core]
  | .scene i => [coreDie (s.scene i).core]
  | .node i => [(s.nodes.getD i default).place]
  | .accord h => match s.bindings.find? fun b => b.handle == h && (b.rd.isSome || b.wr.isSome) with
    | some b => if b.icls == 1 || b.icls == 2 then [b.stk / 2] else List.range 4
    | none => []
  | .ext => []

/-- The threads in the take of an agent at this moment, which scope take covers (R76). -/
def State.team (s : State) : Agent → List Nat
  | .thread i => match (s.thread i).place with
    | .take t => (s.take t).lanes.map Prod.snd
    | _ => []
  | _ => []

/-- A scope around an agent holds another (R76). -/
def State.inScope (s : State) (scope : Nat) (around a : Agent) : Bool :=
  match scope with
  | 0 => match around, a with
    | .thread i, .thread j => i == j || (match (s.thread i).place with
      | .take _ => (s.thread i).place == (s.thread j).place
      | _ => false)
    | _, _ => around == a
  | 1 => (s.agentScene around).isSome && s.agentScene around == s.agentScene a
  | 2 => (s.agentDies around).any (s.agentDies a).contains
  | 3 => a != .ext
  | _ => true

/-- The scope of a release covers an agent (R76): scope take by the take of the release. -/
def State.reaches (s : State) (r : Release) (a : Agent) : Bool :=
  if r.scope == 0 then r.agent == a || (match a with
    | .thread i => r.team.contains i
    | _ => false)
  else s.inScope r.scope r.agent a

/-! ## Readers -/

/-- A thread's reads, those of several threads that act as one, and those of operation `op` by an engine of a class. -/
def State.threadReader (s : State) (th : Nat) : Reader :=
  { cls := 0, via := 0, agent := .thread th, scene := some (s.thread th).scene, threads := [th]
    die := coreDie (s.scene (s.thread th).scene).core, first := s.ops.length }
def State.takeReader (s : State) (ths : List Nat) : Reader :=
  { s.threadReader (ths.headD 0) with threads := ths }
def State.opReader (s : State) (op cls : Nat) : Reader :=
  { cls := cls, via := cls, agent := .op op, scene := some (s.op op).scene, threads := (s.op op).lanes.map Prod.snd
    die := coreDie (s.op op).core, first := op }

/-- The operation that the next start of some threads of a scene will be, on a path of a class. -/
def State.nextReader (s : State) (sc : Nat) (ths : List Nat) (cls : Nat) : Reader :=
  { cls := cls, via := cls, agent := .op s.ops.length, scene := some sc, threads := ths, die := coreDie (s.scene sc).core
    first := s.ops.length }

/-- A node's engine, the Accords of a binding, and the host and its peers. -/
def State.nodeReader (s : State) (run cls : Nat) : Reader :=
  { cls := cls, via := cls, agent := .node run, scene := none, threads := [], die := (s.nodes.getD run default).place, first := 0 }
def accordReader (handle die : Nat) : Reader :=
  { cls := 4, via := 4, agent := .accord handle, scene := none, threads := [], die := die, first := 0 }
def extReader : Reader := { cls := 6, via := 6, agent := .ext, scene := none, threads := [], die := 4, first := 0 }

/-- A `FENCEX` puts the write before the reader: an operation that its thread started later, in its scope (R96). -/
def Fenced.covers (f : Fenced) (r : Reader) : Bool :=
  f.cls == r.cls && r.threads.contains f.thread && f.first ≤ r.first && (f.scope != 2 || f.die == r.die)

/-- The write is ordered before the reader. Threads see each other's writes here as they stand (R82, R95), and so do the
accesses of a Surface Unit (R332) and of the host among themselves; an agent sees its own writes, those it knows and those
it has seen, and an operation those that a `FENCEX` of its thread covers. The Accords of two bindings are two agents
(R312). -/
def OldGranule.ordered (y : OldGranule) (r : Reader) : Bool :=
  (y.cls == r.cls && [0, 3, 6].contains y.cls) ||
    y.knows.contains r.agent || (r.scene.any fun c => y.knows.contains (.scene c)) || y.seen.contains r.agent ||
    (if r.cls == 0 then r.threads.any fun th => y.knows.contains (.thread th) else y.fenced.any fun f => f.covers r)

/-! ## What a reader sees -/

/-- What a reader sees of a granule: none for the bytes that stand there, or older ones (R97). Writes are passed from the
last to the first, and the reader stops at the first that is ordered before it, or that it sees: it never sees an earlier
value later on (R82). -/
def State.oldGranule (s : State) (r : Reader) (space : Space) (gran : Nat) : Option (List Byte) × State :=
  let q := s.olds.foldl (fun (acc : Bool × Option (List Byte) × List OldGranule × State) y =>
    let keep := fun (b : Bool) (old : Option (List Byte)) (y : OldGranule) (s : State) => (b, old, y :: acc.2.2.1, s)
    if acc.1 || y.space != space || y.gran != gran then keep acc.1 acc.2.1 y acc.2.2.2
    else if y.ordered r then keep true acc.2.1 y acc.2.2.2
    else
      let c := acc.2.2.2.choose
      if c.1 then keep false (some y.bytes) y c.2
      else keep true acc.2.1 { y with seen := insertNew r.agent y.seen } c.2) (false, none, [], s)
  (q.2.1, { q.2.2.2 with olds := q.2.2.1.reverse })

/-- What a reader sees of some bytes, given by their places. -/
def State.seeCells (s : State) (r : Reader) (space : Space) (cells : List (Nat × Byte)) : List (Nat × Byte) × State :=
  if s.olds.all (fun y => y.space != space || y.ordered r) then (cells, s)
  else ((cells.map fun c => c.1 / 16).eraseDups).foldl (fun (acc : List (Nat × Byte) × State) g =>
    let q := acc.2.oldGranule r space g
    match q.1 with
    | none => (acc.1, q.2)
    | some old => (acc.1.map fun c => if c.1 / 16 == g then (c.1, old.getD (c.1 % 16) 0) else c, q.2)) (cells, s)

/-- What a reader sees of bytes of a space from an address on. -/
def State.seeAt (s : State) (r : Reader) (space : Space) (a : Nat) (bs : List Byte) : List Byte × State :=
  let q := s.seeCells r space (bs.zipIdx.map fun b => (a + b.2, b.1))
  (q.1.map Prod.snd, q.2)

/-- What a reader sees of memory from an address on. -/
def State.seeBytes (s : State) (r : Reader) (pa : Nat) (bs : List Byte) : List Byte × State := s.seeAt r .mem pa bs

/-- The granules of some bytes from a place on. -/
def gransOf (lo n : Nat) : List Nat := (List.range ((lo % 16 + n + 15) / 16)).map (lo / 16 + ·)

/-- Agents have read some granules as they stand: they never read an earlier value later on (R82). -/
def State.sawNow (s : State) (agents : List Agent) (space : Space) (grans : List Nat) : State :=
  { s with olds := s.olds.map fun y =>
      if y.space == space && grans.contains y.gran then { y with seen := agents.foldl (fun l a => insertNew a l) y.seen } else y }

/-- The L1 of a core has taken a copy of some granules as they stand at home, and a thread has read such a copy (R82). -/
def State.copied (s : State) (core : Nat) (space : Space) (grans : List Nat) : State :=
  { s with olds := s.olds.map fun y =>
      if y.space == space && grans.contains y.gran then { y with l1s := insertNat core y.l1s } else y }
def State.readCopy (s : State) (core th : Nat) (space : Space) (grans : List Nat) : State :=
  { s with olds := s.olds.map fun y =>
      if y.space == space && grans.contains y.gran && y.l1s.contains core then { y with seen := insertNew (.thread th) y.seen }
      else y }

/-- The agents whose accesses a reader's are: the threads, or the one agent on another path. -/
def Reader.agents (r : Reader) : List Agent := if r.via == 0 then r.threads.map Agent.thread else [r.agent]

/-- A reader sees the last write of a granule. -/
def State.seesLast (s : State) (r : Reader) (space : Space) (gran : Nat) : Bool :=
  (s.olds.find? fun y => y.space == space && y.gran == gran).all fun y => y.ordered r

/-- A reader has read bytes: where it has seen an access that comes after a `FENCEX` in whose scope it is, the writes before
that fence come before its later accesses (R96). -/
def State.trackRead (s : State) (r : Reader) (space : Space) (places : List Nat) : State :=
  if s.tracks.isEmpty then s
  else
    let met := s.tracks.filter fun t => t.space == space &&
      places.any fun p => t.lo ≤ p && decide (p < t.lo + t.n) && s.seesLast r space (p / 16)
    r.agents.foldl (fun (s : State) a =>
      (met.filter fun t => s.reaches t a).foldl (fun (s : State) t => s.learn a t.mark) s) s

/-- A reader's class has written bytes: those of its threads' fences of which it is in the after-mask (R96). -/
def State.trackWrite (s : State) (r : Reader) (space : Space) (places : List Nat) : State :=
  let mine := s.trails.filter fun t => r.threads.contains t.thread && bitOf t.after r.cls && (r.cls == 0 || t.first ≤ r.first)
  if mine.isEmpty then s
  else { s with tracks := (mine.flatMap fun t => places.map fun p =>
          ({ mark := t.mark, agent := .thread t.thread, scope := t.scope, space := space, lo := p, n := 1, team := t.team }
            : Release)) ++ s.tracks }

/-- A scene's scratchpad as a reader sees it at some places. -/
def State.seeScene (s : State) (r : Reader) (sc : Nat) (places : List Nat) : Scene × State :=
  let c := s.scene sc
  let now := places.map fun p => (p, c.sp.read p)
  let q := s.seeCells r (.sp sc) now
  (if q.1 == now then c else { c with sp := q.1.foldl (fun m x => m.write x.1 x.2) c.sp }, q.2.trackRead r (.sp sc) places)

/-! ## Writes -/

/-- Hold the bytes of some granules before a write of them by `r`. Writes of one agent that nothing has told apart are one
transfer, whose old bytes are those before all of it (R97); of the memory form of a binding every value that stood there can
still be seen (R312). -/
def State.keepOld (s : State) (space : Space) (r : Reader) (grans : List Nat) (read : Nat → Byte) : State :=
  { s with olds := grans.eraseDups.foldl (fun (l : List OldGranule) g =>
      let own := r.agents
      let new : OldGranule :=
        { space := space, gran := g, cls := r.cls, via := r.via, owners := own, knows := own, marks := []
          fenced := [], seen := [], l1s := [], bytes := (List.range 16).map fun k => read (16 * g + k) }
      let apart := match r.agent with
        | .accord _ => true
        | _ => false
      match l.find? fun y => y.space == space && y.gran == g with
      | some y => if !apart && { y with bytes := new.bytes } == new then l else new :: l
      | none => new :: l) s.olds }

/-- Hold the bytes of memory before a write of them. -/
def State.keepMem (s : State) (r : Reader) (places : List Nat) : State :=
  s.keepOld .mem r (places.map (· / 16)) s.mem.read

/-- Hold the bytes of a scene's scratchpad before a write of them. -/
def State.keepSp (s : State) (sc : Nat) (r : Reader) (places : List Nat) : State :=
  (s.trackWrite r (.sp sc) places).keepOld (.sp sc) r (places.map (· / 16)) (s.scene sc).sp.read

/-- An operation has written a line that carries no arrival signal, or one whose arrival signals it (R98). -/
def State.signal (s : State) (op : Nat) (space : Space) (line : Nat) : State :=
  { s with signals := { op := op, space := space, line := line, seen := [] } ::
      s.signals.filter fun g => !(g.op == op && g.space == space && g.line == line) }
def State.noSignal (s : State) (op : Nat) : State := s.modOp op fun o => { o with silent := true }

/-- Operation `op` writes places of a scratchpad whose lines it makes full: a line that was empty carries its own signal,
and no older bytes of it can be seen any more (R98). -/
def State.keepFilled (s : State) (sc : Nat) (r : Reader) (op : Nat) (places : List Nat) : State :=
  let empty := fun (p : Nat) => (s.scene sc).empty.contains (p / 128)
  let full := places.filter fun p => !empty p
  let fresh := (places.filter empty).map (· / 16)
  let s := (s.keepSp sc r full).trackWrite r (.sp sc) (places.filter empty)
  let s := { s with olds := s.olds.filter fun y => y.space != .sp sc || !fresh.contains y.gran }
  let s := (fresh.map (· / 8)).eraseDups.foldl (fun (s : State) l => s.signal op (.sp sc) l) s
  if full.isEmpty then s else s.noSignal op

/-- Threads read lines of a space: of each, they have met the arrival signal of the operation that wrote it last (R98). -/
def State.meetSignals (s : State) (ths : List Nat) (space : Space) (lines : List Nat) : State :=
  if s.signals.all (fun g => g.space != space || !lines.contains g.line) then s
  else { s with signals := (s.signals.foldl (fun (acc : List Nat × List Signal) g =>
      if g.space == space && lines.contains g.line && !acc.1.contains g.line then
        (g.line :: acc.1, { g with seen := ths.foldl (fun l th => insertNat th l) g.seen } :: acc.2)
      else (acc.1, g :: acc.2)) ([], [])).2.reverse }

/-- Lines are made empty or unwritten again: no arrival signal of theirs is left. -/
def State.forgetSignals (s : State) (space : Space) (lines : List Nat) : State :=
  { s with signals := s.signals.filter fun g => g.space != space || !lines.contains g.line }

/-! ## Releases and acquires (R81, R83, R84) -/

/-- A release of an agent by a write of some bytes at a scope, of the writes of a set. A plain load that has read an earlier
release of the agent there keeps it (R84). -/
def State.releaseOf (s : State) (p : OldGranule → Bool) (a : Agent) (scope : Nat) (space : Space) (lo n : Nat) : State :=
  let q := s.markOlds p
  match q.1 with
  | some m =>
    let new : Release := { mark := m, agent := a, scope := scope, space := space, lo := lo, n := n, team := s.team a }
    { q.2 with releases := new :: q.2.releases.filter fun r => { r with mark := m } != new || q.2.loaded.any fun x => x.2 == r.mark }
  | none => q.2

/-- A release of all that happens-before it. -/
def State.releaseAt (s : State) (a : Agent) (scope : Nat) (space : Space) (lo n : Nat) : State :=
  s.releaseOf (s.agentKnows a) a scope space lo n

/-- The releases whose value, or a later one, a read of some bytes returns, where their scope covers both agents. -/
def State.releasesAt (s : State) (a : Agent) (space : Space) (lo n : Nat) : List Release :=
  s.releases.filter fun r => r.space == space && r.lo < lo + n && lo < r.lo + r.n && s.reaches r a

/-- The thread started the operation and has observed its completion: its cue flag is at zero, or the thread has met it
at zero since, or every line that it wrote carried an arrival signal that the thread has met (R96, R98). -/
def State.observed (s : State) (th op : Nat) : Bool :=
  let o := s.op op
  let mine := s.signals.filter fun g => g.op == op
  o.done && (o.lanes.any fun l => l.2 == th) &&
    ((o.cue.any fun k => (s.thread th).cueOf k == 0) || o.met.contains th ||
      (!o.silent && !mine.isEmpty && mine.all fun g => g.seen.contains th))

/-- The releases that the completions of operations are and that a thread has observed, at package scope (R334): an
acquire of the thread at a scope synchronises with them. -/
def State.observedMarks (s : State) (a : Agent) (scope : Nat) : List Nat :=
  match a with
  | .thread th => (List.range s.ops.length).filterMap fun i => match (s.op i).rel with
    | some m => if s.observed th i && s.inScope scope a (.op i) then some m else none
    | none => none
  | _ => []

/-- An acquire of an agent by a read of some bytes at a scope: it synchronises with the releases that it reads where
both scopes cover both agents (R83). -/
def State.acquireAt (s : State) (a : Agent) (scope : Nat) (space : Space) (lo n : Nat) : State :=
  (((s.releasesAt a space lo n).filter fun r => s.inScope scope a r.agent).map (·.mark) ++
    s.observedMarks a scope).foldl (fun (s : State) m => s.learn a m) s

/-- A plain load of a thread reads some bytes: a later fence of the thread makes it an acquire (R84). -/
def State.plainRead (s : State) (th : Nat) (space : Space) (lo n : Nat) : State :=
  let here := (s.releasesAt (.thread th) space lo n).map fun r => (th, r.mark)
  if here.isEmpty then s else { s with loaded := here.foldl (fun l x => insertNew x l) s.loaded }

/-- A plain store of a thread writes some bytes: an earlier fence of the thread makes it a release (R84). -/
def State.plainWrite (s : State) (th : Nat) (space : Space) (lo n : Nat) : State :=
  let mine := s.fences.filter fun f => f.1 == th
  if mine.isEmpty then s
  else { s with releases := (mine.map fun f =>
                  ({ mark := f.2.1, agent := .thread th, scope := f.2.2, space := space, lo := lo, n := n
                     team := s.team (.thread th) } : Release)) ++
                  s.releases }

/-- A `FENCE` of a thread at a scope: its earlier plain loads become acquires, and its later plain stores releases of what
it knows now (R84). -/
def State.fenceThread (s : State) (th scope : Nat) : State :=
  let a : Agent := .thread th
  let mine := (s.loaded.filter fun x => x.1 == th).map Prod.snd
  let s := (((s.releases.filter fun r => mine.contains r.mark && s.inScope scope a r.agent).map (·.mark)) ++
    s.observedMarks a scope).foldl (fun (s : State) m => s.learn a m) s
  let q := s.markOlds (s.agentKnows a)
  match q.1 with
  | some m => { q.2 with fences := (q.2.fences.filter fun f => !(f.1 == th && f.2.2 == scope)) ++ [(th, m, scope)] }
  | none => q.2

/-! ## `FENCEX` (R96, R228) -/

/-- A clause of the threads has met its WAIT condition: they observe the completions that its flags count (R29, R96). -/
def State.meetFlags (s : State) (ths : List Nat) (flags : List Nat) : State :=
  { s with ops := s.ops.map fun o =>
    if o.done && o.cue.any flags.contains then
      { o with met := ((o.lanes.map Prod.snd).filter ths.contains).foldl (fun l th => insertNat th l) o.met }
    else o }

/-- A write belongs to the first set of a `FENCEX` of a thread: its own, or that of an operation that it has observed; with
LSU in both masks, any write that happens-before the fence (R228). -/
def State.fenceCovers (s : State) (th before after : Nat) (y : OldGranule) : Bool :=
  ((bitOf before y.cls || bitOf before y.via) && y.owners.any fun a => match a with
    | .thread i => i == th
    | .op i => s.observed th i
    | _ => false) ||
    (bitOf before 0 && bitOf after 0 && s.agentKnows (.thread th) y)

/-- A `FENCEX` of a thread (R96): the writes it covers come before the thread's later accesses and before those of the
operations of the after-mask that it starts later; no engine is in the scope of a take (R76). Whoever of the scope sees such
an access sees the writes too: on RC pages that takes a release and an acquire besides, so that of the first set only
writes to scratchpad count here. -/
def State.fenceOlds (s : State) (th before after scope : Nat) : State :=
  let covers := s.fenceCovers th before after
  let q := s.markOlds fun y => covers y && (match y.space with
    | .sp _ => true
    | _ => false)
  let s := q.2
  let s : State := match q.1 with
    | some m => { s with trails := { mark := m, thread := th, after := after, scope := scope, team := s.team (.thread th)
                                     first := s.ops.length } :: s.trails }
    | none => s
  { s with olds := s.olds.map fun y =>
    if covers y then
      { y with knows := if bitOf after 0 then insertNew (.thread th) y.knows else y.knows
               fenced := if scope == 0 then y.fenced
                 else y.fenced ++ ((List.range 6).filter fun k => bitOf after (k + 1)).map fun k =>
                   { cls := k + 1, thread := th, first := s.ops.length, scope := scope
                     die := coreDie (s.scene (s.thread th).scene).core } }
    else y }

/-! ## Nodes (R99, R287) -/

/-- A node completes, or is armed: a release at package scope of the writes that have a mark, which the launch of record
`index` acquires. -/
def State.releaseTo (s : State) (ctx index : Nat) (mark : Option Nat) : State :=
  match mark with
  | some m => { s with nodeMarks := insertNew (ctx, index, m) s.nodeMarks }
  | none => s

/-- A release at package scope whose writes have a mark, by an SC write of some bytes of memory. -/
def State.releaseBy (s : State) (a : Agent) (mark : Option Nat) (pa n : Nat) : State :=
  match mark with
  | some m =>
    { s with releases := { mark := m, agent := a, scope := 3, space := .mem, lo := pa, n := n, team := s.team a } :: s.releases }
  | none => s

/-- The launch of a record is an acquire for every path of its node: a scene's, or the engine of a run. -/
def State.acquireNode (s : State) (ctx index : Nat) (a : Agent) : State :=
  let mine := fun (x : Nat × Nat × Nat) => x.1 == ctx && x.2.1 == index
  (s.nodeMarks.filter mine).foldl (fun (s : State) x => s.learn a x.2.2)
    { s with nodeMarks := s.nodeMarks.filter fun x => !mine x }

/-- A write belongs to a scene: to its threads and operations, or known to the scene (R99). -/
def State.sceneWrite (s : State) (sc : Nat) (y : OldGranule) : Bool :=
  y.owners.any (fun a => s.agentScene a == some sc) || y.knows.contains (.scene sc) ||
    y.knows.any fun a => match a with
      | .thread i => (s.thread i).scene == sc
      | _ => false

/-- A write belongs to what the completion of a node releases: to the accesses of its scene, or of its run (R99). -/
def State.nodeWrite (s : State) (a : Agent) (y : OldGranule) : Bool :=
  match a with
  | .scene sc => s.sceneWrite sc y
  | _ => y.owners.contains a || y.knows.contains a

/-- A write belongs to the first set of the release that an arming is (R287): the thread's own and what it knows, and
those of the operations that it has observed. -/
def State.armCovers (s : State) (th : Nat) (y : OldGranule) : Bool :=
  s.agentKnows (.thread th) y || y.owners.any fun a => match a with
    | .op i => s.observed th i
    | _ => false

end Sys2Proof.Machine
end

