-- ==== Sys2Proof/Machine/Translate.lean ====
section
/-! DEFINITION. Translation (R356 to R361, R366), buffer records and their cache (R64 to R67), and who asks. -/

namespace Sys2Proof.Machine

/-- Who makes an access: its context, the die whose supervisor registers and WOTIMEOUT count, the unit that holds its
TLB, the core, for what crosses between path classes the reader or writer (R97), and for a watched access of a unit the thread
in whose name it is recorded with the address of its word (R441). -/
structure Req where
  ctx  : Nat
  die  : Nat
  unit : Nat
  core : Nat
  who  : Option Reader := none
  rep  : Option (Nat × DWord) := none
  deriving DecidableEq, Repr, Inhabited

/-- A thread's requests, those of an engine working for a core, and those of the core's Surface Unit (R361). -/
def coreReq (ctx core : Nat) : Req := { ctx := ctx, die := coreDie core, unit := core, core := core }
def engineReq (ctx core : Nat) : Req :=
  { ctx := ctx, die := coreDie core, unit := 0x1000 + coreDie core, core := core }
def surfReq (ctx core : Nat) : Req := { ctx := ctx, die := coreDie core, unit := 0x3000 + core, core := core }

/-- Root, buffer table and buffer count of a requester: its context's, or the supervisor registers of its die
(R397). -/
def State.ptRootOf (s : State) (r : Req) : Nat := if r.ctx == supCtx then (s.die r.die).sPtRoot else (s.ctx r.ctx).ptRoot
def State.bufBaseOf (s : State) (r : Req) : Nat := if r.ctx == supCtx then (s.die r.die).sBufBase else (s.ctx r.ctx).bufBase
def State.bufCntOf (s : State) (r : Req) : Nat := if r.ctx == supCtx then (s.die r.die).sBufCnt else (s.ctx r.ctx).bufCnt

/-! ## The walk (R357 to R360) -/

/-- The lowest VA bit and the entries of a level, and the index of an address there (R357). -/
def levelField (l : Nat) : Nat × Nat := [(48, 512), (39, 512), (29, 1024), (21, 256), (16, 32)].getD l (16, 32)
def levelIndex (l va : Nat) : Nat := va / 2 ^ (levelField l).1 % (levelField l).2

/-- Bytes that an entry of a level covers. -/
def levelSize (l : Nat) : Nat := 2 ^ (levelField l).1

/-- Bytes that a leaf maps (R357). -/
def leafSize (l : Nat) : Nat := if l == 2 then 2 ^ 29 else if l == 3 then 2 ^ 21 else 2 ^ 16

/-- The walk from a table on, `entry` giving the entry at an address: the level and the leaf, or the kind and detail of the
fault, with the non-leaf entries that it passed (R359, R360). -/
def State.walkFrom (s : State) (entry : Nat → Nat) (va : Nat) : Nat → Nat → Nat →
    Except (Nat × Nat) (Nat × Nat) × List (Nat × Nat)
  | 0, _, _ => (.error (2, 0x0600), [])
  | n + 1, l, a =>
    let ea := a + 8 * levelIndex l va
    if !(isHbm ea) || tagType (s.frameTag (frameOf ea)) != 0 then (.error (2, 0x0600), [])
    else
      let e := entry ea
      if e % 2 == 0 then (.error (1, l), [])
      else if l == 4 || bitOf e 1 then
        (if l < 2 || e / 2 ^ 58 != 0 then .error (2, 0x0600) else .ok (l, e), [])
      else if bitsOf e 7 2 != 0 || bitsOf e 15 8 != 0 || e / 2 ^ 56 != 0 then (.error (2, 0x0600), [])
      else
        let r := s.walkFrom entry va n (l + 1) (bitsOf e 55 16 * 256)
        (r.1, (ea, e) :: r.2)

/-- The walk of an address over the tables as they stand (R359). -/
def State.walk (s : State) (r : Req) (va : Nat) : Except (Nat × Nat) (Nat × Nat) :=
  (s.walkFrom (fun ea => s.mem.num ea 8) va 5 0 (s.ptRootOf r)).1

/-- The walk units cache the non-leaf entries that a walk of an address passed, in place of those they held of them. -/
def State.keepWalk (s : State) (r : Req) (va : Nat) (es : List (Nat × Nat)) : State :=
  let new := es.zipIdx.map fun e =>
    ({ ctx := r.ctx, va := va / levelSize e.2 * levelSize e.2, level := e.2, at1 := e.1.1, entry := e.1.2 } : WalkEntry)
  if new.all s.walks.contains then s
  else { s with walks := (s.walks.filter fun w => !(new.any fun n => n.ctx == w.ctx && n.va == w.va && n.level == w.level)) ++ new }

/-- The entry at an address that a walk unit holds for a walk, or the one that stands there. -/
def State.walkEntry (s : State) (r : Req) (va ea : Nat) : Nat :=
  match s.walks.find? fun w => w.ctx == r.ctx && w.at1 == ea && w.va == va / levelSize w.level * levelSize w.level with
  | some w => w.entry
  | none => s.mem.num ea 8

/-- A walk that begins now: it reads the tables, or the copies of non-leaf entries that the walk units still hold
(R361). -/
def State.walkNow (s : State) (r : Req) (va : Nat) : Except (Nat × Nat) (Nat × Nat) × State :=
  let fresh := s.walkFrom (fun ea => s.mem.num ea 8) va 5 0 (s.ptRootOf r)
  let old := s.walkFrom (s.walkEntry r va) va 5 0 (s.ptRootOf r)
  if old.2 == fresh.2 then (fresh.1, s.keepWalk r va fresh.2)
  else
    let c := s.choose
    if c.1 then (old.1, c.2.keepWalk r va old.2) else (fresh.1, c.2.keepWalk r va fresh.2)

/-- The leaf that a requester uses: a cached one may serve while it stays in the TLB, whatever the tables hold now
(R361). A leaf that was walked is cached. -/
def State.leafOf (s : State) (r : Req) (va : Nat) : Except (Nat × Nat) (Nat × Nat) × State :=
  let q := s.walkNow r va
  let fresh := q.1
  let s := q.2
  let hit := s.tlb.find? fun t => t.unit == r.unit && t.ctx == r.ctx && t.va == va / leafSize t.level * leafSize t.level
  let keep := fun (s : State) => match fresh with
    | .ok (l, e) =>
      { s with tlb := (s.tlb.filter fun t =>
          !(t.unit == r.unit && t.ctx == r.ctx && t.va == va / leafSize t.level * leafSize t.level)) ++
          [{ unit := r.unit, ctx := r.ctx, va := va / leafSize l * leafSize l, level := l, leaf := BitVec.ofNat 64 e }] }
    | .error _ => s
  match hit with
  | none => (fresh, keep s)
  | some t =>
    let old : Nat × Nat := (t.level, t.leaf.toNat)
    match fresh with
    | .ok new =>
      if new == old then (fresh, s)
      else
        let c := s.choose
        if c.1 then (.ok old, c.2) else (fresh, keep c.2)
    | .error _ =>
      let c := s.choose
      if c.1 then (.ok old, c.2) else (fresh, c.2)

/-! ## What a translation gives -/

/-- The buffer classes that a translation must agree with (R366). -/
structure Place3 where
  icls : Nat
  stk  : Nat
  ch   : Nat
  deriving DecidableEq, Repr, Inhabited

/-- A translation: the package, the physical address, the page type, and the WATCH and CMPR bits. -/
structure Xlat where
  pkg   : Nat
  pa    : Nat
  cm    : Nat
  watch : Bool
  cmpr  : Bool
  deriving DecidableEq, Repr, Inhabited

/-- The buffer's class agrees with the frame's group (R366, R375). Memory beyond HBM has no group mode. -/
def State.classOk (s : State) (pa : Nat) (p : Place3) : Bool :=
  if isHbm pa then
    s.groupMode.get (pa / 2 ^ 32) == p.icls &&
      (p.icls == 0 || p.icls == 3 || (bitsOf pa 31 29 == p.stk && (p.icls == 1 || bitsOf pa 28 24 == p.ch)))
  else p.icls == 0 || p.icls == 3

/-- The frame a leaf names for an address can be used: populated, assigned and not retired (R356, R359, R364). -/
def State.frameUsable (s : State) (pa : Nat) : Bool :=
  populated pa && !tagRetired (s.frameTag (frameOf pa)) && tagAlloc (s.frameTag (frameOf pa))

/-- The checks of R359 after the walk, in order: the fault's kind and detail, or none. -/
def State.leafFault (s : State) (ctx l e pa : Nat) (write atomic : Bool) (p : Option Place3) : Option (Nat × Nat) :=
  let pkg := bitsOf e 15 8
  let here := pkg == s.pkgId
  let tag := s.frameTag (frameOf pa)
  let cm := bitsOf e 7 6
  if bitsOf e 47 16 % (leafSize l / 65536) != 0 then some (2, 0x0600)
  else if ctx != supCtx && bitsOf e 57 48 != ctx then some (2, 0x0603)
  else if 143 < pkg || (!here && s.standalone) || (here && !s.frameUsable pa) then some (2, 0x0604)
  else if here && cm != tagType tag then some (6, tagType tag)
  else if here && cm == 3 && ctx != supCtx && tagOwner tag != ctx then some (2, 0x0603)
  else if write && !bitOf e 2 then some (2, 0x0601)
  else if atomic && !bitOf e 3 then some (2, 0x0602)
  else match p with
    | some p => if here && !s.classOk pa p then some (2, 0x0605) else none
    | none => none

/-- Translate an address for a requester (R359): the translation, or the fault with the address as its VA. -/
def State.translate (s : State) (r : Req) (va : Nat) (write atomic : Bool) (p : Option Place3) :
    Except FaultInfo Xlat × State :=
  let q := s.leafOf r va
  let s := q.2
  match q.1 with
  | .error f => (.error { kind := f.1, va := va, detail := f.2 }, s)
  | .ok (l, e) =>
    let pa := bitsOf e 47 16 * 65536 + va % leafSize l
    match s.leafFault r.ctx l e pa write atomic p with
    | some f => (.error { kind := f.1, va := va, detail := f.2 }, s)
    | none =>
      (.ok { pkg := bitsOf e 15 8, pa := pa, cm := bitsOf e 7 6, watch := bitOf e 4, cmpr := bitOf e 5 }, s)

/-! ## Buffer records (R64 to R66) -/

def recBase (r : Nat) : Nat := bitsOf r 56 0
def recExtent (r : Nat) : Nat := bitsOf r 111 64
def recStride (r : Nat) : Nat := bitsOf r 159 128
def recEsizeCode (r : Nat) : Nat := bitsOf r 162 160
def recEsize (r : Nat) : Nat := 2 ^ recEsizeCode r
def recSwz (r : Nat) : Nat := bitsOf r 164 163
def recIcls (r : Nat) : Nat := bitsOf r 166 165
def recRights (r : Nat) : Nat := bitsOf r 170 168
def recStk (r : Nat) : Nat := bitsOf r 174 172
def recCh (r : Nat) : Nat := bitsOf r 179 175
def recOwner (r : Nat) : Nat := bitsOf r 201 192
def recValid (r : Nat) : Bool := bitOf r 207
def recHandle (r : Nat) : Nat := bitsOf r 219 208
def recBound (r : Nat) : Bool := bitOf r 223
def recVersion (r : Nat) : Nat := bitsOf r 239 224

/-- The class of a record (R366). -/
def recPlace (r : Nat) : Place3 := { icls := recIcls r, stk := recStk r, ch := recCh r }

/-- A reserved field of a record is nonzero (R64). -/
def recReserved (r : Nat) : Bool :=
  [(63, 57), (127, 112), (167, 167), (171, 171), (191, 180), (206, 202), (222, 220), (255, 240)].any fun f =>
    bitsOf r f.1 f.2 != 0

/-- The record's own fields make it invalid (R65), its binding apart. -/
def recBad (r : Nat) : Bool :=
  !recValid r || recReserved r || decide (5 ≤ recEsizeCode r) || recBase r % 16 != 0 ||
    decide (2 ^ 57 < recBase r + recExtent r) ||
    (recStk r != 0 && (recIcls r == 0 || recIcls r == 3)) || (recCh r != 0 && recIcls r != 2)

/-- The binding that the Accords hold for a record of a requester's buffer table (R303): the supervisor's table is its
die's (R397). -/
def State.bindingOf (s : State) (r : Req) (index : Nat) : Option Nat :=
  (indices s.bindings fun b => b.ctx == r.ctx && (r.ctx != supCtx || b.die == r.die) && b.index == index &&
    (b.rd.isSome || b.wr.isSome)).head?

/-- FHANDLE and FBOUND agree with the binding that the Accords hold (R65). -/
def State.recAgrees (s : State) (r : Req) (index bits : Nat) : Bool :=
  match s.bindingOf r index with
  | none => !recBound bits && recHandle bits == 0
  | some b => recBound bits && recHandle bits == (s.bindings.getD b default).handle

/-! ## Frames of other packages (R424, R425) -/

/-- No plane reaches the home package, which is marked unreachable until a plane is restored (R424). -/
def State.unreachable (s : State) (pkg : Nat) : Bool :=
  pkg != s.pkgId && (s.cutOff.contains pkg || (List.range 18).all fun p =>
    s.portsDown.contains p || !Config.planeReaches p pkg s.linkCtr)

/-- Why a request for a frame of another package fails: no plane reaches it (R424), or it does not admit the access
(R425). -/
def State.remoteFault (s : State) (x : Xlat) (va : Nat) (read : Bool) : Option FaultInfo :=
  if x.pkg == s.pkgId then none
  else if s.unreachable x.pkg then
    some (if read then { kind := 0x0C, va := va, detail := 0x0801 } else { kind := 2, va := va, detail := 0x0802 })
  else if Config.remoteDetail x.pkg x.pa s.freeIx != 0 then some { kind := 2, va := va, detail := 0x0802 }
  else none

/-- Bytes at a translated address: another package's are free values (R423). -/
def State.physBytes (s : State) (x : Xlat) (n : Nat) : List Byte :=
  if x.pkg == s.pkgId then s.mem.readN x.pa n
  else (List.range n).map fun i => Config.remoteByte x.pkg (x.pa + i) s.freeIx

/-- Read a record through the record cache (R66, R67): the fault of the read names the entry's address. A cached copy may
serve, whole, until the cache is emptied. DESIGN CHOICE (log 72): of an entry on a poisoned line the bytes that stand there
are used, since R67 names no DATA of this read. -/
def State.readRecord (s : State) (r : Req) (index : Nat) : Except FaultInfo Nat × State :=
  let va := s.bufBaseOf r + 32 * index
  let q := s.translate r va false false none
  let s := q.2
  let fresh : Except FaultInfo Nat := q.1.bind fun x => match s.remoteFault x va true with
    | some f => .error f
    | none => .ok (leNat (s.physBytes x 32))
  let key := fun (c : CachedRec) => c.core == r.core && c.ctx == r.ctx && c.index == index
  let keep := fun (s : State) => match fresh with
    | .ok bits =>
      { s with recCache := (s.recCache.filter fun c => !key c) ++
          [{ core := r.core, ctx := r.ctx, index := index, bits := bits }] }
    | .error _ => s
  match s.recCache.find? key with
  | none => (fresh, keep s)
  | some c =>
    match fresh with
    | .ok bits =>
      if bits == c.bits then (fresh, s)
      else
        let ch := s.choose
        if ch.1 then (.ok c.bits, ch.2) else (fresh, keep ch.2)
    | .error _ =>
      let ch := s.choose
      if ch.1 then (.ok c.bits, ch.2) else (fresh, ch.2)

/-- Empty a core's record cache (R66). -/
def State.dropRecords (s : State) (core : Nat) : State :=
  { s with recCache := s.recCache.filter fun c => c.core != core }

/-- Step 1 of R67: the record that a 32-bit index names. -/
def State.bufRecord (s : State) (r : Req) (index : Nat) : Except FaultInfo Nat × State :=
  if s.bufCntOf r ≤ index then (.error { kind := 2, va := 0, detail := 0 }, s)
  else
    let q := s.readRecord r index
    match q.1 with
    | .ok bits => (if recBad bits then .error { kind := 2, va := 0, detail := 0 } else .ok bits, q.2)
    | .error f => (.error f, q.2)

/-- Step 5 of R67: the owner and a right (bit 0 read, 1 write, 2 atomic). The supervisor compares no owner (R415). -/
def recAllows (ctx r right : Nat) : Bool := (ctx == supCtx || recOwner r == ctx) && bitOf (recRights r) right

end Sys2Proof.Machine
end

