-- ==== Sys2Proof/Machine/Lines.lean ====
section
/-! DEFINITION. Lines of memory at their home: the address map (R366 to R369, R452), the L2 (R292), L1 copies (R82, R93),
stores and write-once lines (R86 to R92), and formula-bound lines (R291 to R312). -/

namespace Sys2Proof.Machine

/-! ## Banks and tags -/

/-- The bank of a line, as its 13 outputs (R366, R368). -/
def State.bankOf (s : State) (pa : Nat) : Nat := s.outputs pa 0 13

/-- The in-bank index of a line (R366): the group, above the bits of the address that the group's mode does not
designate. -/
def State.inBank (s : State) (pa : Nat) : Nat :=
  let free := ((List.range 25).map (· + 7)).filter fun b =>
    !(List.range 13).any fun j => s.maskOf resetMasks pa j == 2 ^ b
  pa / 2 ^ 32 * 2 ^ 12 + (free.zipIdx.foldl (fun acc b => acc + b2n (bitOf pa b.1) * 2 ^ b.2) 0)

/-- The row and the column line of a line in its bank. -/
def State.rowOf (s : State) (pa : Nat) : Nat := s.inBank pa / 16
def State.columnOf (s : State) (pa : Nat) : Nat := s.inBank pa % 16

/-- LV of a line: the parity of the version whose map placed it (R369, R370). -/
def State.lineLv (s : State) (line : Nat) : Bool := (s.hashVer % 2 == 1) == s.lineMoved (128 * line)

/-- The line tag in the sideband of a line (R370). -/
def State.sideTag (s : State) (line : Nat) : Nat := setBitN (s.lineTag line) 11 (s.lineLv line)

/-! ## BF16 exponent sharing (R373) -/

/-- The 64 elements of a line. -/
def lineElems (bs : List Byte) : List Nat := (List.range 64).map fun i => leNat ((bs.drop (2 * i)).take 2)

/-- The least and the greatest exponent field of the elements. -/
def exponentRange (es : List Nat) : Nat × Nat :=
  es.foldl (fun r e => (min r.1 (bitsOf e 14 7), max r.2 (bitsOf e 14 7))) (255, 0)

/-- The line fits the compressed form. -/
def lineFits (bs : List Byte) : Bool :=
  let r := exponentRange (lineElems bs)
  r.2 - r.1 ≤ 15

/-- The base exponent of a line. -/
def lineBexp (bs : List Byte) : Nat := (exponentRange (lineElems bs)).1

/-- The 96 bytes that a fitting line is stored in: the exponent deltas, then signs and mantissas. -/
def compressLine (bs : List Byte) : List Byte :=
  let es := lineElems bs
  leBytes 32 (packFields (es.map fun e => (4, bitsOf e 14 7 - lineBexp bs))) ++
    es.map fun e => BitVec.ofNat 8 (bitsOf e 15 15 * 128 + bitsOf e 6 0)

/-- The line that a compressed form and its base exponent stand for. -/
def decompressLine (bexp : Nat) (cs : List Byte) : List Byte :=
  let ds := leNat (cs.take 32)
  (List.range 64).flatMap fun i =>
    let sm := (cs.getD (32 + i) 0).toNat
    leBytes 2 (sm / 128 * 2 ^ 15 + (bexp + bitsOf ds (4 * i + 3) (4 * i)) * 2 ^ 7 + sm % 128)

/-- The line tag after a write-back: CMP and BEXP (R370, R373). -/
def writebackTag (tag : Nat) (cmpr : Bool) (bs : List Byte) : Nat :=
  let rest := tag / 512 * 512
  if cmpr && lineFits bs then rest + 2 * lineBexp bs + 1 else rest

/-- The CRC-16 of a sector (R371). -/
def crc16 (bs : List Byte) : Nat :=
  bs.foldl (fun crc b => (List.range 8).foldl (fun c _ =>
    if bitOf c 15 then (2 * c ^^^ 0x1021) % 2 ^ 16 else 2 * c % 2 ^ 16) (crc ^^^ b.toNat * 256)) 0xFFFF

/-- The 128 bytes that stand in memory for a line: the compressed form fills the first three sectors (R373). -/
def State.storedLine (s : State) (line : Nat) : List Byte :=
  let bs := s.mem.readN (128 * line) 128
  if bitOf (s.lineTag line) 0 then compressLine bs ++ List.replicate 32 0 else bs

/-- The 16 bytes of sideband of a line (R370): the CRC-16 of its sectors, its tag, and the reserved bytes. -/
def State.sideband (s : State) (line : Nat) : List Byte :=
  (List.range 4).flatMap (fun i => leBytes 2 (crc16 (((s.storedLine line).drop (32 * i)).take 32))) ++
    leBytes 2 (s.sideTag line) ++ List.replicate 6 0

/-- A line of this package that carries a tag and sideband: of HBM or the second tier. -/
def tagged (line : Nat) : Bool := populated (128 * line) && !isHostPa (128 * line)

/-! ## L2 and L1 -/

/-- Lines in the L2 of a die, 12 slices of 8 MiB, and in the L1 of a core (R9, R10). -/
def l2Lines : Nat := 786432
def l1Lines : Nat := 1024

/-- A line of no binding leaves the L2, and a dirty one is written to its memory: one of an HBM frame compressed where its
translation asks for it and it fits (R373). -/
def State.evictPhys (s : State) (l : Nat) : State :=
  match s.l2.find? fun x => x.key == .phys l with
  | none => s
  | some x =>
    let s := { s with l2 := s.l2.filter fun y => y.key != .phys l }
    let tag := writebackTag (s.lineTag l) (x.cmpr && isHbm (128 * l)) (s.mem.readN (128 * l) 128)
    if x.dirty && tagged l then { s with lineTags := s.lineTags.set l tag } else s

/-- The copy of a line that a core's L1 holds. -/
def State.l1Find (s : State) (core pkg line : Nat) : Option L1Line :=
  s.l1.find? fun x => x.core == core && x.pkg == pkg && x.line == line

/-- Replace bytes of a line. -/
def patch (line : List Byte) (cells : List (Nat × Byte)) : List Byte :=
  cells.foldl (fun l c => l.set c.1 c.2) line

/-! ## Waking what waits on a write-once line (R89) -/

/-- A line becomes written: threads that wait on it continue at their loads, engine reads go on, and a wait in a scene
that is away ends in its image. -/
def State.wakeLine (s : State) (line : Nat) : State :=
  let ths := indices s.threads fun t => match t.wo with
    | some w => w.line == line && w.pkg == s.pkgId
    | none => false
  let s := ths.foldl (fun (s : State) th =>
    let t := s.thread th
    let s := s.modThread th fun t => { t with wo := none }
    if (s.scene t.scene).st == .resident || (s.scene t.scene).st == .restoring then
      (if t.halted || t.parked then s else s.fileThread th t.pc true)
    else s.evalReady t.scene) s
  { s with ops := s.ops.map fun o => match o.wo with
      | some w => if w.line == line && w.pkg == s.pkgId then { o with wo := none } else o
      | none => o }

/-- Mark a line of a WO frame as written. -/
def State.markWritten (s : State) (line : Nat) : State := (s.setLineBit line 9 true).wakeLine line

/-! ## Reads and writes of an engine at virtual addresses, unbound -/

/-- The lines that a range of addresses covers, each with its first address and its bytes. -/
def lineSpans (va n : Nat) : List (Nat × Nat) :=
  (List.range ((va % 128 + n + 127) / 128)).map fun i =>
    let a := if i == 0 then va else va / 128 * 128 + 128 * i
    (a, min (va + n) (va / 128 * 128 + 128 * (i + 1)) - a)

/-- What the one who asks sees of bytes at a translated address (R97). -/
def State.seeAs (s : State) (r : Req) (x : Xlat) (bs : List Byte) : List Byte × State :=
  match r.who with
  | some w => if x.cm < 2 && x.pkg == s.pkgId then s.seeBytes w x.pa bs else (bs, s)
  | none => (bs, s)

/-- The one who asks writes bytes from a translated address on: what stood there can still be seen on an RC page (R97), and
of the memory form of a binding on an SC page too (R312). -/
def State.keepAs (s : State) (r : Req) (x : Xlat) (n : Nat) : State :=
  match r.who with
  | some w =>
    let form := match w.agent with
      | .accord _ => true
      | _ => false
    if (x.cm == 1 || (x.cm == 0 && form)) && x.pkg == s.pkgId then s.keepMem w ((List.range n).map (x.pa + ·)) else s
  | none => s

/-- Bytes at virtual addresses as the home slices hold them, and whether a line of them is poisoned; or the first
fault. `place` is the interleave class that the pages must agree with (R359). -/
def State.virtRead (s : State) (r : Req) (va n : Nat) (place : Option Place3 := none) :
    Except FaultInfo (List Byte × Bool) × State :=
  (lineSpans va n).foldl (fun acc sp => match acc.1 with
    | .error f => (.error f, acc.2)
    | .ok (bs, psn) =>
      let q := acc.2.translate r sp.1 false false place
      match q.1 with
      | .error f => (.error f, q.2)
      | .ok x => match q.2.remoteFault x sp.1 true with
        | some f => (.error f, q.2)
        | none =>
          let v := q.2.seeAs r x (q.2.physBytes x sp.2)
          (.ok (bs ++ v.1, psn || (x.pkg == q.2.pkgId && q.2.linePsn (lineOf x.pa))),
            if x.pkg == v.2.pkgId then v.2 else { v.2 with freeIx := v.2.freeIx + 1 }))
    (.ok ([], false), s)

/-- An Accord's store of bytes of one line: the memory form of a beat or a side word, at the line where the L2 holds it,
else in memory, compressed as the line's translation asks (R292, R310, R373). -/
def State.accordStore (s : State) (line : Nat) (cells : List (Nat × Byte)) (cmpr : Bool) : State :=
  let s := s.awaitMap (line / 512)
  let s := ({ s with mem := cells.foldl (fun m c => m.write (128 * line + c.1) c.2) s.mem } : State).markScrub line
  let tag := writebackTag (s.lineTag line) (cmpr && isHbm (128 * line)) (s.mem.readN (128 * line) 128)
  let s : State :=
    if s.l2.any fun x => x.key == .phys line then
      { s with l2 := s.l2.map fun x => if x.key == .phys line then { x with dirty := true, cmpr := cmpr } else x }
    else if tagged line then { s with lineTags := s.lineTags.set line tag }
    else s
  if (cells.map Prod.fst).eraseDups.length == 128 && s.linePsn line then s.setLineBit line 10 false else s

/-- An Accord's store of bytes at virtual addresses; a line whose translation fails is not written. `psn` marks the lines as
poisoned. An SC line's store is a release of the agent in whose name it is made (R81). -/
def State.virtWrite (s : State) (r : Req) (va : Nat) (bs : List Byte) (psn : Bool) (place : Option Place3 := none) : State :=
  (lineSpans va bs.length).foldl (fun (s : State) sp =>
    let q := s.translate r sp.1 true false place
    match q.1 with
    | .error _ => q.2
    | .ok x =>
      if x.pkg != q.2.pkgId then { q.2 with freeIx := q.2.freeIx + 1 }
      else
        let part := (bs.drop (sp.1 - va)).take sp.2
        let s := (q.2.keepAs r x sp.2).accordStore (lineOf x.pa) (part.zipIdx.map fun b => (x.pa % 128 + b.2, b.1)) x.cmpr
        let s := if x.cm == 2 && sp.2 == 128 then s.markWritten (lineOf x.pa) else s
        let s := if x.cm != 0 then s
          else (r.who.elim [] Reader.agents).foldl (fun (s : State) a => s.releaseAt a 4 .mem x.pa sp.2) s
        if psn then s.setLineBit (lineOf x.pa) 10 true else s) s

/-! ## Formula-bound lines -/

/-- Change a binding. -/
def State.modBinding (s : State) (i : Nat) (f : Binding → Binding) : State :=
  { s with bindings := s.bindings.modify i f }

/-- Binding `i`. -/
def State.binding (s : State) (i : Nat) : Binding := s.bindings.getD i default

/-- The requests of the Accords for a binding, on their own account (R75), and those of one Accord. -/
def Binding.req (b : Binding) : Req :=
  { ctx := b.ctx, die := b.die, unit := 0x2000 + b.handle, core := 64 * b.die, who := some (accordReader b.handle (b.stk / 2)) }
def Binding.reqAt (b : Binding) (a : Nat) : Req := { b.req with who := some (accordReader b.handle (a / 8)) }

/-- The interleave class that a binding's pages must agree with (R359, R366). -/
def Binding.place (b : Binding) : Place3 := { icls := b.icls, stk := b.stk, ch := b.ch }

/-- The Accord that processes a beat: the one that serves its first memory-form byte (R291). -/
def State.beatAccord (s : State) (b : Binding) (k : Nat) : Nat :=
  match (s.translate b.req (b.base + k * b.sizes.2) false false none).1 with
  | .ok x => if isHbm x.pa then s.accordOf x.pa else 0
  | .error _ => 0

/-! Stream contexts (R295): four in an Accord, of which stateful directions pin some for as long as they are bound. -/

/-- The Accords that serve a binding, by its interleave class (R291). -/
def Binding.serving (b : Binding) : List Nat :=
  match b.icls with
  | 1 => (List.range 4).map (4 * b.stk + ·)
  | 2 => [4 * b.stk + b.ch / 8]
  | _ => List.range 32

/-- The contexts that an Accord has pinned, and those that element-local directions hold. -/
def State.pinned (s : State) (a : Nat) : Nat :=
  ((s.bindings.filter fun b => b.serving.contains a).map fun b =>
    (b.dirs.filter fun f => imgStateful (imgHeader f.image)).length).foldl (· + ·) 0
def State.streaming (s : State) (a : Nat) : Nat :=
  (s.bindings.map fun b => (b.dirs.filter fun f => f.streams.contains a).length).foldl (· + ·) 0

/-- A direction gives up its stream context in an Accord. -/
def FormDir.release (f : FormDir) (a : Nat) : FormDir := { f with streams := f.streams.filter fun x => x != a }

/-- A beat of an element-local direction needs a context of its Accord. Where none is free it waits for the release of
another direction's, which idles (R295): its binding's stall counter rises by the wait, which is timing and free. -/
def State.takeStream (s : State) (i a : Nat) (f : FormDir) : State :=
  if imgStateful (imgHeader f.image) || f.streams.contains a || s.pinned a + s.streaming a < 4 then s
  else
    let q := s.fresh
    let s := q.2.modBinding i fun b => { b with stall := b.stall + q.1.toNat }
    match (indices s.bindings fun b => b.dirs.any fun g => g.streams.contains a).head? with
    | some j => s.modBinding j fun b =>
      if b.rd.any fun g => g.streams.contains a then { b with rd := b.rd.map (·.release a) }
      else { b with wr := b.wr.map (·.release a) }
    | none => s

/-- A direction has processed a beat in an Accord. A parity error poisons the beat, is counted, and has the slot reloaded
before the next beat (R301). -/
def FormDir.after (f : FormDir) (a : Nat) (parity : Bool) : FormDir :=
  { f with err := if parity then f.err + 1 else f.err
           hurt := f.hurt.filter fun x => x != a
           reload := if parity then insertNat a f.reload else f.reload.filter fun x => x != a }

/-- The L2 holds a beat of a binding. -/
def State.beatIn (s : State) (b : Binding) (k : Nat) : Bool := s.l2.any fun x => x.key == .bound b.handle k

/-- Requester lines that a beat touches. -/
def Binding.beatLines (b : Binding) (k : Nat) : List Nat :=
  let rb := b.sizes.1
  (List.range ((k * rb % 128 + rb + 127) / 128)).map fun i => k * rb / 128 + i

/-- Store the side word of a beat (R310), or count a failed side write and post its record. The store is of class ACD, and
counts as an access of the agent whose request caused the beat. -/
def State.sideWord (s : State) (i : Nat) (write : Bool) (params : List Word) (k word : Nat) (why : Reader) : State :=
  let b := s.binding i
  let r := { b.req with who := some { why with cls := 4 } }
  let off := (params.getD 7 0).toNat + 4 * k
  let q := s.bufRecord r ((params.getD 6 0).toNat % 2 ^ 16)
  let fail := fun (s : State) (va : Nat) =>
    let bump := fun (f : FormDir) => { f with err := f.err + 1 }
    (s.modBinding i fun b =>
      if write then { b with wr := b.wr.map bump } else { b with rd := b.rd.map bump }).postUnit b.ctx r.die 2 va 0
  match q.1 with
  | .error _ => fail q.2 off
  | .ok rec1 =>
    let va := recBase rec1 + off
    if !recAllows r.ctx rec1 1 || recBound rec1 || off % 4 != 0 || recExtent rec1 < off + 4 then fail q.2 va
    else
      let t := q.2.translate r va true false (some (recPlace rec1))
      match t.1 with
      | .ok x => if 2 ≤ x.cm then fail t.2 va else t.2.virtWrite r va (leBytes 4 word) false
      | .error _ => fail t.2 va

/-- Bring a beat into its requester form through the read formula, for the agent `why`: its bytes, whether they are
poisoned, or the fault of its memory form (R301). -/
def State.readBeat (s : State) (i k : Nat) (parity : Bool) (why : Reader) : Except FaultInfo (List Byte × Bool) × State :=
  let b := s.binding i
  match b.rd with
  | none => (.error { kind := 2, va := b.base + k * b.sizes.1, detail := 0x0301 }, s)
  | some f =>
    let a := s.beatAccord b k
    let parity := parity || f.hurt.contains a
    let q := (s.takeStream i a f).virtRead (b.reqAt a) (b.base + k * b.sizes.2) b.sizes.2 (some b.place)
    match q.1 with
    | .error e => (.error e, q.2)
    | .ok (bs, psn) =>
      let r := ((q.2.binding i).rd.getD f).beat a bs
      let s := q.2.modBinding i fun b => { b with rd := some (r.2.2.after a parity) }
      let s : State := match r.2.1 with
        | some w => s.sideWord i false f.params.toList k w why
        | none => s
      (.ok (r.1, psn || parity), s)

/-- A page of a beat's memory form has a type that R311 forbids. -/
def State.beatBarred (s : State) (b : Binding) (k : Nat) : Bool :=
  b.barred || (lineSpans (b.base + k * b.sizes.2) b.sizes.2).any fun sp =>
    match (s.translate b.req sp.1 false false none).1 with
    | .ok x => b.forbids x.cm
    | .error _ => false

/-- Write a beat to its memory form through the write formula (R292, R301). -/
def State.writeBeat (s : State) (i k : Nat) (bs : List Byte) (psn parity : Bool) (why : Reader) : State :=
  let b := s.binding i
  match b.wr with
  | none => s
  | some f =>
    let a := s.beatAccord b k
    let parity := parity || f.hurt.contains a
    let s := s.takeStream i a f
    let r := ((s.binding i).wr.getD f).beat a bs
    let s := s.modBinding i fun b => { b with wr := some (r.2.2.after a parity) }
    let s : State := match r.2.1 with
      | some w => s.sideWord i true f.params.toList k w why
      | none => s
    s.virtWrite (b.reqAt a) (b.base + k * b.sizes.2) r.1 (psn || parity) (some b.place)

/-- The binding that has a handle: of those that had it, the one that is bound. -/
def State.handleOf (s : State) (h : Nat) : Option Nat :=
  (indices s.bindings fun b => b.handle == h && (b.rd.isSome || b.wr.isSome)).head?

/-- A beat leaves the L2: a dirty one passes the write formula (R292, R305). A line of it that another beat in the L2 shares
keeps its poison. -/
def State.evictBeat (s : State) (i k : Nat) (parity : Bool) : State :=
  let b := s.binding i
  let key : L2Key := .bound b.handle k
  let dirty := s.l2.any fun x => x.key == key && x.dirty
  let bs := b.lines.readN (k * b.sizes.1) b.sizes.1
  let s := if dirty then
      s.writeBeat i k bs ((b.beatLines k).any b.poison.contains) parity (accordReader b.handle (s.beatAccord b k / 8))
    else s
  let l2 := s.l2.filter fun x => x.key != key
  let shared := fun (y : Nat) => l2.any fun x => match x.key with
    | .bound h j => h == b.handle && (b.beatLines j).contains y
    | .phys _ => false
  { s.modBinding i fun b =>
      { b with lines := b.lines.dropRange (k * b.sizes.1) b.sizes.1
               poison := b.poison.filter fun x => !(b.beatLines k).contains x || shared x } with
    l2 := l2 }

/-! ## The L2 of a die (R10, R292) -/

/-- The die whose L2 holds a line: its home die, or that of the Accord that processes a beat (R291, R452). -/
def State.keyDie (s : State) : L2Key → Nat
  | .phys l => s.homeDieOf (128 * l)
  | .bound h k => (s.handleOf h).elim 0 fun i => s.beatAccord (s.binding i) k / 8

/-- The lines that a key stands for: one, or the requester lines of a beat, by the handle and 1 more. -/
def State.keyLines (s : State) : L2Key → List (Nat × Nat)
  | .phys l => [(0, l)]
  | .bound h k => (s.handleOf h).elim [] fun i => ((s.binding i).beatLines k).map fun y => (h + 1, y)

/-- The L2 of a die has room for another line or beat. A beat of a binding has at most three lines. -/
def State.l2Fits (s : State) (key : L2Key) : Bool :=
  3 * (s.l2.length + 1) ≤ l2Lines ||
    decide ((((s.l2.filter fun x => s.keyDie x.key == s.keyDie key).flatMap (fun x => s.keyLines x.key) ++
      s.keyLines key).eraseDups).length ≤ l2Lines)

/-- A line or a beat leaves the L2. -/
def State.evict (s : State) : L2Key → State
  | .phys l => s.evictPhys l
  | .bound h k => match s.handleOf h with
    | some i => s.evictBeat i k false
    | none => { s with l2 := s.l2.filter fun x => x.key != .bound h k }

/-- Make room for a line or a beat: in a full L2 the oldest entries leave it, one after the other (R10). -/
def State.l2Room (s : State) (key : L2Key) : Nat → State
  | 0 => s
  | n + 1 =>
    if s.l2Fits key then s
    else match s.l2.find? fun x => s.keyDie x.key == s.keyDie key with
      | some x => (s.evict x.key).l2Room key n
      | none => s

/-- The L2 holds the line from now on, dirty after a write, with the CMPR of this translation where it filled or wrote
the line (R292, R373). -/
def State.touchL2 (s : State) (key : L2Key) (write cmpr : Bool) : State :=
  match s.l2.find? fun x => x.key == key with
  | none =>
    let s := s.l2Room key s.l2.length
    { s with l2 := s.l2 ++ [{ key := key, dirty := write, cmpr := cmpr }] }
  | some _ =>
    if write then { s with l2 := s.l2.map fun x => if x.key == key then { key := key, dirty := true, cmpr := cmpr } else x }
    else s

/-! ## Stores at the home slice -/

/-- Store bytes of one line of this package, given as offsets in the line: the scrub map, the L2 and, for a whole line,
the poison mark follow (R218, R365, R373). -/
def State.storeLine (s : State) (line : Nat) (cells : List (Nat × Byte)) (cmpr : Bool) : State :=
  let whole := (cells.map Prod.fst).eraseDups.length == 128
  let s := s.awaitMap (line / 512)
  let s := ({ s with mem := cells.foldl (fun m c => m.write (128 * line + c.1) c.2) s.mem } : State).markScrub line
  let s := s.touchL2 (.phys line) true cmpr
  if whole && s.linePsn line then s.setLineBit line 10 false else s

/-- Write the dirty bytes of a core's IP lines to memory: the others may be another core's (R93). -/
def State.writeBack (s : State) (ls : List L1Line) : State :=
  (ls.filter fun l => !l.dirty.isEmpty).foldl (fun (s : State) l =>
    s.storeLine l.line (l.dirty.map fun k => (k, l.data.getD k 0)) l.cmpr) s

/-- Put a line into a core's L1, in place of an earlier copy, or, in a full L1, of the oldest line, which is written back
(R9, R93). -/
def State.l1Put (s : State) (l : L1Line) : State :=
  let rest := s.l1.filter fun x => !(x.core == l.core && x.pkg == l.pkg && x.line == l.line)
  let mine := rest.filter fun x => x.core == l.core
  if mine.length < l1Lines then { s with l1 := rest ++ [l] }
  else
    let s := s.writeBack (mine.take 1)
    { s with l1 := rest.filter (fun x => !((mine.take 1).contains x)) ++ [l] }

/-- A thread has read or written bytes of a line at its home slice: a copy in its core's L1 can give it no earlier value of
them any more (R82, R216). -/
def State.patchCopy (s : State) (core pkg line : Nat) (cells : List (Nat × Byte)) : State :=
  { s with l1 := s.l1.map fun (l : L1Line) =>
      if l.core == core && l.pkg == pkg && l.line == line && !l.ip then { l with data := patch l.data cells } else l }

/-- A thread's store to a line (R82, R87, R93, R216): into the L1 for an IP page, else through to the home slice, with
the copy in the issuing core's own L1 updated. A store to a WO page is a whole line here. -/
def State.threadStore (s : State) (r : Req) (x : Xlat) (cells : List (Nat × Byte)) : State :=
  let line := lineOf x.pa
  if x.pkg != s.pkgId then { s with freeIx := s.freeIx + 1 }
  else if x.cm == 3 then
    let l := s.l1Find r.core x.pkg line
    let old := (l.map (·.data)).getD (s.mem.readN (128 * line) 128)
    let dirty := (cells.map Prod.fst ++ (l.map (·.dirty)).getD []).eraseDups
    s.l1Put { core := r.core, ctx := r.ctx, pkg := x.pkg, line := line, data := patch old cells, ip := true, dirty := dirty
              cmpr := x.cmpr, part := [] }
  else
    let s := (s.patchCopy r.core x.pkg line cells).storeLine line cells x.cmpr
    if x.cm == 2 then s.markWritten line else s

/-- A release has written some of the bytes of a line. -/
def State.released (s : State) (line : Nat) : Bool :=
  s.releases.any fun y => y.space == .mem && y.lo < 128 * line + 128 && 128 * line < y.lo + y.n

/-- What a thread's load of a line sees (R78, R82, R93): SC at the home slice; RC and written WO lines from the core's
L1 while a copy stays there, unless the load is an acquire; IP in the core's L1. With whether it was read at home. -/
def State.threadLine (s : State) (r : Req) (x : Xlat) (acquire : Bool) : List Byte × Bool × State :=
  let line := lineOf x.pa
  let y := { x with pa := 128 * line }
  if x.pkg != s.pkgId then (s.physBytes y 128, true, { s with freeIx := s.freeIx + 1 })
  else
    let home := s.physBytes y 128
    let s := s.touchL2 (.phys line) false x.cmpr
    let put := fun (s : State) (copy : L1Line) => (s.l1Put copy).copied r.core .mem (gransOf (128 * line) 128)
    let copy : L1Line := { core := r.core, ctx := r.ctx, pkg := x.pkg, line := line, data := home, ip := x.cm == 3
                           dirty := [], cmpr := x.cmpr, part := [] }
    match x.cm, s.l1Find r.core x.pkg line with
    | 0, _ => (home, true, s)
    | 3, some l => (l.data, false, s)
    | _, none => (home, true, put s copy)
    | _, some l =>
      if acquire || (l.data == home && !s.released line) then (home, true, put s copy)
      else
        let c := s.choose
        if c.1 then (l.data, false, c.2) else (home, true, put c.2 copy)

/-- Write a core's dirty IP lines of a context to memory (R93). -/
def State.flushIp (s : State) (core ctx : Nat) : State :=
  let mine := fun (l : L1Line) => l.core == core && l.ctx == ctx && l.ip
  let s := s.writeBack (s.l1.filter mine)
  { s with l1 := s.l1.map fun l => if mine l then { l with dirty := [] } else l }

/-- Discard a core's clean IP lines of a context (R93). -/
def State.dropIp (s : State) (core ctx : Nat) : State :=
  { s with l1 := s.l1.filter fun l => !(l.core == core && l.ctx == ctx && l.ip && l.dirty.isEmpty) }

/-- A scene of a context comes to a core, by its launch or its readmission: no copy in the L1 is older than what the
scene's threads have to see there (R82, R93, R99, R216). -/
def State.enterCore (s : State) (core ctx : Nat) : State := ((s.flushIp core ctx).dropIp core ctx).acquireL1 core

/-! ## Beats in the L2 -/

/-- Keep a beat in the L2. -/
def State.keepBeat (s : State) (i k : Nat) (bs : List Byte) (psn : Bool) : State :=
  let b := s.binding i
  (s.modBinding i fun b =>
    { b with lines := b.lines.writeN (k * b.sizes.1) bs
             poison := if psn then (b.beatLines k).foldl (fun l x => insertNat x l) b.poison else b.poison }).touchL2
    (.bound b.handle k) false false

/-- The requester form of a beat: from the L2, or through the read formula, after which the L2 holds it unless the
binding is stateful (R294, R308). -/
def State.boundBeat (s : State) (i k : Nat) (why : Reader) : Except FaultInfo (List Byte × Bool) × State :=
  let b := s.binding i
  if s.beatIn b k then
    (.ok (b.lines.readN (k * b.sizes.1) b.sizes.1, (b.beatLines k).any b.poison.contains), s)
  else
    let q := s.readBeat i k false why
    match q.1 with
    | .ok (bs, psn) => (q.1, if b.stateful then q.2 else q.2.keepBeat i k bs psn)
    | .error _ => q

/-- Why a read of a beat is refused (R294, R311): its detail. -/
def State.boundReadFault (s : State) (i k : Nat) : Option Nat :=
  if s.beatBarred (s.binding i) k then some 0x0304 else if (s.binding i).rd.isNone then some 0x0301 else none

/-- A beat for a read of the requester form (R294, R311). -/
def State.boundRequest (s : State) (i k : Nat) (why : Reader) : Except FaultInfo (List Byte × Bool) × State :=
  match s.boundReadFault i k with
  | some d => (.error { kind := 2, va := (s.binding i).base + k * (s.binding i).sizes.1, detail := d }, s)
  | none => s.boundBeat i k why

/-- The beats that one line request reads, in ascending order, each processed once (R294, R309). -/
def State.boundRequests (s : State) (i : Nat) (ks : List Nat) (why : Reader) :
    List (Nat × Except FaultInfo (List Byte × Bool)) × State :=
  (ks.foldl (fun l k => insertNat k l) []).foldl (fun acc k =>
    let q := acc.2.boundRequest i k why
    (acc.1 ++ [(k, q.1)], q.2)) ([], s)

/-- Bytes of a beat from a requester offset on, and their poison: the line's, where the L2 keeps the beat. -/
def State.beatPart (s : State) (i off n : Nat) (beat : List Byte × Bool) : List Byte × Bool :=
  let b := s.binding i
  let k := off / b.sizes.1
  ((beat.1.drop (off % b.sizes.1)).take n, if s.beatIn b k then b.poison.contains (off / 128) else beat.2)

/-- Bytes of the requester form, at most those of one beat, as an agent sees them on a page of a type, and their poison. -/
def State.boundRead (s : State) (i off n cm : Nat) (why : Reader) : Except FaultInfo (List Byte × Bool) × State :=
  let q := s.boundRequest i (off / (s.binding i).sizes.1) why
  match q.1 with
  | .error f => (.error { f with va := (s.binding i).base + off }, q.2)
  | .ok beat =>
    let p := q.2.beatPart i off n beat
    let v := if cm == 1 then q.2.seeAt why (.bound (s.binding i).handle) off p.1 else (p.1, q.2)
    (.ok (v.1, p.2), v.2)

/-- The requester form of a beat before a write of it. -/
def State.beatNow (s : State) (i k : Nat) (why : Reader) : List Byte :=
  match (s.boundRequest i k why).1 with
  | .ok beat => beat.1
  | .error _ => []

/-- Whether a write of some bytes of a beat covers every requester byte of it below EXTENT (R293). -/
def Binding.covers (b : Binding) (k : Nat) (cells : List (Nat × Byte)) : Bool :=
  let rb := b.sizes.1
  (List.range rb).all fun j => b.extent ≤ k * rb + j || cells.any fun c => c.1 == k * rb + j

/-- Why a write to a beat is refused (R294): its detail. -/
def State.boundWriteFault (s : State) (i k : Nat) (cells : List (Nat × Byte)) : Option Nat :=
  let b := s.binding i
  if s.beatBarred b k then some 0x0304
  else if b.wr.isNone then some 0x0301
  else if !s.beatIn b k && !b.covers k cells && b.rd.isNone then some 0x0300
  else none

/-- A beat before a write of some bytes of it: brought in where it is absent and not covered; zeros for one that is covered,
which stand beyond EXTENT (R293, R294). -/
def State.boundFill (s : State) (i k : Nat) (cells : List (Nat × Byte)) (why : Reader) :
    Except FaultInfo (List Byte × Bool) × State :=
  if (s.binding i).covers k cells then (.ok (List.replicate (s.binding i).sizes.1 0, false), s) else s.boundBeat i k why

/-- The beats of one line request before its writes, in ascending order (R309): each with the cells that it writes. -/
def State.boundFills (s : State) (i : Nat) (parts : List (Nat × List (Nat × Byte))) (why : Reader) :
    List (Nat × Except FaultInfo (List Byte × Bool)) × State :=
  parts.foldl (fun acc p =>
    let q := acc.2.boundFill i p.1 p.2 why
    (acc.1 ++ [(p.1, q.1)], q.2)) ([], s)

/-- Some cells cover every byte of a requester line below EXTENT. -/
def Binding.coversLine (b : Binding) (y : Nat) (cells : List (Nat × Byte)) : Bool :=
  (List.range 128).all fun j => b.extent ≤ 128 * y + j || cells.any fun c => c.1 == 128 * y + j

/-- A write of some cells covers a part of a poisoned requester line (R218): one that the L2 holds poisoned, or of a beat
just brought in. -/
def State.boundPoisons (s : State) (i : Nat) (cells : List (Nat × Byte))
    (beats : List (Nat × Except FaultInfo (List Byte × Bool))) : Bool :=
  let b := s.binding i
  let hurt := b.poison ++ beats.flatMap fun y => match y.2 with
    | .ok (_, true) => if s.beatIn b y.1 then [] else b.beatLines y.1
    | _ => []
  ((cells.map fun c => c.1 / 128).eraseDups).any fun y => hurt.contains y && !b.coversLine y cells

/-- Requester lines that some cells cover whole are poisoned no more (R218). -/
def State.boundClean (s : State) (i : Nat) (cells : List (Nat × Byte)) : State :=
  s.modBinding i fun b => { b with poison := b.poison.filter fun y => !b.coversLine y cells }

/-- Write bytes of the requester form, all of one beat, given by requester offsets, over what stood there (R294, R308);
`psn` poisons the lines (R229). On an RC page what stood there can still be seen by other path classes (R97, R292). -/
def State.boundPut (s : State) (i k : Nat) (cells : List (Nat × Byte)) (beat : List Byte × Bool) (psn : Bool) (cm : Nat)
    (why : Reader) : State :=
  let b := s.binding i
  let rb := b.sizes.1
  let new := patch beat.1 (cells.map fun c => (c.1 - k * rb, c.2))
  let before := if b.stateful || cm != 1 then [] else if b.covers k cells then s.beatNow i k why else beat.1
  let s := if before.isEmpty then s
    else s.keepOld (.bound b.handle) why (cells.map fun c => c.1 / 16) fun p => before.getD (p - k * rb) 0
  if b.stateful then s.writeBeat i k new (beat.2 || psn) false why
  else
    let s := (s.touchL2 (.bound b.handle k) true false).modBinding i fun b =>
      { b with lines := b.lines.writeN (k * rb) new }
    if psn then s.modBinding i fun b => { b with poison := (cells.map fun c => c.1 / 128).foldl (fun l x => insertNat x l) b.poison }
    else s

/-- The L1 line that holds a copy of a line of a binding: its number among the packages (R292). -/
def Binding.l1Key (b : Binding) : Nat := 0x1000 + b.handle

/-- A thread's load of some bytes of one line of a binding, given by requester offsets and lengths, on a page of a type:
the beats at home, each processed once, or the copy in the core's L1 (R82, R292, R294, R309). -/
def State.boundLoad (s : State) (i core ctx line : Nat) (cm : Nat) (acquire : Bool) (parts : List (Nat × Nat))
    (why : Reader) : List (Except FaultInfo (List Byte × Bool)) × Bool × State :=
  let b := s.binding i
  let place := fun (o : Nat) => (b.base + o) % 128
  let offs := parts.flatMap fun p => (List.range p.2).map fun j => p.1 + j
  let home := fun (s : State) =>
    let q := s.boundRequests i (parts.map fun p => p.1 / b.sizes.1) why
    let out := parts.map fun p => match q.1.find? fun x => x.1 == p.1 / b.sizes.1 with
      | some (_, .ok beat) => .ok (q.2.beatPart i p.1 p.2 beat)
      | some (_, .error e) => .error e
      | none => .ok ([], false)
    let got := (parts.zip out).flatMap fun x => match x.2 with
      | .ok (bs, false) => bs.zipIdx.map fun y => (place (x.1.1 + y.2), y.1)
      | _ => []
    (out, true, if cm == 1 && got.length == offs.length then
        (q.2.l1Put { core := core, ctx := ctx, pkg := b.l1Key, line := line, ip := false, dirty := [], cmpr := false
                     data := patch (List.replicate 128 0) got, part := (got.map Prod.fst).eraseDups }).copied core
          (.bound b.handle) (offs.map (· / 16)).eraseDups
      else q.2)
  match s.l1Find core b.l1Key line with
  | some l =>
    if cm != 1 || acquire || !(offs.all fun o => l.part.contains (place o)) then home s
    else
      let c := s.choose
      if c.1 then
        (parts.map fun p => .ok ((List.range p.2).map fun j => l.data.getD (place (p.1 + j)) 0, false), false, c.2)
      else home c.2
  | none => home s

/-- The beats of a binding that the L2 holds. -/
def State.heldBeats (s : State) (handle : Nat) : List Nat :=
  s.l2.filterMap fun x => match x.key with
    | .bound h k => if h == handle then some k else none
    | .phys _ => none

end Sys2Proof.Machine
end

