-- ==== Sys2Proof/Machine/Operands.lean ====
section
/-! DEFINITION. Operand forms: what a selector delivers in a lane (R140 to R142), where a result goes and when (R57, R58,
R143), and how a word issues (R31, R32, R53, R56, R139). -/

namespace Sys2Proof.Machine

/-- The FP32 constants of selectors 0x1C0 to 0x1CF (R142). -/
def constPattern (k : Nat) : Word :=
  [0x3E800000, 0x3F000000, 0x3F800000, 0x40000000, 0x40800000, 0xBF000000, 0xBF800000, 0xC0000000, 0xC0800000,
   0x3B808081, 0x3F317218, 0x3FB8AA3B, 0x40490FDB, 0x7F800000, 0xFF800000, 0x7FC00000].getD k (0 : Word)

/-- Register k from a selector on, in a lane: the word that a multi-register operand holds there (R51, R140). -/
def State.opndWord (s : State) (th : Nat) (x : Sel) (k : Nat) : Word :=
  let t := s.thread th
  match selClass x with
  | .main => t.reg (selReg x + k)
  | .operand => t.o.toList.getD (selReg x + k) 0
  | .latch => (t.latch.toList.getD (selReg x) 0 >>> (32 * k)).setWidth 32
  | .uniform => (s.scene t.scene).uniReg (selReg x + k)
  | .special =>
    if k != 0 then 0
    else if selReg x == 0 then BitVec.ofNat 32 t.colour
    else if selReg x == 1 then BitVec.ofNat 32 t.tid
    else (s.scene t.scene).sid
  | .pred => if k == 0 && t.pred (selReg x) then 1 else 0
  | .integer => if k == 0 then BitVec.ofNat 32 (selReg x) else 0
  | .float => if k == 0 then constPattern (selReg x) else 0
  | _ => 0

/-- The 32-bit source value of a selector (`opnd` of R148). -/
def State.opnd (s : State) (th : Nat) (x : Sel) : Word := s.opndWord th x 0

/-- The 64-bit source value of a selector (`opnd64` of R148). -/
def State.opnd64 (s : State) (th : Nat) (x : Sel) : DWord := s.opndWord th x 1 ++ s.opndWord th x 0

/-- A source of one or two registers as a number. -/
def State.opndN (s : State) (th : Nat) (x : Sel) (n : Nat) : Nat :=
  (List.range n).foldl (fun acc k => acc + (s.opndWord th x k).toNat * 2 ^ (32 * k)) 0

/-- Where register k of a result goes; none where the selector discards it (R140). -/
def destOf (x : Sel) (k : Nat) : Option Dest :=
  match selClass x with
  | .main => some (.v (selReg x + k))
  | .operand => some (.o (selReg x + k))
  | .uniform => some (.s (selReg x + k))
  | .pred => some (.p (selReg x))
  | _ => none

/-- The words of a number, lowest first. -/
def wordsOf (n x : Nat) : List Word := (List.range n).map fun k => BitVec.ofNat 32 (x / 2 ^ (32 * k))

/-- What an instruction computes in one lane: the words of its result, a result that a predicate may take, flags of
FPSR, and writes beside D. -/
structure LaneRes where
  words : List Word := []
  pred  : Option Bool := none
  flags : Nat := 0
  extra : List (Dest × DWord) := []
  deriving DecidableEq, Repr, Inhabited

/-- A word as its meaning sees it: the take, the address and position of the word, and the active lanes with their
threads, in ascending order (R139). -/
structure WordCtx where
  instr : Instr
  addr  : DWord
  pos   : Nat
  tk    : Nat
  scene : Nat
  core  : Nat
  /-- it issues on pipe B -/
  pipeB : Bool
  lanes : List (Nat × Nat)
  /-- lanes that have met a register word in error and leave the instruction (R372) -/
  hurt  : List (Nat × Nat) := []
  deriving DecidableEq, Repr, Inhabited

/-- The context of the word's scene. -/
def WordCtx.ctx (x : WordCtx) (s : State) : Nat := (s.scene x.scene).ctx

/-- The lowest active non-helper lane and its thread: the reporting lane (R229, R271). -/
def WordCtx.reporter (x : WordCtx) (s : State) : Option (Nat × Nat) := x.lanes.find? fun l => !(s.thread l.2).helper

/-- The lanes below a colour that have met a register word in error, and have not left the take yet, raise DATA (R372). -/
def WordCtx.postHurt (x : WordCtx) (s : State) (below : Nat) : State :=
  (x.hurt.filter fun l => l.1 < below && (s.thread l.2).place == .take x.tk).foldl
    (fun s l => s.takeFault l.2 0x0C x.addr (some x.pos) 0xFFFF 0 0x0606) s

/-- A fault of a lane at this word (R378), after those of lower lanes that met a register word in error (R383). -/
def WordCtx.fault (x : WordCtx) (s : State) (th kind buf va detail : Nat) : State :=
  (x.postHurt s (((x.lanes.find? fun l => l.2 == th).map Prod.fst).getD 32)).takeFault th kind x.addr (some x.pos) buf va detail

/-- One lane's fault of an instruction: its thread, its fault and its buffer index. -/
structure LaneFault where
  thread : Nat
  info   : FaultInfo
  buf    : Nat
  deriving DecidableEq, Repr, Inhabited

/-- Faults of several lanes, posted in ascending lane order (R67, R383). -/
def WordCtx.faults (x : WordCtx) (s : State) (fs : List LaneFault) : State :=
  fs.foldl (fun s f => x.fault s f.thread f.info.kind f.buf f.info.va f.info.detail) s

/-- The same fault in every active lane. -/
def WordCtx.faultAll (x : WordCtx) (s : State) (kind buf va detail : Nat) : State :=
  x.faults s (x.lanes.map fun l => { thread := l.2, info := { kind := kind, va := va, detail := detail }, buf := buf })

/-- A fault of an instruction that acts once for the take: the reporting lane posts it and the other active lanes are
its companions (R379). -/
def WordCtx.faultOnce (x : WordCtx) (s : State) (kind buf va detail : Nat) : State :=
  match x.reporter s with
  | none => s
  | some r =>
    let s := x.fault s r.2 kind buf va detail
    (x.lanes.filter fun l => l.2 != r.2).foldl (fun s l => s.takeCompanion l.2 r.2 x.addr (some x.pos)) s

/-- Cycles until a latch and a register of the group can be read (R143). -/
def groupDelay : Group → Nat × Nat
  | .short => (1, 4)
  | .long => (3, 6)
  | .variable => (0, 0)

/-- Send a lane's result to the word's latch, which takes it whether or not NW is set, and 0 or 1 where a predicate takes it
(R57). -/
def WordCtx.sendLatch (x : WordCtx) (s : State) (th : Nat) (r : LaneRes) : State :=
  if r.words.isEmpty then s
  else s.later (s.clock + (groupDelay (opGroup x.instr.opcode)).1)
    { thread := th, dest := .b (x.pos % 4), value := r.words.getD 1 0 ++ r.words.getD 0 0 }

/-- Send a lane's result to D (R143). A result that a uniform register takes goes there at once, from the lowest active
lane (R141). -/
def WordCtx.sendDest (x : WordCtx) (d : Sel) (lowest : Bool) (s : State) (th : Nat) (r : LaneRes) : State :=
  let due := s.clock + (groupDelay (opGroup x.instr.opcode)).2
  match selClass d with
  | .pred => match r.pred with
    | some b => s.later due { thread := th, dest := .p (selReg d), value := if b then 1 else 0 }
    | none => s
  | .uniform =>
    if lowest then
      (r.words.zipIdx).foldl (fun s w =>
        s.pipeWrite x.pipeB { thread := th, dest := .s (selReg d + w.2), value := w.1.setWidth 64 }) s
    else s
  | _ => (r.words.zipIdx).foldl (fun s w => match destOf d w.2 with
    | some t => s.later due { thread := th, dest := t, value := w.1.setWidth 64 }
    | none => s) s

/-- Send the result of one lane on its way: its flags, its latch, D unless NW is set, and its writes beside D (R57,
R112, R143). DESIGN CHOICE (log 84): the flags of a Short or Long word enter FPSR at its issue, so that an `RDSPEC` within its
latency reads or clears them. -/
def WordCtx.sendLane (x : WordCtx) (d : Sel) (nw lowest : Bool) (s : State) (th : Nat) (r : LaneRes) : State :=
  let s := x.sendLatch (s.orFlags th r.flags) th r
  let s := if nw then s else x.sendDest d lowest s th r
  r.extra.foldl (fun (s : State) e =>
    s.later (s.clock + (groupDelay (opGroup x.instr.opcode)).2) { thread := th, dest := e.1, value := e.2 }) s

/-- Count a cue flag that a Short or Long word names: up at issue, down with its result (R139). -/
def WordCtx.countCue (x : WordCtx) (s : State) : State :=
  match x.instr.cueFlag with
  | none => s
  | some c =>
    let del := groupDelay (opGroup x.instr.opcode)
    x.lanes.foldl (fun s l =>
      (s.raiseCue l.2 c).later (s.clock + del.2) { thread := l.2, dest := .cue c, value := 0 }) s

/-- A per-lane instruction of the Short or Long group: every lane's result is computed from the operands of all lanes
as they stand, and only then is any result sent (R143, R166). -/
def WordCtx.alu (x : WordCtx) (d : Sel) (nw : Bool) (s : State) (f : Nat → Nat → LaneRes) : State :=
  let rs := x.lanes.map fun l => (l, f l.1 l.2)
  let s := x.countCue s
  (rs.zipIdx).foldl (fun s r => x.sendLane d nw (r.2 == 0) s r.1.1.2 r.1.2) s

/-- Start an instruction of the Variable group: its cue flag rises in its lanes, and it stands among the operations
until it completes (R139, R144). -/
def WordCtx.start (x : WordCtx) (s : State) (args : List Nat) (writes : List RegWrite := [])
    (flags : List (Nat × Nat) := []) (daily : Option Daily := none) : State :=
  let s : State := match x.instr.cueFlag with
    | none => s
    | some c => x.lanes.foldl (fun (s : State) l => s.raiseCue l.2 c) s
  { s with ops := s.ops ++ [{ instr := x.instr, ctx := x.ctx s, scene := x.scene, core := x.core, lanes := x.lanes
                              cue := x.instr.cueFlag, pipeB := x.pipeB, pc := x.addr, pcOff := x.addr.toNat - (s.scene x.scene).code
                              issued := s.clock, args := args, writes := writes, flags := flags, progress := 0
                              lost := [], tainted := [], held := none, wo := none, done := false, met := [], silent := false, rel := none
                              daily := daily }] }

/-- The writes of one lane's result to D of a Variable instruction (R144); `nw` leaves none. -/
def laneWrites (d : Sel) (nw : Bool) (th : Nat) (ws : List Word) : List RegWrite :=
  if nw then []
  else (ws.zipIdx).filterMap fun w => (destOf d w.2).map fun t =>
    { thread := th, dest := t, value := w.1.setWidth 64 }

/-- The writes of every lane's result: a uniform register takes the lowest lane's (R141). -/
def allWrites (d : Sel) (nw : Bool) (rs : List (Nat × List Word)) : List RegWrite :=
  match selClass d, rs with
  | .uniform, r :: _ => laneWrites d nw r.1 r.2
  | _, _ => rs.flatMap fun r => laneWrites d nw r.1 r.2

/-- An instruction's own FIFO value written to every active lane (R271). -/
def sameWrites (d : Sel) (nw : Bool) (lanes : List (Nat × Nat)) (ws : List Word) : List RegWrite :=
  allWrites d nw (lanes.map fun l => (l.2, ws))

/-- How a word ended. -/
inductive WordRes where
  /-- it has issued; the clause goes on after it -/
  | done (s : State)
  /-- it must wait, and holds its pipe (R32) -/
  | hold (h : Hold)
  /-- a step of a stepped word has begun and must wait inside it -/
  | holdAt (s : State) (h : Hold)
  /-- a step of a stepped word has issued and more steps follow (R34) -/
  | more (s : State)
  /-- a stepped word whose unit is busy leaves its pipe (R270) -/
  | leave

/-- Do something to the state in which a word has issued. -/
def WordRes.after (r : WordRes) (f : State → State) : WordRes :=
  match r with
  | .done s => .done (f s)
  | .hold h => .hold h
  | .holdAt s h => .holdAt (f s) h
  | .more s => .more (f s)
  | .leave => .leave

/-- What a step may answer. -/
abbrev Out := Host.Outcome State Fault Refusal

/-- The cycle at which a word issues: word 0 now, a later word after its distance (R139). -/
def issueAt (s : State) (t : Take) (i : Instr) : Nat :=
  if t.pos == 0 || t.st == .suspended then s.clock else max s.clock (t.last + i.dist + 1)

/-- The lanes in which a word is active (R139). -/
def activeLanes (s : State) (t : Take) (i : Instr) : List (Nat × Nat) :=
  t.lanes.filter fun l => i.guard.1 == 0 || ((s.thread l.2).pred i.guard.1 != i.guard.2)

/-- A word reaches memory, in any space and by any unit, or is privileged: `REFILL`, and all from `LOOPN` on (R209, R212,
R349). -/
def reachesMemory (op : Nat) : Bool := op == 0x3C || 0x6F ≤ op

/-- A word holds for a cue counter at 255 that it would raise, which a stepped word does in its first step alone (R56), for
an absent register line (R54), or, when it reaches memory or is privileged, for a privileged instruction of its thread that
has not completed (R397). `begun` says that steps of it are behind it. -/
def wordHolds (s : State) (begun : Bool) (lanes : List (Nat × Nat)) (i : Instr) : Bool :=
  (match i.cueFlag with
    | none => false
    | some c => !begun && lanes.any fun l => (s.thread l.2).cueOf c ≥ 255) ||
  lanes.any (fun l => i.lines.any fun n => !(s.thread l.2).cached.contains n) ||
  (reachesMemory i.opcode &&
    s.ops.any fun o => !o.done && 0xE0 ≤ o.instr.opcode && o.lanes.any fun a => lanes.any fun l => l.2 == a.2)

/-- The clause of a take is over: its pipe is free and the take goes on at `pc`. -/
def State.endClause (s : State) (tk : Nat) (pc : DWord) : State :=
  s.modTake tk fun t => { t with st := if t.lanes.isEmpty then .ended else .waiting, pc := pc, pos := 0, cnt := 0
                                 holds := 0, hold := .free, progress := 0, inStep := false }

/-- Step a take past a word that has issued at the present cycle. A take that no longer issues has been moved by its
word. -/
def State.pastWord (s : State) (tk : Nat) (i : Instr) (addr : DWord) : State :=
  let t := s.take tk
  match t.st with
  | .issuing _ =>
    let s := s.modTake tk fun t => { t with pos := t.pos + i.words, last := s.clock, progress := 0, inStep := false }
    if t.cnt ≤ t.pos + i.words then s.endClause tk (addr + BitVec.ofNat 64 (8 * i.words)) else s
  | _ => s

/-- A word holds its pipe for one cycle; one that must still wait when the allowance of 64 is spent suspends its clause
(R32). -/
def State.holdWord (s : State) (tk : Nat) (h : Hold) : State :=
  if 64 ≤ (s.take tk).holds then s.modTake tk fun t => { t with st := .suspended, hold := h }
  else ({ s with clock := s.clock + 1 } : State).modTake tk fun t => { t with holds := t.holds + 1, hold := h }

/-- The register lines that a word names in its active lanes are used now (R54). -/
def State.useLines (s : State) (i : Instr) (lanes : List (Nat × Nat)) : State :=
  if i.lines.isEmpty then s
  else lanes.foldl (fun (s : State) l => s.modThread l.2 fun t =>
    { t with used := i.lines.foldl (fun u n => u.set n s.clock) t.used }) s

/-- The rows of code that a word of a scene stands in are used now on its core (R396). -/
def State.useRows (s : State) (sc core : Nat) (addr : DWord) (words : Nat) : State :=
  let c := s.scene sc
  let off := (addr - BitVec.ofNat 64 c.code).toNat
  let mine := fun (r : CodeRow) => r.core == core && r.ctx == c.ctx && r.kernel == c.kernel &&
    (r.code == off / 4096 || r.code == (off + 8 * words - 1) / 4096)
  { s with codeRows := s.codeRows.map fun r => if mine r then { r with used := s.clock } else r }

/-- A word reads its operand registers in a lane: of a fragment load only the lanes that supply rows do (R226). -/
def readsIn (i : Instr) (colour : Nat) : Bool :=
  match i with
  | .ldsm w => colour % 4 < fragN w
  | .ldsmt w => colour % 4 < fragN w
  | _ => true

/-- A word meets a register word in error in a lane: it reads it, or writes a part of it (R372). -/
def meetsError (i : Instr) (colour : Nat) (bad : List Nat) : Bool :=
  !bad.isEmpty && ((readsIn i colour && i.srcRegs.any bad.contains) || (i.control false).any bad.contains ||
    (i.guard.1 != 0 && bad.contains predWord))

/-- The lanes of a word that meet a register word in error leave it with DATA; the word acts in the others (R372). -/
def WordCtx.dropHurt (x : WordCtx) (s : State) : WordCtx :=
  let hurt := x.lanes.filter fun l => meetsError x.instr l.1 (s.thread l.2).bad
  if hurt.isEmpty then x else { x with lanes := x.lanes.filter fun l => !hurt.contains l, hurt := hurt }

/-- The state in which a word issues: the clock stands at its issue cycle, and every result that is due has arrived
(R139, R143). -/
def State.issue (s : State) (c : Cur) (i : Instr) : State :=
  ({ s with clock := issueAt s (s.take c.take) i, cur := none } : State).settle (issueAt s (s.take c.take) i)

/-- A word as its meaning sees it, in the state in which it issues. -/
def State.wordCtx (s : State) (c : Cur) (i : Instr) : WordCtx :=
  { instr := i, addr := c.addr, pos := c.pos, tk := c.take, scene := (s.take c.take).scene, core := (s.take c.take).core
    pipeB := (s.take c.take).st == .issuing true
    lanes := activeLanes s (s.take c.take) i }

/-- A main register that the word names lies beyond the scene's count (R53). -/
def WordCtx.outside (x : WordCtx) (s : State) : Bool := x.instr.regs.any fun k => (s.scene x.scene).regs ≤ k

/-- What the answer of a word's body comes to. -/
def WordRes.settle (r : WordRes) (s : State) (c : Cur) (i : Instr) : State :=
  match r with
  | .done t => t.pastWord c.take i c.addr
  | .hold h => s.holdWord c.take h
  | .holdAt t h => (t.modTake c.take fun k => { k with inStep := true }).holdWord c.take h
  | .more t => t.modTake c.take fun k => { k with last := t.clock, holds := 0, hold := .free, inStep := false }
  | .leave => s.modTake c.take fun k => { k with st := .suspended, hold := .stream }

/-- Issue a word of the take under way and give it its effect. A word that must wait holds its pipe; a word that reads
or writes a main register beyond the scene's count raises REGBOUND in every active lane and does nothing (R53); a lane
that reads a register word in error raises DATA (R372). -/
def runWord (i : Instr) (s : State) (body : WordCtx → State → WordRes) : Out :=
  match s.cur with
  | none => .fault .noIssuingTake
  | some c =>
    let u := s.issue c i
    let x := u.wordCtx c i
    if x.outside u then .next ((x.faultAll u 0x12 0xFFFF 0 0).pastWord c.take i c.addr)
    else if wordHolds u ((u.take c.take).progress != 0) x.lanes i then .next (u.holdWord c.take .free)
    else
      let v := (u.useLines i x.lanes).useRows x.scene x.core x.addr i.words
      let y := x.dropHurt v
      .next (((body y v).after fun t => y.postHurt t 32).settle (y.postHurt v 32) c i)

/-- Issue a control word, the last of its clause: the take stands at the next clause when `body` moves it (R171). -/
def runControl (i : Instr) (s : State) (body : WordCtx → State → WordRes) : Out :=
  runWord i s fun x s =>
    body x ((s.endClause x.tk (x.addr + 8)).modTake x.tk fun t => { t with last := s.clock })

end Sys2Proof.Machine
end

