-- ==== Sys2Proof/Machine/Spad.lean ====
section
/-! DEFINITION. The scratchpad of a scene: its allocation and exchange banks, the state of its lines and the words in
error (R68 to R73, R95, R372). -/

namespace Sys2Proof.Machine

/-- Where an address of S space stands in the scene's store: the allocation, then the front bank (R72). -/
def Scene.spPhys (c : Scene) (a : Nat) : Nat := if a < c.alloc || !c.front then a else a + c.win

/-- Where an offset of the back bank stands (R72). -/
def Scene.backPhys (c : Scene) (o : Nat) : Nat := if c.front then c.alloc + o else c.alloc + c.win + o

/-- The access lies wholly in the allocation or the front bank (R70). -/
def Scene.spIn (c : Scene) (a n : Nat) : Bool := a + n ≤ c.alloc + c.win

/-- The lines, by their number in the store, that a range of S space touches. -/
def Scene.spLines (c : Scene) (a n : Nat) : List Nat :=
  (List.range ((a % 128 + n + 127) / 128)).map fun i => c.spPhys (a / 128 * 128 + 128 * i) / 128

/-- A line of the range is empty (R71). -/
def Scene.spEmpty (c : Scene) (a n : Nat) : Bool := (c.spLines a n).any c.empty.contains

/-- A line of the range is poisoned (R71). -/
def Scene.spPoisoned (c : Scene) (a n : Nat) : Bool := (c.spLines a n).any c.poison.contains

/-- The words in error that a range touches (R372). -/
def Scene.badWords (c : Scene) (a n : Nat) : List Nat :=
  c.bad.filter fun w => (List.range n).any fun i => c.spPhys (a + i) / 4 == w

/-- A range touches a word in error. -/
def Scene.spBad (c : Scene) (a n : Nat) : Bool := !(c.badWords a n).isEmpty

/-- A word in error that the range covers only in part (R372). -/
def Scene.spBadPart (c : Scene) (a n : Nat) : Bool :=
  (c.badWords a n).any fun w => ((List.range n).filter fun i => c.spPhys (a + i) / 4 == w).length < 4

/-- Bytes of S space. -/
def Scene.spRead (c : Scene) (a n : Nat) : List Byte := (List.range n).map fun i => c.sp.read (c.spPhys (a + i))

/-- A number in S space (R2). -/
def Scene.spNum (c : Scene) (a n : Nat) : Nat := leNat (c.spRead a n)

/-- Store bytes at places of the store; a word in error that is written whole is repaired (R372). -/
def Scene.storePhys (c : Scene) (cells : List (Nat × Byte)) : Scene :=
  { c with
    sp := cells.foldl (fun m x => m.write x.1 x.2) c.sp
    bad := c.bad.filter fun w => ((cells.filter fun x => x.1 / 4 == w).length) < 4 }

/-- Store bytes in S space. -/
def Scene.spWrite (c : Scene) (a : Nat) (bs : List Byte) : Scene :=
  c.storePhys (bs.zipIdx.map fun x => (c.spPhys (a + x.2), x.1))

/-- Make a line full; poison marks it, or is cleared by a write of the whole line (R71). -/
def Scene.fillLine (c : Scene) (line : Nat) (whole poisoned : Bool) : Scene :=
  { c with
    empty := c.empty.filter (· != line)
    poison := if poisoned then insertNat line c.poison
      else if whole then c.poison.filter (· != line) else c.poison }

/-- Make a line empty and unpoisoned (R71). -/
def Scene.emptyLine (c : Scene) (line : Nat) : Scene :=
  { c with empty := insertNat line c.empty, poison := c.poison.filter (· != line) }

/-- The swizzle of R69: mode 0 is `SW0`, 1 to 3 shift by 7 to 9. -/
def swz (a mode : Nat) : Nat := if mode == 0 then a else a ^^^ (a / 2 ^ (6 + mode) % 8 * 16)

/-- Extra cycles that a scratchpad access takes: the most distinct words that fall in one bank, less one (R70). -/
def bankCycles (words : List Nat) : Nat :=
  let ws := words.eraseDups
  ws.foldl (fun m w => max m ((ws.filter fun v => v % 32 == w % 32).length)) 1 - 1

/-- A scratchpad access holds its pipe through its extra cycles, which count as holds of the clause; a word for which
the allowance left is too small does not begin (R70). None when it does not begin. -/
def spadCycles (x : WordCtx) (s : State) (extra : Nat) : Option State :=
  if (s.take x.tk).holds + extra > 64 then none
  else some (({ s with clock := s.clock + extra } : State).modTake x.tk fun t => { t with holds := t.holds + extra })

end Sys2Proof.Machine
end

