-- ==== Sys2Proof/Machine/Access.lean ====
section
/-! DEFINITION. A thread's access to global memory, lane by lane and line by line (R67, R217, R218, R440), and what an
instruction of the MEM class does with the outcome of each lane. -/

namespace Sys2Proof.Machine

/-- The requests of the lanes of a word. -/
def WordCtx.req (x : WordCtx) (s : State) : Req := coreReq (x.ctx s) x.core

/-! ## Watchpoints (R440, R441) -/

/-- The lowest entry that an access of `w` bytes matches, with the mask of watched bytes. -/
def Ctx.watchHit (c : Ctx) (va w : Nat) (read write : Bool) : Option (Nat × Nat) :=
  (List.range 16).findSome? fun e =>
    let l := (c.wpLine.toList.getD e 0).toNat
    let m := (c.wpMask0.toList.getD e 0).toNat + (c.wpMask1.toList.getD e 0).toNat * 2 ^ 64
    let hit := (List.range w).filter fun i => (va + i) / 128 % 2 ^ 50 == l % 2 ^ 50 && bitOf m ((va + i) % 128)
    if bitOf l 52 && ((read && bitOf l 50) || (write && bitOf l 51)) && !hit.isEmpty then
      some (e, hit.foldl (fun acc i => acc + (if i < 16 then 2 ^ i else 0)) 0)
    else none

/-- The WATCH fault of a lane's access, if the page is watched and the thread is not exempt (R440, R441). -/
def State.watchFault (s : State) (x : WordCtx) (xl : Xlat) (th va w : Nat) (read write : Bool) : Option FaultInfo :=
  if !xl.watch || x.ctx s == supCtx || (s.thread th).exempt == some x.addr then none
  else ((s.ctx (x.ctx s)).watchHit va w read write).map fun h =>
    { kind := 0x15, va := va, detail := packFields [(4, h.1), (1, b2n write), (4, w - 1), (7, 0), (16, h.2)] }

/-! ## Order (R77, R80 to R85, R91) -/

/-- The order and the scope that an access carries (R77). -/
structure MemOrder where
  acq   : Bool
  rel   : Bool
  scope : Nat
  deriving DecidableEq, Repr, Inhabited

/-- The order of a format-M word (R77). -/
def mOrder (w : MWord) : MemOrder :=
  { acq := bitOf w.ex.toNat 1, rel := bitOf w.ex.toNat 2, scope := if bitOf w.ex.toNat 0 then 4 else 2 }

/-- A thread has read bytes on a page of a type: an SC load acquires at system scope (R81), another access as it says
(R83, R91). IP pages order nothing (R93). -/
def State.orderRead (s : State) (cm th : Nat) (o : MemOrder) (space : Space) (lo n : Nat) : State :=
  if cm == 3 then s
  else if cm == 0 then s.acquireAt (.thread th) 4 space lo n
  else
    let s := if cm == 2 then s.trackRead (s.threadReader th) space ((List.range n).map (lo + ·)) else s
    if o.acq then s.acquireAt (.thread th) o.scope space lo n else s.plainRead th space lo n

/-- A thread has written bytes on a page of a type: an SC store releases at system scope (R81). -/
def State.orderWrite (s : State) (cm th : Nat) (o : MemOrder) (space : Space) (lo n : Nat) : State :=
  if cm == 3 then s
  else if cm == 0 then s.releaseAt (.thread th) 4 space lo n
  else
    let s := if cm == 2 then s.trackWrite (s.threadReader th) space ((List.range n).map (lo + ·)) else s
    if o.rel then s.releaseAt (.thread th) o.scope space lo n else s.plainWrite th space lo n

/-- What an acquire does to the L1 of its core, on a page of a type (R81, R83). -/
def State.acquirePage (s : State) (core cm : Nat) (o : MemOrder) : State :=
  if cm == 0 || (cm != 3 && o.acq) then s.acquireL1 core else s

/-! ## One lane's access -/

/-- A lane's access of `w` bytes: the bytes that a store writes. -/
structure GLane where
  lane : Nat
  th   : Nat
  va   : Nat
  w    : Nat
  data : List Byte
  deriving DecidableEq, Repr, Inhabited

/-- What comes of a lane's access. -/
inductive LaneOut where
  | data (bs : List Byte)
  /-- an unwritten WO line that the access probes (R90) -/
  | unwritten
  /-- it waits for its WO line (R89) -/
  | wait (w : WoWait)
  | fault (f : FaultInfo)
  deriving DecidableEq, Repr, Inhabited


/-- A record through which an access goes: its bits and its index. -/
structure BufRef where
  bits  : Nat
  index : Nat
  deriving DecidableEq, Repr, Inhabited

/-- The binding that a record goes through. -/
def State.boundOf (s : State) (r : Req) (b : BufRef) : Option Nat :=
  if recBound b.bits then s.bindingOf r b.index else none

/-- The record's binding may not use a page of this type, or has lost its footprint to a forbidden one (R311). -/
def State.boundBarred (s : State) (r : Req) (b : BufRef) (cm : Nat) : Bool :=
  match s.boundOf r b with
  | some i => (s.binding i).barred || (s.binding i).forbids cm
  | none => false

/-- Steps 4 and 5 of R67 for a line: the translation, or the kind and detail of the fault. `right` is 0 for a read, 1
for a write, 2 for an atomic; `wo` gives the faults of WO pages. -/
def State.lineCheck (s : State) (r : Req) (b : BufRef) (right va : Nat)
    (wo : State → Xlat → Option (Nat × Nat) := fun _ _ => none) : Except (Nat × Nat) Xlat × State :=
  let q := s.translate r va (right == 1) (right == 2) (some (recPlace b.bits))
  let s := q.2
  match q.1 with
  | .error f => (.error (f.kind, f.detail), s)
  | .ok xl => match wo s xl with
  | some f => (.error f, s)
  | none =>
    if right == 2 && xl.cm == 2 then (.error (0x16, 0), s)
    else if !recAllows r.ctx b.bits right then (.error (2, 0), s)
    else match s.remoteFault xl va (right == 0) with
    | some f => (.error (f.kind, f.detail), s)
    | none =>
      if !s.recAgrees r b.index b.bits then (.error (2, 0x0303), s)
      else if s.boundBarred r b xl.cm then (.error (2, 0x0304), s)
      else (.ok xl, s)

/-- The faults of some lanes of a line. -/
def allFault (lanes : List GLane) (kind detail : Nat) : List (Nat × LaneOut) :=
  lanes.map fun l => (l.th, .fault { kind := kind, va := l.va, detail := detail })

/-- The loads of lanes from a line of a binding, after every check of the line (R294): a refused beat is a fault of all of
them. -/
def State.loadBound (s : State) (r : Req) (xl : Xlat) (b : BufRef) (i : Nat) (lanes : List GLane) (o : MemOrder) :
    List (Nat × LaneOut) × State :=
  match lanes with
  | [] => ([], s)
  | l0 :: _ =>
    let off := fun (l : GLane) => l.va - recBase b.bits
    match lanes.findSome? fun l => s.boundReadFault i (off l / (s.binding i).sizes.1) with
    | some d => (allFault lanes 2 d, s)
    | none =>
      let q := s.boundLoad i r.core r.ctx (l0.va / 128) xl.cm o.acq (lanes.map fun l => (off l, l.w))
        (s.takeReader (lanes.map (·.th)))
      let space : Space := .bound (s.binding i).handle
      (lanes.zip q.1).foldl (fun acc x => match x.2 with
        | .error f => (acc.1 ++ [(x.1.th, .fault { f with va := x.1.va })], acc.2)
        | .ok (_, true) => (acc.1 ++ [(x.1.th, .fault { kind := 0x0C, va := x.1.va, detail := 0 })], acc.2)
        | .ok (bs, false) =>
          let v := if xl.cm != 1 then (bs, acc.2)
            else if q.2.1 then acc.2.seeAt (acc.2.threadReader x.1.th) space (off x.1) bs
            else (bs, acc.2.readCopy r.core x.1.th space (gransOf (off x.1) x.1.w))
          (acc.1 ++ [(x.1.th, .data v.1)],
            if q.2.1 then v.2.orderRead xl.cm x.1.th o space (off x.1) x.1.w else v.2)) ([], q.2.2)

/-- The loads of lanes that share a line. -/
def State.loadLine (s : State) (x : WordCtx) (r : Req) (b : BufRef) (lanes : List GLane) (probe : Bool) (o : MemOrder) :
    List (Nat × LaneOut) × State :=
  match lanes with
  | [] => ([], s)
  | l0 :: _ =>
    let q := s.lineCheck r b 0 l0.va
    match q.1 with
    | .error f => (allFault lanes f.1 f.2, q.2)
    | .ok xl =>
      let watched := fun (l : GLane) => q.2.watchFault x xl l.th l.va l.w true false
      let bad := lanes.filterMap fun l => (watched l).map fun f => (l.th, LaneOut.fault f)
      let ok := lanes.filter fun l => (watched l).isNone
      let line := lineOf xl.pa
      let local1 := xl.pkg == s.pkgId
      let s := q.2
      if xl.cm == 2 && local1 && !s.lineWr line then
        (bad ++ ok.map fun l => (l.th, if probe || (s.thread l.th).helper then .unwritten
          else .wait { pkg := xl.pkg, line := line, va := l.va, buf := b.index, since := s.clock }), s)
      else
        let s := s.acquirePage r.core xl.cm o
        let arrived := fun (s : State) => if xl.cm == 2 && local1 then s.meetSignals (ok.map (·.th)) .mem [line] else s
        match s.boundOf r b with
        | some i =>
          let q := s.loadBound r xl b i ok o
          (bad ++ q.1, arrived q.2)
        | none =>
          if local1 && s.linePsn line then (bad ++ allFault ok 0x0C 0, s)
          else
            let d := s.threadLine r xl o.acq
            let s := arrived d.2.2
            let q := ok.foldl (fun acc l =>
              let bs := (d.1.drop (l.va % 128)).take l.w
              let at1 := 128 * line + l.va % 128
              let q := if 2 ≤ xl.cm || !local1 then (bs, acc.2)
                else if d.2.1 then acc.2.seeBytes (acc.2.threadReader l.th) at1 bs
                else (bs, acc.2.readCopy r.core l.th .mem (gransOf at1 l.w))
              (acc.1 ++ [(l.th, .data q.1)],
                if local1 && d.2.1 then q.2.orderRead xl.cm l.th o .mem at1 l.w else q.2)) ([], s)
            (bad ++ q.1, q.2)

/-- The cells of stores in ascending lane order: the highest lane that writes a byte wins (R217). -/
def laneCells (base : Nat) (lanes : List GLane) : List (Nat × Byte) :=
  lanes.flatMap fun l => l.data.zipIdx.map fun d => (l.va - base + d.2, d.1)

/-- The writes of lanes to a line of an RC page of this package, held until a `FENCEX` (R97). -/
def State.keepLanes (s : State) (xl : Xlat) (lanes : List GLane) : State :=
  if xl.cm == 1 && xl.pkg == s.pkgId then
    lanes.foldl (fun (s : State) l =>
      s.keepMem (s.threadReader l.th) ((List.range l.w).map fun k => 128 * lineOf xl.pa + l.va % 128 + k)) s
  else s

/-- The order of the stores of lanes to a line (R81, R83, R91). -/
def State.orderLanes (s : State) (xl : Xlat) (lanes : List GLane) (o : MemOrder) : State :=
  if xl.pkg == s.pkgId then
    lanes.foldl (fun (s : State) l => s.orderWrite xl.cm l.th o .mem (128 * lineOf xl.pa + l.va % 128) l.w) s
  else s

/-- The beats of some lanes, ascending, and the lanes of one beat. -/
def beatsOf (base rb : Nat) (lanes : List GLane) : List Nat :=
  (lanes.map fun l => (l.va - base) / rb).foldl (fun ks k => insertNat k ks) []
def lanesIn (base rb k : Nat) (lanes : List GLane) : List GLane := lanes.filter fun l => (l.va - base) / rb == k

/-- The stores of lanes to a line of a binding, after every other check of the line (R294, R309): a refused beat is a fault
of all of them, and so is a poisoned line of which they cover a part (R218); nothing of the line is written. -/
def State.storeBound (s : State) (r : Req) (xl : Xlat) (b : BufRef) (i : Nat) (lanes : List GLane) (o : MemOrder) :
    List (Nat × LaneOut) × State :=
  let base := recBase b.bits
  let rb := (s.binding i).sizes.1
  let beats := beatsOf base rb lanes
  let mine := fun (k : Nat) => lanesIn base rb k lanes
  let cells := laneCells base lanes
  match beats.findSome? fun k => s.boundWriteFault i k (laneCells base (mine k)) with
  | some d => (allFault lanes 2 d, s)
  | none =>
    let q := s.boundFills i (beats.map fun k => (k, laneCells base (mine k))) (s.takeReader (lanes.map (·.th)))
    if q.2.boundPoisons i cells q.1 then (allFault lanes 0x0C 0, q.2)
    else
      let line := (lanes.head?.map fun l => l.va / 128).getD 0
      let w := q.1.foldl (fun (acc : List (Nat × LaneOut) × State) y =>
        let ls := mine y.1
        match y.2 with
        | .error f => (acc.1 ++ ls.map fun l => (l.th, LaneOut.fault { f with va := l.va }), acc.2)
        | .ok beat =>
          let cs := laneCells base ls
          let s := acc.2.boundPut i y.1 cs beat false xl.cm (acc.2.takeReader (ls.map (·.th)))
          let s := s.patchCopy r.core (s.binding i).l1Key line (cs.map fun c => ((base + c.1) % 128, c.2))
          (acc.1 ++ ls.map fun l => (l.th, LaneOut.data []),
            ls.foldl (fun (s : State) l =>
              s.orderWrite xl.cm l.th o (.bound (s.binding i).handle) (l.va - base) l.w) s)) ([], q.2)
      (w.1, w.2.boundClean i cells)

/-- The faults of a store to a WO page, at step 4 of R67 (R87): part of a line, or a written line. -/
def woStoreFault (whole : Bool) (s : State) (xl : Xlat) : Option (Nat × Nat) :=
  if xl.cm != 2 then none
  else if !whole then some (8, 0)
  else if xl.pkg == s.pkgId && s.lineWr (lineOf xl.pa) then some (7, 0)
  else none

/-- The stores of lanes that share a line (R87, R218, R294). A lane that a watchpoint stops stores nothing (R440). -/
def State.storeLanes (s : State) (x : WordCtx) (r : Req) (b : BufRef) (lanes : List GLane) (o : MemOrder) :
    List (Nat × LaneOut) × State :=
  match lanes with
  | [] => ([], s)
  | l0 :: _ =>
    let base := l0.va / 128 * 128
    let whole := fun (ls : List GLane) => ((laneCells base ls).map Prod.fst).eraseDups.length == 128
    let q := s.lineCheck r b 1 l0.va (woStoreFault (whole lanes))
    match q.1 with
    | .error f => (allFault lanes f.1 f.2, q.2)
    | .ok xl =>
      let s := q.2
      let watched := fun (l : GLane) => s.watchFault x xl l.th l.va l.w false true
      let bad := lanes.filterMap fun l => (watched l).map fun f => (l.th, LaneOut.fault f)
      let ok := lanes.filter fun l => (watched l).isNone
      let cells := laneCells base ok
      if ok.isEmpty then (bad, s)
      else match woStoreFault (whole ok) s xl with
      | some f => (bad ++ allFault ok f.1 f.2, s)
      | none => match s.boundOf r b with
        | some i =>
          let q := s.storeBound r xl b i ok o
          (bad ++ q.1, if xl.cm == 2 && q.1.all (fun y => y.2 == .data []) then q.2.markWritten (lineOf xl.pa) else q.2)
        | none =>
          if xl.pkg == s.pkgId && s.linePsn (lineOf xl.pa) && !whole ok then (bad ++ allFault ok 0x0C 0, s)
          else (bad ++ ok.map fun l => (l.th, LaneOut.data []),
            (((s.keepLanes xl ok).threadStore r xl cells).orderLanes xl ok o))

/-- One atomic step of a lane at an unbound line: the old bytes, and memory after it (R80, R85, R93, R217). It acts on the
bytes that stand at the home slice, and is the acquire and the release that it carries (R81, R83). -/
def State.rmwLane (s : State) (r : Req) (xl : Xlat) (l : GLane) (o : MemOrder) (f : List Byte → Option (List Byte)) :
    LaneOut × State :=
  let line := lineOf xl.pa
  let local1 := xl.pkg == s.pkgId
  if local1 && s.linePsn line then (.fault { kind := 0x0C, va := l.va, detail := 0 }, s)
  else
    let at1 := 128 * line + l.va % 128
    let old := if xl.cm == 3 then ((s.threadLine r xl true).1.drop (l.va % 128)).take l.w
      else s.physBytes { xl with pa := at1 } l.w
    let cells := fun (bs : List Byte) => bs.zipIdx.map fun d => (l.va % 128 + d.2, d.1)
    let s := s.acquirePage r.core xl.cm o
    let s := if local1 then (s.sawNow [.thread l.th] .mem (gransOf at1 l.w)).orderRead xl.cm l.th o .mem at1 l.w else s
    match f old with
    | none => (.data old, s.patchCopy r.core xl.pkg line (cells old))
    | some new => (.data old, ((s.keepLanes xl [l]).threadStore r xl (cells new)).orderLanes xl [l] o)

/-- The atomics of lanes at a line of a binding, after the checks of the line (R217, R294, R309): each beat is brought in
once, the lanes act on it in ascending order, and each beat that one has changed is written once. -/
def State.rmwBound (s : State) (r : Req) (xl : Xlat) (b : BufRef) (i : Nat) (lanes : List GLane) (o : MemOrder)
    (f : Nat → List Byte → Option (List Byte)) : List (Nat × LaneOut) × State :=
  let base := recBase b.bits
  let rb := (s.binding i).sizes.1
  let space : Space := .bound (s.binding i).handle
  let beats := beatsOf base rb lanes
  match beats.findSome? fun k => (s.boundReadFault i k).or (s.boundWriteFault i k []) with
  | some d => (allFault lanes 2 d, s)
  | none =>
    let q := (s.acquirePage r.core xl.cm o).boundRequests i beats (s.takeReader (lanes.map (·.th)))
    let read := fun (off n : Nat) (put : List (Nat × Byte)) (beat : List Byte × Bool) =>
      let part := q.2.beatPart i off n beat
      ((part.1.zipIdx.map fun d => ((put.reverse.find? fun c => c.1 == off + d.2).map Prod.snd).getD d.1), part.2)
    -- the outcomes, the cells written and the lanes that wrote
    let w := lanes.foldl (fun (acc : List (Nat × LaneOut) × List (Nat × Byte) × List GLane × State) l =>
      let off := l.va - base
      match ((q.1.find? fun y => y.1 == off / rb).map Prod.snd).getD (.ok ([], false)) with
      | .error e => (acc.1 ++ [(l.th, .fault { e with va := l.va })], acc.2)
      | .ok beat =>
        let p := read off l.w acc.2.1 beat
        if p.2 then (acc.1 ++ [(l.th, .fault { kind := 0x0C, va := l.va, detail := 0 })], acc.2)
        else
          let s := (acc.2.2.2.sawNow [.thread l.th] space (gransOf off l.w)).orderRead xl.cm l.th o space off l.w
          let new := f l.th p.1
          let cells := (new.getD p.1).zipIdx.map fun d => (off + d.2, d.1)
          let s := s.patchCopy r.core (s.binding i).l1Key (l.va / 128) (cells.map fun c => ((base + c.1) % 128, c.2))
          (acc.1 ++ [(l.th, .data p.1)], if new.isSome then (acc.2.1 ++ cells, acc.2.2.1 ++ [l], s) else (acc.2.1, acc.2.2.1, s)))
      ([], [], [], q.2)
    let s := q.1.foldl (fun (s : State) y =>
      let cells := w.2.1.filter fun c => c.1 / rb == y.1
      match y.2, cells with
      | .ok beat, _ :: _ =>
        s.boundPut i y.1 cells beat false xl.cm (s.takeReader ((lanesIn base rb y.1 w.2.2.1).map (·.th)))
      | _, _ => s) w.2.2.2
    (w.1, w.2.2.1.foldl (fun (s : State) l => s.orderWrite xl.cm l.th o space (l.va - base) l.w) s)

/-- The atomics of lanes that share a line, in ascending lane order. A lane that a watchpoint stops does nothing (R440). -/
def State.rmwLine (s : State) (x : WordCtx) (r : Req) (b : BufRef) (lanes : List GLane) (o : MemOrder)
    (f : Nat → List Byte → Option (List Byte)) : List (Nat × LaneOut) × State :=
  match lanes with
  | [] => ([], s)
  | l0 :: _ =>
    let q := s.lineCheck r b 2 l0.va
    match q.1 with
    | .error f => (allFault lanes f.1 f.2, q.2)
    | .ok xl =>
      let watched := fun (l : GLane) => q.2.watchFault x xl l.th l.va l.w true true
      let bad := lanes.filterMap fun l => (watched l).map fun e => (l.th, LaneOut.fault e)
      let ok := lanes.filter fun l => (watched l).isNone
      match q.2.boundOf r b with
      | some i =>
        let w := q.2.rmwBound r xl b i ok o f
        (bad ++ w.1, w.2)
      | none => ok.foldl (fun acc l =>
          let w := acc.2.rmwLane r xl l o (f l.th)
          (acc.1 ++ [(l.th, w.1)], w.2)) (bad, q.2)

/-- Lanes grouped by line, in ascending virtual address, each group in ascending lane order (R67 step 3). -/
def byLine (lanes : List GLane) : List (List GLane) :=
  ((lanes.map fun l => l.va / 128).foldl (fun acc k => insertNat k acc) []).map fun k =>
    lanes.filter fun l => l.va / 128 == k

/-- Fold the lines of an access. -/
def overLines (s : State) (lanes : List GLane) (f : State → List GLane → List (Nat × LaneOut) × State) :
    List (Nat × LaneOut) × State :=
  (byLine lanes).foldl (fun acc g => let r := f acc.2 g; (acc.1 ++ r.1, r.2)) ([], s)

/-! ## Forming the addresses (R67 steps 1 and 2) -/

/-- A lane's address in a buffer, or its fault. -/
def formAddr (rec1 off w : Nat) : Except FaultInfo Nat :=
  let va := recBase rec1 + off
  if off % w != 0 then .error { kind := 5, va := va, detail := 0 }
  else if recExtent rec1 < off + w then .error { kind := 3, va := va, detail := 0 }
  else .ok va

/-- The offset of a format-M access in a lane. -/
def mOffset (s : State) (w : MWord) (rec1 th : Nat) : Nat :=
  (s.opnd th w.a).toNat * recEsize rec1 + w.imm.toNat

/-- The 32-bit buffer index in the uniform register S. -/
def mIndex (s : State) (x : WordCtx) (w : MWord) : Nat := ((s.scene x.scene).uniReg w.s.toNat).toNat

/-! ## The outcome of an instruction of the MEM class -/

/-- Count a MEM instruction of a core for dailies: whether it is selected (R442). -/
def State.dailyTick (s : State) (core ctx : Nat) : Bool × State :=
  let cfg := (s.die (coreDie core)).dailyCfg.toNat
  let every := bitOf cfg 26 && s.lcs != 1
  if bitOf cfg 0 && (every || bitsOf cfg 25 16 == ctx) then
    let n := s.dailyCnt.get core + 1
    if n ≥ 2 ^ bitsOf cfg 5 1 then (true, { s with dailyCnt := s.dailyCnt.set core 0 })
    else (false, { s with dailyCnt := s.dailyCnt.set core n })
  else (false, s)

/-- Requests and sectors of an access (R442). -/
def sectorsOf (lanes : List GLane) : Nat × Nat :=
  ((byLine lanes).length, (lanes.flatMap fun l => (List.range ((l.va % 32 + l.w + 31) / 32)).map fun i => l.va / 32 + i).eraseDups.length)

/-- The dailies sample of a word with its requests and sectors (R442). Copy engines do not pass an L1. -/
def WordCtx.sample (x : WordCtx) (size : Nat × Nat) : Daily :=
  { active := (x.lanes ++ x.hurt).foldl (fun acc l => acc + 2 ^ l.1) 0, lines := size.1, sectors := size.2
    l1 := size.1 != 0 && !(0x8A ≤ x.instr.opcode && x.instr.opcode ≤ 0x8C), home := size.1 != 0 }

/-- The dailies record of an instruction that has completed (R442), of core, opcode, context, scene identifier and word
offset, that issued at a clock. What no rule fixes is free: the reissues, the lane whose data came last, and the cycles in
the queues that its requests can have reached (log 73). -/
def State.dailyRecord (s : State) (core op ctx sid pcOff issued : Nat) (z : Daily) : State :=
  let d := coreDie core
  let r := s.die d
  let f := s.fresh
  let g := f.2.fresh
  let lanes := (List.range 32).filter (bitOf z.active)
  let last := (f.1.toNat / 256) % (lanes.length + 1)
  let queued := fun (reached : Bool) (k : Nat) => if reached then g.1.toNat / 2 ^ (16 * k) else 0
  let bits := packFields [(32, z.active), (8, op), (8, core), (10, if ctx == supCtx then 0x3FF else ctx),
    (6, 0), (32, sid), (18, pcOff), (6, min z.lines 32), (8, min z.sectors 128), (8, f.1.toNat),
    (8, lanes.getD last 0xFF), (16, queued z.l1 0), (16, queued z.home 1), (16, queued z.home 2), (16, queued z.home 3),
    (16, min (s.clock - issued) 65535), (32, issued / 16)]
  (g.2.storeNum (r.dailyBase + 32 * (r.dailyHead % 2 ^ r.dailyLog2)) 32 bits).modDie d
    fun r => { r with dailyHead := (r.dailyHead + 1) % 2 ^ 32 }

/-- Start a MEM instruction in the lanes that go on. A sampled one in which none goes on is complete at once. -/
def WordCtx.startMem (x : WordCtx) (s : State) (lanes : List (Nat × Nat)) (args : List Nat) (writes : List RegWrite)
    (size : Nat × Nat) : State :=
  let d := s.dailyTick x.core (x.ctx s)
  if !lanes.isEmpty then
    ({ x with lanes := lanes } : WordCtx).start d.2 args writes [] (if d.1 then some (x.sample size) else none)
  else if d.1 then
    d.2.dailyRecord x.core x.instr.opcode (x.ctx s) (s.scene x.scene).sid.toNat (x.addr.toNat - (s.scene x.scene).code) s.clock
      (x.sample size)
  else d.2

/-- A thread waits for a WO line: it leaves its take and stands at its load (R89). -/
def WordCtx.woPark (x : WordCtx) (s : State) (th : Nat) (w : WoWait) : State :=
  (s.leaveTake th).modThread th fun t =>
    { t with pc := x.addr, mid := true, wpos := x.pos, wo := some w, stopped := s.clock }

/-- An exemption from the watchpoints is used up by the access it exempts, once that is performed in its lane (R441). -/
def WordCtx.useExemption (x : WordCtx) (s : State) (performed : Nat → Bool) : State :=
  (x.lanes.filter fun l => performed l.2).foldl (fun (s : State) l => s.modThread l.2 fun t =>
    if t.exempt == some x.addr then { t with exempt := none } else t) s

/-- End an access: faults are posted in ascending lane order and waits begin; the other lanes' results are on their way,
`ret` giving the words of a lane from its bytes, and `extra` further writes of it. DESIGN CHOICE (log 61): a uniform D
takes the result of the lowest lane that goes on where the lowest active lane faults or waits, since R141 does not say. -/
def WordCtx.finish (x : WordCtx) (s : State) (outs : List (Nat × LaneOut)) (buf : Nat → Nat) (d : Sel) (nw : Bool)
    (ret : List Byte → List Word) (extra : Nat → LaneOut → List RegWrite) (size : Nat × Nat) : State :=
  let outOf := fun (th : Nat) => ((outs.find? fun o => o.1 == th).map Prod.snd).getD (.data [])
  let helperLoad := fun (th : Nat) => (s.thread th).helper
  let s := x.useExemption s fun th => match outOf th with
    | .data _ => true
    | .unwritten => true
    | _ => false
  let fs := x.lanes.filterMap fun l => match outOf l.2 with
    | .fault f => if helperLoad l.2 then none else some ({ thread := l.2, info := f, buf := buf l.2 } : LaneFault)
    | _ => none
  let s := x.faults s fs
  let s := x.lanes.foldl (fun (s : State) l => match outOf l.2 with
    | .wait w => x.woPark s l.2 w
    | _ => s) s
  let go := x.lanes.filter fun l => match outOf l.2 with
    | .data _ => true
    | .unwritten => true
    | .wait _ => false
    | .fault _ => helperLoad l.2
  let ws := go.map fun l => (l.2, match outOf l.2 with
    | .data bs => ret bs
    | _ => ret [])
  x.startMem s go [] (allWrites d nw ws ++ go.flatMap fun l => extra l.2 (outOf l.2)) size

end Sys2Proof.Machine
end

