-- ==== Sys2Proof/Machine/Engine.lean ====
section
/-! DEFINITION. What engines do at lines of memory: reads and writes through a buffer record, the faults that hold or
abandon an operation (R230, R294, R380), write-once waits (R89), watchpoints (R441), and the end of an operation of the
Variable group (R144). -/

namespace Sys2Proof.Machine

/-! ## Lines through a record -/

/-- What comes of an engine's access to a line. -/
inductive EngRes where
  | ok (bs : List Byte) (psn : Bool)
  /-- a translation fault: the operation is held (R230) -/
  | held (f : FaultInfo)
  /-- a fault of R294 or of R87, or the DATA of R424: a record is posted and the line is not written -/
  | post (f : FaultInfo)
  /-- it waits for a WO line (R89) -/
  | wait (w : WoWait)
  deriving DecidableEq, Repr, Inhabited

/-- The agent that asks. -/
def Req.by (r : Req) : Reader := r.who.getD extReader

/-- Bytes of the requester form over several beats, in ascending order (R309). -/
def State.boundSpan (s : State) (i off n cm : Nat) (why : Reader) : Except FaultInfo (List Byte × Bool) × State :=
  let rb := (s.binding i).sizes.1
  (List.range ((off % rb + n + rb - 1) / rb)).foldl (fun acc j => match acc.1 with
    | .error f => (.error f, acc.2)
    | .ok (bs, psn) =>
      let a := if j == 0 then off else off / rb * rb + rb * j
      let q := acc.2.boundRead i a (min (off + n) (off / rb * rb + rb * (j + 1)) - a) cm why
      (q.1.map fun r => (bs ++ r.1, psn || r.2), q.2)) (.ok ([], false), s)

/-- The translation of a line for an engine, or its fault. -/
def State.engineXlat (s : State) (r : Req) (b : BufRef) (va : Nat) (write : Bool) : Except EngRes Xlat × State :=
  let q := s.translate r va write false (some (recPlace b.bits))
  match q.1 with
  | .error f => (.error (.held f), q.2)
  | .ok xl =>
    match q.2.remoteFault xl va (!write) with
    | some f => (.error (if f.kind == 0x0C then .post f else .held f), q.2)
    | none =>
      if !q.2.recAgrees r b.index b.bits then (.error (.post { kind := 2, va := va, detail := 0x0303 }), q.2)
      else if q.2.boundBarred r b xl.cm then (.error (.post { kind := 2, va := va, detail := 0x0304 }), q.2)
      else (.ok xl, q.2)

/-- An engine has read or written bytes on a page of a type: an SC read acquires and an SC write releases, at system
scope (R81). -/
def State.engineAcquire (s : State) (r : Req) (cm : Nat) (space : Space) (lo n : Nat) : State :=
  if cm == 0 then s.acquireAt r.by.agent 4 space lo n
  else if cm == 2 then s.trackRead r.by space ((List.range n).map (lo + ·))
  else s
def State.engineRelease (s : State) (r : Req) (cm : Nat) (space : Space) (lo n : Nat) : State :=
  if cm == 0 then
    s.releaseOf (fun y => s.agentKnows r.by.agent y || y.fenced.any fun f => f.covers r.by) r.by.agent 4 space lo n
  else if cm == 2 then s.trackWrite r.by space ((List.range n).map (lo + ·))
  else s

/-- The bytes of some cells as runs of places: first place and length. -/
def runsOf (places : List Nat) : List (Nat × Nat) :=
  (places.foldl (fun l p => insertNat p l) []).foldr (fun p rs => match rs with
    | (q, n) :: rest => if q == p + 1 then (p, n + 1) :: rest else (p, 1) :: rs
    | [] => [(p, 1)]) []

/-- A line that an operation has written: a WO line signals its own arrival, and no other does (R98). -/
def State.engineSignal (s : State) (r : Req) (cm line : Nat) : State :=
  match r.by.agent with
  | .op i => if cm == 2 then s.signal i .mem line else s.noSignal i
  | _ => s

/-- Read `n` bytes of one line through a record, as the home slice holds them. -/
def State.engineRead (s : State) (r : Req) (b : BufRef) (va n : Nat) : EngRes × State :=
  let q := s.engineXlat r b va false
  let s := q.2
  match q.1 with
  | .error e => (e, s)
  | .ok xl =>
    let line := lineOf xl.pa
    let local1 := xl.pkg == s.pkgId
    if xl.cm == 2 && local1 && !s.lineWr line then
      (.wait { pkg := xl.pkg, line := line, va := va, buf := b.index, since := s.clock }, s)
    else match s.boundOf r b with
      | some i =>
        let d := s.boundSpan i (va - recBase b.bits) n xl.cm r.by
        match d.1 with
        | .ok (bs, psn) =>
          (.ok bs psn, d.2.engineAcquire r xl.cm (.bound (s.binding i).handle) (va - recBase b.bits) n)
        | .error f => (if f.kind == 2 && 0x0300 ≤ f.detail && f.detail < 0x0400 then .post f else .held f, d.2)
      | none =>
        let bs := s.physBytes xl n
        let psn := local1 && s.linePsn line
        let s := if local1 then s.touchL2 (.phys line) false xl.cmpr else { s with freeIx := s.freeIx + 1 }
        let d := if local1 then s.seeAs r xl bs else (bs, s)
        (.ok d.1 psn, if local1 then d.2.engineAcquire r xl.cm .mem xl.pa n else d.2)

/-- Write cells of one line, given by virtual address, through a record; `psn` writes poison (R229). A WO line takes one
whole-line request (R87). -/
def State.engineWrite (s : State) (r : Req) (b : BufRef) (cells : List (Nat × Byte)) (psn : Bool) : EngRes × State :=
  match cells with
  | [] => (.ok [] false, s)
  | c0 :: _ =>
    let base := c0.1 / 128 * 128
    let q := s.engineXlat r b c0.1 true
    let s := q.2
    match q.1 with
    | .error e => (e, s)
    | .ok xl =>
      let line := lineOf xl.pa
      let local1 := xl.pkg == s.pkgId
      let whole := (cells.map Prod.fst).eraseDups.length == 128
      if xl.cm == 2 && !whole then (.post { kind := 8, va := base, detail := 0 }, s)
      else if xl.cm == 2 && local1 && s.lineWr line then (.post { kind := 7, va := base, detail := 0 }, s)
      else match s.boundOf r b with
        | some i =>
          let rb := (s.binding i).sizes.1
          let offs := cells.map fun c => (c.1 - recBase b.bits, c.2)
          let mine := fun (k : Nat) => offs.filter fun c => c.1 / rb == k
          let parts := ((offs.map fun c => c.1 / rb).foldl (fun ks k => insertNat k ks) []).map fun k => (k, mine k)
          match parts.findSome? fun p => s.boundWriteFault i p.1 p.2 with
          | some d => (.post { kind := 2, va := c0.1, detail := d }, s)
          | none =>
            let q := s.boundFills i parts r.by
            match q.1.findSome? fun y => match y.2 with
              | .error f => some f
              | .ok _ => none with
            | some f => (.held f, q.2)
            | none =>
              let s := q.1.foldl (fun (s : State) y => match y.2 with
                | .ok beat => s.boundPut i y.1 (mine y.1) beat psn xl.cm r.by
                | .error _ => s) q.2
              let s := (if psn then s else s.boundClean i offs).engineSignal r xl.cm line
              let s := (runsOf (offs.map Prod.fst)).foldl (fun (s : State) p =>
                s.engineRelease r xl.cm (.bound (s.binding i).handle) p.1 p.2) s
              (.ok [] false, if xl.cm == 2 then s.markWritten line else s)
        | none =>
          if !local1 then (.ok [] false, { s with freeIx := s.freeIx + 1 })
          else
            let at1 := fun (a : Nat) => 128 * line + (a - base)
            let s := if xl.cm == 1 then s.keepMem r.by (cells.map fun c => at1 c.1) else s
            let s := s.engineSignal r xl.cm line
            let s := s.storeLine line (cells.map fun c => (c.1 - base, c.2)) xl.cmpr
            let s := if psn then s.setLineBit line 10 true else s
            let s := (runsOf (cells.map fun c => at1 c.1)).foldl (fun (s : State) p => s.engineRelease r xl.cm .mem p.1 p.2) s
            (.ok [] false, if xl.cm == 2 then s.markWritten line else s)

/-! ## Operations -/

/-- The thread in whose name an operation's records are posted: its lowest active non-helper lane. -/
def State.opThread (s : State) (o : Op) : Option Nat :=
  ((o.lanes.find? fun l => !(s.thread l.2).helper).or o.lanes.head?).map Prod.snd

/-- An asynchronous record of an operation (R380). -/
def State.opRecord (s : State) (o : Op) (kind buf va detail : Nat) : State :=
  match s.opThread o with
  | some th => s.asyncFault th kind o.pc buf va detail
  | none => s

/-- The policy under which an operation's records halt. -/
def State.opHalts (s : State) (o : Op) (kind : Nat) : Bool := s.halts o.ctx kind

/-- The requests of an operation's engine. -/
def Op.req (o : Op) : Req := engineReq o.ctx o.core

/-- The requests of operation `i` on a path of a class. -/
def State.opReq (s : State) (i cls : Nat) : Req := { (s.op i).req with who := some (s.opReader i cls) }

/-- An operation of an engine: a copy or a delivery, an operation of the array or the sequencer, or one of the Accords, the
Surface Units, the Binning Unit or the Motion and Vision Engines. Thread loads and stores, and the steps of `LOOPN` and
`FILL`, are work of the core itself (R75, R209). -/
def Op.byEngine (o : Op) : Bool :=
  let op := o.instr.opcode
  [0x82, 0x87, 0x8A, 0x8B, 0x8C].contains op || (0x98 ≤ op && op < 0xE0)

/-- A watched access of a unit is performed, and a record is posted (R441): `bytes` are the virtual addresses that the
request touches, and those on watched pages count. -/
def State.unitWatch (s : State) (r : Req) (b : BufRef) (bytes : List Nat) (write : Bool) : State :=
  let c := s.ctx r.ctx
  match r.rep with
  | some (th, pc) =>
    if bytes.isEmpty || r.ctx == supCtx || c.wpLine.toList.all (· == 0) then s
    else
      -- the pages of the request, and those of them that are watched
      let q := ((bytes.map (· / 65536)).eraseDups).foldl (fun (acc : List Nat × State) page =>
        let t := acc.2.translate r (((bytes.find? fun a => a / 65536 == page)).getD 0) write false none
        match t.1 with
        | .ok xl => (if xl.watch then acc.1 ++ [page] else acc.1, t.2)
        | .error _ => (acc.1, t.2)) ([], s)
      let here := bytes.filter fun a => q.1.contains (a / 65536)
      let watched := fun (e va : Nat) =>
        let l := (c.wpLine.toList.getD e 0).toNat
        let m := (c.wpMask0.toList.getD e 0).toNat + (c.wpMask1.toList.getD e 0).toNat * 2 ^ 64
        bitOf l 52 && (if write then bitOf l 51 else bitOf l 50) && va / 128 % 2 ^ 50 == l % 2 ^ 50 && bitOf m (va % 128)
      match (List.range 16).find? fun e => here.any (watched e) with
      | none => q.2
      | some e =>
        let hit := here.filter (watched e)
        let va := hit.foldl min (hit.getD 0 0)
        q.2.asyncFault th 0x15 pc b.index va
          (packFields [(4, e), (1, b2n write), (4, 15), (6, 0), (1, 1),
            (16, hit.eraseDups.foldl (fun acc x => acc + (if x - va < 16 then 2 ^ (x - va) else 0)) 0)])
  | none => s

/-- A watched access of an operation. -/
def State.opWatch (s : State) (o : Op) (b : BufRef) (bytes : List Nat) (write : Bool) : State :=
  s.unitWatch { o.req with rep := (s.opThread o).map fun th => (th, o.pc) } b bytes write

/-- An operation is held at a translation fault: a record is posted with bit 15 of its detail set (R230). -/
def State.holdOp (s : State) (i buf : Nat) (f : FaultInfo) : State :=
  (s.opRecord (s.op i) f.kind buf f.va (setBitN f.detail 15 true)).modOp i fun o => { o with held := some f }

/-- AN OPERATION COMPLETES (R144): its destination is written, then its flags are set, then its cue flag falls; a thread
that has exited may leave its slot empty (R24). -/
def State.completeOp (s : State) (i : Nat) : State :=
  let o := s.op i
  if o.done then s
  else
    let s := s.pipeWrites o.pipeB o.writes
    let s := o.flags.foldl (fun (s : State) f => s.orFlags f.1 f.2) s
    let s : State := match o.cue with
      | some c => o.lanes.foldl (fun (s : State) l => s.lowerCue l.2 c) s
      | none => s
    let s := s.modOp i fun o => { o with done := true, held := none, wo := none, writes := [], flags := [] }
    let s : State := match o.daily with
      | some z => s.dailyRecord o.core o.instr.opcode o.ctx (s.scene o.scene).sid.toNat o.pcOff o.issued z
      | none => s
    o.lanes.foldl (fun (s : State) l => s.slotEmpty l.2) s

end Sys2Proof.Machine
end

