-- ==== Sys2Proof/Machine/Control.lean ====
section
/-! DEFINITION. The control instructions, opcodes 0x30 to 0x41 (R171 to R184). -/

namespace Sys2Proof.Machine

/-- word + 8 × sext(TGT, 30), modulo 2^64 (R137, R171). -/
def jTarget (w : JWord) (addr : DWord) : DWord := addr + 8 * w.tgt.signExtend 64

/-- Every lane of the take goes to its target: lanes of one target stay together, and a take whose lanes have several
targets splits into partial takes of its age (R26, R172). DESIGN CHOICE (log 58): a take that splits off is bound to the
bay of the take that it came from; R25 and R26 name none. -/
def splitTake (x : WordCtx) (s : State) (tgt : Nat → DWord) : State :=
  let t := s.take x.tk
  let groups := (t.lanes.map fun l => tgt l.2).eraseDups
  match groups with
  | [] => s
  | g :: rest =>
    let s := s.modTake x.tk fun k => { k with lanes := t.lanes.filter fun l => tgt l.2 == g, pc := g }
    rest.foldl (fun s g => s.newTake t.core t.scene t.bay t.age g (t.lanes.filter fun l => tgt l.2 == g) t.last) s

/-- Targets that are no multiple of 8 raise ALIGN in their lanes (R173). -/
def misaligned (x : WordCtx) (tgt : Nat → DWord) : List LaneFault :=
  (x.lanes.filter fun l => (tgt l.2).toNat % 8 != 0).map fun l =>
    { thread := l.2, info := { kind := 5, va := (tgt l.2).toNat, detail := 0 }, buf := 0xFFFF }

/-- A transfer of control (R172): the lanes whose guard holds go to their targets, the others to the next word. Lanes
whose target is misaligned leave with their fault; `link` writes the return address. -/
def transfer (x : WordCtx) (s : State) (tgt : Nat → DWord) (link : List Nat → List RegWrite) : State :=
  let fs := misaligned x tgt
  let ok := x.lanes.filter fun l => (tgt l.2).toNat % 8 == 0
  let s := x.faults s fs
  let s := splitTake x s fun th => if ok.any fun l => l.2 == th then tgt th else x.addr + 8
  s.pipeWrites x.pipeB (link (ok.map Prod.snd))

/-- `BRA` (R172). -/
def execBra (w : JWord) (s : State) : Out :=
  runControl (.bra w) s fun x s => .done (transfer x s (fun _ => jTarget w x.addr) fun _ => [])

/-- `BRX` (R172, R173): the index counts words of 8 bytes. -/
def execBrx (w : JWord) (s : State) : Out :=
  runControl (.brx w) s fun x s => .done <|
    transfer x s (fun th => jTarget w x.addr + 8 * (s.opnd th w.a).signExtend 64) fun _ => []

/-- The return address to the pair D (R174). -/
def linkWrites (w : JWord) (addr : DWord) (ths : List Nat) : List RegWrite :=
  allWrites w.d false (ths.map fun th => (th, wordsOf 2 (addr + 8).toNat))

/-- `CALL` (R172). -/
def execCall (w : JWord) (s : State) : Out :=
  runControl (.call w) s fun x s => .done (transfer x s (fun _ => jTarget w x.addr) (linkWrites w x.addr))

/-- `CALL.r` (R172, R173). -/
def execCallR (w : JWord) (s : State) : Out :=
  runControl (.callR w) s fun x s => .done (transfer x s (fun th => s.opnd64 th w.a) (linkWrites w x.addr))

/-- `RET` (R172, R173). -/
def execRet (w : JWord) (s : State) : Out :=
  runControl (.ret w) s fun x s => .done (transfer x s (fun th => s.opnd64 th w.a) fun _ => [])

/-! ## Regrouping and ending -/

/-- File lanes of the take at an address; lanes that no reel takes stay in the take (R27, R28). -/
def reformLanes (x : WordCtx) (s : State) (lanes : List (Nat × Nat)) : State :=
  let out := lanes.foldl (fun (s : State) l => s.leaveTake l.2) s
  match out.fileUnit x.core x.scene (x.addr + 8) false lanes with
  | some s => lanes.foldl (fun (s : State) l => s.modThread l.2 fun t => { t with pc := x.addr + 8, mid := false, wpos := 0 }) s
  | none => s

/-- File the active lanes of a quad as one unit (R40): with the threads of the quad that wait already, or where all its
colours are free. The colours stay reserved for the absent threads. -/
def reformQuad (x : WordCtx) (s : State) (k : Nat) : State :=
  let lanes := x.lanes.filter fun l => l.1 / 4 == k
  let colours := [4 * k, 4 * k + 1, 4 * k + 2, 4 * k + 3]
  let out := lanes.foldl (fun (s : State) l => s.leaveTake l.2) s
  let key := fun (r : Reel) => r.live && r.core == x.core && r.scene == x.scene && r.pc == x.addr + 8 && !r.cont
  let quadOf := fun (th : Nat) => (s.thread th).tid / 4
  let waits := (indices out.reels fun r => key r &&
    (r.lanes.any fun y => lanes.any fun l => quadOf y.2 == quadOf l.2) &&
    lanes.all fun l => !r.lanes.any fun y => y.1 == l.1).head?
  let free := (indices out.reels fun r => key r && colours.all fun c =>
    !(r.lanes.any fun y => y.1 == c) && !r.reserved.contains c).head?
  let put := fun (s : State) (r : Nat) =>
    lanes.foldl (fun (s : State) l => s.modThread l.2 fun t => { t with pc := x.addr + 8, mid := false, wpos := 0 })
      ((s.putInReel r lanes).modReel r fun y => { y with reserved := (y.reserved ++ colours).eraseDups })
  match waits.or free with
  | some r => put out r
  | none => match out.newReel x.core x.scene (x.addr + 8) false with
    | some (r, s) => put s r
    | none => s

/-- `REFORM` (R27, R28, R175). -/
def execReform (w : JWord) (s : State) : Out :=
  runControl (.reform w) s fun x s => .done (x.lanes.foldl (fun s l => reformLanes x s [l]) s)

/-- `REFORM.quad` (R40, R175): in a scene without quad alignment it acts as `REFORM`. -/
def execReformQuad (w : JWord) (s : State) : Out :=
  runControl (.reformQuad w) s fun x s => .done <|
    if (s.scene x.scene).quad then (x.lanes.map fun l => l.1 / 4).eraseDups.foldl (reformQuad x) s
    else x.lanes.foldl (fun s l => reformLanes x s [l]) s

/-- `EXIT` (R24, R43, R175). -/
def execExit (w : JWord) (s : State) : Out :=
  runControl (.exit w) s fun x s => .done (x.lanes.foldl (fun s l => s.exitThread l.2) s)

/-- A thread as it starts (R17): identifier t of a scene, at an entry, with a value for `v0`. -/
def startThread (c : Scene) (sc t : Nat) (helper : Bool) (pc : DWord) (v0 : Word) : Thread :=
  { (default : Thread) with
    scene := sc, tid := t, slot := 32 * c.groups.getD (t / 32) 0 + t % 32, helper := helper, pc := pc
    v := (List.replicate c.regs (0 : Word)).set 0 v0, o := .replicate 8 0, p := 0, cue := .replicate 12 0
    rgnPc := pc, latch := .replicate 4 0, place := .nowhere }

/-- Start a thread by `SPAWN`: the lowest unused identifier, filed at the entry, or in a take of its own (R22, R23). -/
def spawnThread (s : State) (sc : Nat) (pc : DWord) (v0 : Word) : State :=
  let c := s.scene sc
  let th := s.threads.length
  let s := { s with threads := s.threads ++ [startThread c sc c.nextTid false pc v0] }
  (s.modScene sc fun c => { c with nextTid := c.nextTid + 1, threads := c.threads ++ [th] }).fileThread th pc false

/-- `SPAWN` (R23, R176). -/
def execSpawn (w : JWord) (s : State) : Out :=
  runControl (.spawn w) s fun x s => .done <|
    let c := s.scene x.scene
    let tgt := jTarget w x.addr
    if !(c.code ≤ tgt.toNat && c.entries.contains (tgt.toNat - c.code)) then
      x.faultAll s 0x0A 0xFFFF 0 (0x0D + 256 * x.pos)
    else
      let r := x.lanes.foldl (fun (acc : State × List (Nat × List Word)) l =>
        let s := acc.1
        let c := s.scene x.scene
        if (s.thread l.2).helper || c.cap ≤ c.nextTid then (s, acc.2 ++ [(l.2, [0xFFFFFFFF])])
        else (spawnThread s x.scene tgt (s.opnd l.2 w.a), acc.2 ++ [(l.2, [BitVec.ofNat 32 c.nextTid])])) (s, [])
      r.1.pipeWrites x.pipeB (allWrites w.d false r.2)

/-! ## Casts and barriers (R177, R178) -/

/-- `JOIN` (R42, R177). -/
def execJoin (w : JWord) (s : State) : Out :=
  runControl (.join w) s fun x s => .done <|
    let r := x.lanes.foldl (fun (acc : State × List (Nat × List Word)) l =>
      let j := acc.1.joinCast l.2 (s.opnd l.2 w.a)
      (j.2, acc.2 ++ [(l.2, [j.1])])) (s, [])
    r.1.pipeWrites x.pipeB (allWrites w.d false r.2)

/-- `LEAVE` (R43, R177). -/
def execLeave (w : JWord) (s : State) : Out :=
  runControl (.leave w) s fun x s => .done (x.lanes.foldl (fun s l => s.leaveCast l.2) s)

/-- A thread waits at a barrier: it leaves its take and stands at the address after its `BAR` (R178). -/
def State.waitAt (s : State) (th : Nat) (pc : DWord) : State :=
  (s.leaveTake th).modThread th fun t => { t with pc := pc, mid := false, wpos := 0 }

/-- One lane of `BAR` (R44): it arrives, waits, or both. A thread that arrives again is held until its earlier phase
completes. -/
def barLane (x : WordCtx) (s : State) (th : Nat) (arrive wait swap pack : Bool) : State :=
  match s.castOf th with
  | none => x.fault s th 2 0xFFFF 0 0
  | some i =>
    let c := s.cast i
    let m := (c.member th).getD default
    if arrive then
      if m.arrived.isSome then
        (s.modCast i fun c => { c with members := c.members.map fun m =>
          if m.thread == th then { m with again := some (swap, pack, wait), waiting := none } else m }).waitAt th (x.addr + 8)
      else
        let s := s.arrive i th swap pack wait
        if wait then s.waitAt th (x.addr + 8) else s
    else
      (s.modCast i fun c => { c with members := c.members.map fun m =>
        if m.thread == th then { m with waiting := some (m.arrived.getD c.phase) } else m }).waitAt th (x.addr + 8)

/-- The lanes of `BAR`, and the phases that their arrivals complete (R44, R46, R47). -/
def barLanes (x : WordCtx) (s : State) (mod : Nat) (arrive wait : Bool) : State :=
  let cs := (x.lanes.filterMap fun l => s.castOf l.2).eraseDups
  let s := x.lanes.foldl (fun s l => barLane x s l.2 arrive wait (bitOf mod 2) (bitOf mod 3)) s
  cs.foldl (fun (s : State) i => s.runPhases i (s.threads.length + 2)) s

/-- `BAR` (R178). -/
def execBar (w : JWord) (s : State) : Out :=
  runControl (.bar w) s fun x s => .done (barLanes x s w.mod.toNat true true)

/-- `BAR.arr` (R178). -/
def execBarArr (w : JWord) (s : State) : Out :=
  runControl (.barArr w) s fun x s => .done (barLanes x s w.mod.toNat true false)

/-- `BAR.wait` (R178). -/
def execBarWait (w : JWord) (s : State) : Out :=
  runControl (.barWait w) s fun x s => .done (barLanes x s w.mod.toNat false true)

/-! ## Pausing (R179) -/

/-- `YIELD` (R179). -/
def execYield (w : JWord) (s : State) : Out :=
  runControl (.yield w) s fun x s => .done <|
    if x.lanes.isEmpty then s else s.modTake x.tk fun t => { t with yielded := true }

/-- `SLEEP` (R179). -/
def execSleep (w : JWord) (s : State) : Out :=
  runControl (.sleep w) s fun x s => .done <|
    let c := x.lanes.foldl (fun m l => max m (min (s.opnd l.2 w.a).toNat (2 ^ 20))) 0
    s.modTake x.tk fun t => { t with sleep := c }

/-! ## Pending-pixel refill (R180, R349) -/

/-- The place of a queue header can hold one (R349). -/
def queueAt (c : Scene) (h : Nat) : Bool := h % 16 == 0 && c.spIn h 16

/-- The header names a queue of the scene (R349). DESIGN CHOICE (log 60): an ENTRIES that is not a multiple of 4 names
none; the table of the header asks for one, and R349's conditions do not list it. -/
def queueOk (c : Scene) (h : Nat) : Bool :=
  queueAt c h &&
    (let cap := c.spNum (h + 8) 1
     let ring := c.spNum (h + 12) 4
     cap ≤ 16 && c.spNum (h + 9) 3 == 0 && ring % 4 == 0 && c.spIn ring (4 * 2 ^ cap))

/-- The n-th entry from HEAD on of a queue: its address. -/
def queueEntry (c : Scene) (h n : Nat) : Nat :=
  c.spNum (h + 12) 4 + 4 * ((c.spNum h 4 + n) % 2 ^ c.spNum (h + 8) 1)

/-- The header, or an entry, cannot be read (R71, R349, R372). -/
def queueData (c : Scene) (a n : Nat) : Option FaultInfo :=
  if c.spPoisoned a n then some { kind := 0x0C, va := a, detail := 0 }
  else if c.spBad a n then some { kind := 0x0C, va := a, detail := 0x0606 }
  else none

/-- One dequeue of a queue (R349, R372): the entry and the new HEAD, if it moves, or the fault. -/
def dequeue (c : Scene) (h : Nat) : Except FaultInfo (Word × Option Nat) :=
  let head := c.spNum h 4
  match queueData c h 16 with
  | some f => .error f
  | none => if head == c.spNum (h + 4) 4 then .ok (0xFFFFFFFF, none)
    else match queueData c (queueEntry c h 0) 4 with
      | some f => .error f
      | none => .ok (BitVec.ofNat 32 (c.spNum (queueEntry c h 0) 4), some (head + 1))

/-- The empty lines that n dequeues would read: those of the entries up to the first that cannot be read (R71, R349). -/
def queueWaits (c : Scene) (h n : Nat) : List Nat :=
  let count := min n ((c.spNum (h + 4) 4 + 2 ^ 32 - c.spNum h 4) % 2 ^ 32)
  let entries := (List.range count).map (queueEntry c h)
  let good := entries.takeWhile fun a => (queueData c a 4).isNone
  ((good ++ (entries.drop good.length).take 1).flatMap fun a => c.spLines a 4).filter c.empty.contains

/-- A lane of `REFILL`: its reads are a thread's, and the header's is an acquire at scene scope (R349). -/
def refillLane (x : WordCtx) (h : Nat) (s : State) (th : Nat) : Except FaultInfo Word × State :=
  let c := s.scene x.scene
  let at1 := queueEntry c h 0
  let v := s.seeScene (s.threadReader th) x.scene
    (((List.range 16).map (h + ·) ++ (List.range 4).map (at1 + ·)).map c.spPhys)
  let head := (List.range 4).map fun i => c.spPhys (h + i)
  match dequeue v.1 h with
  | .error f => (.error f, v.2)
  | .ok (e, n) =>
    let s := (v.2.acquireL1 x.core).acquireAt (.thread th) 1 (.sp x.scene) (c.spPhys h) 16
    (.ok e, match n with
      | some n => (s.keepSp x.scene (s.threadReader th) head).modScene x.scene fun c => c.spWrite h (leBytes 4 n)
      | none => s)

/-- `REFILL` (R180, R349): its reads wait on empty lines, the header's first; a queue whose header is poisoned faults in
each lane. -/
def execRefill (w : JWord) (s : State) : Out :=
  runControl (.refill w) s fun x s =>
    match x.lanes with
    | [] => .done s
    | l0 :: _ =>
      let h := (s.opnd l0.2 w.a).toNat
      let c := s.scene x.scene
      let lanes := x.lanes.filter fun l => !(s.thread l.2).helper
      if queueAt c h && c.spEmpty h 16 then .hold (.lines ((c.spLines h 16).filter c.empty.contains))
      else if !queueAt c h || ((queueData c h 16).isNone && !queueOk c h) then .done (x.faultAll s 2 0xFFFF 0 0)
      else if !(queueWaits c h lanes.length).isEmpty && (queueData c h 16).isNone then
        .hold (.lines (queueWaits c h lanes.length))
      else
        let r := x.lanes.foldl (fun (acc : State × List (Nat × List Word)) l =>
          if (s.thread l.2).helper then (acc.1, acc.2 ++ [(l.2, [0xFFFFFFFF])])
          else
            let q := refillLane x h acc.1 l.2
            match q.1 with
            | .ok v => (q.2, acc.2 ++ [(l.2, [v])])
            | .error f => (x.fault q.2 l.2 f.kind 0xFFFF f.va f.detail, acc.2)) (s, [])
        .done (r.1.pipeWrites x.pipeB (allWrites w.d false r.2))

/-! ## Traps, regions and ranges (R181 to R183) -/

/-- The region starts after the word, and then the fault is taken (R181). -/
def trapLane (x : WordCtx) (s : State) (kind : Nat) (a : Sel) (th : Nat) : State :=
  let v := s.opnd th a
  x.fault (s.modThread th fun t => { t with rgnPc := x.addr + 8 }) th kind 0xFFFF 0 (v.toNat % 2 ^ 16)

/-- `TRAP` (R181): SWTRAP in each active non-helper lane. -/
def execTrap (w : JWord) (s : State) : Out :=
  runControl (.trap w) s fun x s => .done <|
    (x.lanes.filter fun l => !(s.thread l.2).helper).foldl (fun s l => trapLane x s 0x13 w.a l.2) s

/-- `BRKPT` (R181): BRK in each active lane. -/
def execBrkpt (w : JWord) (s : State) : Out :=
  runControl (.brkpt w) s fun x s => .done (x.lanes.foldl (fun s l => trapLane x s 0x14 w.a l.2) s)

/-- `RGNE` (R182). -/
def execRgne (w : JWord) (s : State) : Out :=
  runControl (.rgne w) s fun x s => .done <|
    x.lanes.foldl (fun (s : State) l => s.modThread l.2 fun t =>
      { t with rgnPc := x.addr + 8, rgnCnt := t.rgnCnt + 1 }) s

/-- The fields of a range record: TID and depth (R444). -/
def rangeB (t : Thread) (depth : Nat) : Nat := t.tid + depth * 2 ^ 16

/-- `RNGPUSH` (R183, R444). -/
def execRngpush (w : JWord) (s : State) : Out :=
  runControl (.rngpush w) s fun x s => .done <|
    x.lanes.foldl (fun (s : State) l =>
      let t := s.thread l.2
      let v := s.opnd l.2 w.a
      if 16 ≤ t.ranges.length then s.sillage (x.ctx s) 8 x.core v.toNat (rangeB t 16) (some l.2) none
      else (s.modThread l.2 fun t => { t with ranges := v :: t.ranges }).sillage (x.ctx s) 6 x.core v.toNat
        (rangeB t (t.ranges.length + 1)) (some l.2) (some v)) s

/-- `RNGPOP` (R183, R444). -/
def execRngpop (w : JWord) (s : State) : Out :=
  runControl (.rngpop w) s fun x s => .done <|
    x.lanes.foldl (fun (s : State) l =>
      let t := s.thread l.2
      match t.ranges with
      | [] => s.sillage (x.ctx s) 9 x.core 0 (rangeB t 0) (some l.2) none
      | v :: rest => (s.modThread l.2 fun t => { t with ranges := rest }).sillage (x.ctx s) 7 x.core v.toNat
          (rangeB t rest.length) (some l.2) (some v)) s

end Sys2Proof.Machine
end

