-- ==== Sys2Proof/Machine/Integer.lean ====
section
/-! DEFINITION. The instructions of opcodes 0x00 to 0x2B: moves, integer arithmetic, logic, shifts, bit fields, compares,
predicates, lane operations and special values (R149 to R170). -/

namespace Sys2Proof.Machine

/-- Signedness, element width and element count of an integer type code (R150). -/
def typSigned (c : Nat) : Bool := c % 2 == 0
def typWidth (c : Nat) : Nat := if c % 8 < 2 then 32 else if c % 8 < 4 then 64 else if c % 8 < 6 then 16 else 8
def typElems (c : Nat) : Nat := if typWidth c ≥ 32 then 1 else 32 / typWidth c

/-- Element e of an operand under a type code, as an integer (R105). -/
def typElem (c e x : Nat) : Int := intVal (typSigned c) (typWidth c) (x / 2 ^ (typWidth c * e))

/-- A result of one or two words. -/
def resN (n x flags : Nat) : LaneRes := { words := wordsOf n x, flags := flags }

/-- A 32-bit result. -/
def res32 (x : Nat) : LaneRes := resN 1 x 0

/-- Registers of an operand of the type. -/
def typRegs (c : Nat) : Nat := if typWidth c == 64 then 2 else 1

/-- The element-wise computation of R154: each element's exact result from the elements of the operands, wrapped or
saturated. -/
def elementwise (c : Nat) (sat : Bool) (ops : List Nat) (f : List Int → Int) : LaneRes :=
  let w := typWidth c
  let rs := (List.range (typElems c)).map fun e => (e, intRes sat (typSigned c) w (f (ops.map (typElem c e))))
  resN (typRegs c) (rs.foldl (fun acc r => acc + r.2.1 * 2 ^ (w * r.1)) 0) (rs.foldl (fun acc r => orF acc r.2.2) 0)

/-- Sources A, B and C of a format-T word as numbers of `n` registers. -/
def srcA (s : State) (w : TWord) (n th : Nat) : Nat := s.opndN th w.a n
def srcB (s : State) (w : TWord) (n th : Nat) : Nat := s.opndN th w.b n
def srcC (s : State) (w : TWord) (n th : Nat) : Nat := s.opndN th w.c n

/-- A per-lane instruction of format T (R149). -/
def perLane (i : Instr) (w : TWord) (s : State) (f : State → Nat → Nat → LaneRes) : Out :=
  runWord i s fun x s => .done (x.alu w.d w.nw s (f s))

/-- A per-lane instruction of format I. -/
def perLaneI (i : Instr) (w : IWord) (s : State) (f : Word → LaneRes) : Out :=
  runWord i s fun x s => .done (x.alu w.d w.nw s fun _ th => f (s.opnd th w.a))

/-- The arithmetic of R154 on sources A and B. -/
def arith2 (i : Instr) (w : TWord) (s : State) (f : Int → Int → Int) : Out :=
  let c := w.mod.toNat
  perLane i w s fun s _ th =>
    elementwise (c % 8) (bitOf c 3) [srcA s w (typRegs c) th, srcB s w (typRegs c) th] fun v =>
      f (v.getD 0 0) (v.getD 1 0)

/-! ## Moves and uniform operations -/

/-- `NOP` (R151). -/
def execNop (w : TWord) (s : State) : Out := runWord (.nop w) s fun _ s => .done s

/-- `MOV` (R152). -/
def execMov (w : TWord) (s : State) : Out :=
  perLane (.mov w) w s fun s _ th => resN (m3W w) (srcA s w (m3W w) th) 0

/-- `MOVI` (R152). -/
def execMovi (w : IWord) (s : State) : Out := perLaneI (.movi w) w s fun _ => res32 w.imm.toNat

/-- `SEL` (R152). -/
def execSel (w : TWord) (s : State) : Out :=
  perLane (.sel w) w s fun s _ th =>
    resN (m3W w) (if s.opnd th w.c != 0 then srcA s w (m3W w) th else srcB s w (m3W w) th) 0

/-- `UMOV` (R153). -/
def execUmov (w : TWord) (s : State) : Out :=
  runWord (.umov w) s fun x s => .done <|
    match x.lanes with
    | [] => s
    | l :: _ =>
      match x.lanes.find? fun y => y.1 == (s.opnd l.2 w.b).toNat % 32 with
      | none => x.countCue s
      | some j => x.alu w.d w.nw s fun _ _ => res32 (s.opnd j.2 w.a).toNat

/-- `UIADD` (R153). -/
def execUiadd (w : TWord) (s : State) : Out :=
  perLane (.uiadd w) w s fun s _ th =>
    resN (m3W w) (wrapI ((srcA s w (m3W w) th + srcB s w (m3W w) th : Nat) : Int) (32 * m3W w)) 0

/-! ## Integer arithmetic (R154 to R156) -/

/-- `IADD`. -/
def execIadd (w : TWord) (s : State) : Out := arith2 (.iadd w) w s fun a b => a + b

/-- `ISUB`. -/
def execIsub (w : TWord) (s : State) : Out := arith2 (.isub w) w s fun a b => a - b

/-- `IADD3`. -/
def execIadd3 (w : TWord) (s : State) : Out :=
  let c := w.mod.toNat
  perLane (.iadd3 w) w s fun s _ th =>
    elementwise (c % 8) (bitOf c 3) [srcA s w (typRegs c) th, srcB s w (typRegs c) th, srcC s w (typRegs c) th]
      List.sum

/-- `IMUL`. -/
def execImul (w : TWord) (s : State) : Out := arith2 (.imul w) w s fun a b => a * b

/-- `IMULH`: the high 32 bits of the exact product. -/
def execImulh (w : TWord) (s : State) : Out := arith2 (.imulh w) w s fun a b => a * b / 2 ^ 32

/-- `IMAD`, and with `.acc64` the sum with a 64-bit pair. -/
def execImad (w : TWord) (s : State) : Out :=
  let c := w.mod.toNat
  let sg := typSigned (c % 8)
  let n := accW w
  perLane (.imad w) w s fun s _ th =>
    let r := intRes (bitOf c 3) sg (32 * n) (intVal sg 32 (srcA s w 1 th) * intVal sg 32 (srcB s w 1 th) +
      intVal sg (32 * n) (srcC s w n th))
    resN n r.1 r.2

/-- `ISAD`: the sum of absolute differences, plus c. -/
def execIsad (w : TWord) (s : State) : Out :=
  let c := w.mod.toNat % 8
  let sg := typSigned c
  perLane (.isad w) w s fun s _ th =>
    let ds := (List.range (typElems c)).map fun e =>
      ((typElem c e (srcA s w 1 th) - typElem c e (srcB s w 1 th)).natAbs : Int)
    let r := intRes (bitOf w.mod.toNat 3) sg 32 (ds.sum + intVal sg 32 (srcC s w 1 th))
    resN 1 r.1 r.2

/-- `IMIN`. -/
def execImin (w : TWord) (s : State) : Out := arith2 (.imin w) w s min

/-- `IMAX`. -/
def execImax (w : TWord) (s : State) : Out := arith2 (.imax w) w s max

/-- `IABS`. -/
def execIabs (w : TWord) (s : State) : Out :=
  let c := w.mod.toNat
  perLane (.iabs w) w s fun s _ th =>
    elementwise (c % 8) (bitOf c 3) [srcA s w (typRegs c) th] fun v => ((v.getD 0 0).natAbs : Int)

/-- `IADDI` (R155). -/
def execIaddi (w : IWord) (s : State) : Out :=
  perLaneI (.iaddi w) w s fun a => res32 (a + w.imm).toNat

/-- The carry-in of R156, and where the carry-out goes. -/
def carryIn (s : State) (w : TWord) (th : Nat) : Int :=
  if bitOf w.xm.toNat 2 then 0 else ((s.opnd th w.c).toNat : Int)

/-- A 32-bit result with a carry-out to the predicate C (R156). -/
def carryRes (w : TWord) (x : Int) (cout : Bool) : LaneRes :=
  { words := wordsOf 1 (wrapI x 32)
    extra := if selClass w.c == .pred then [(.p (selReg w.c), if cout then 1 else 0)] else [] }

/-- `IADDC` (R156). -/
def execIaddc (w : TWord) (s : State) : Out :=
  perLane (.iaddc w) w s fun s _ th =>
    let x := (srcA s w 1 th : Int) + srcB s w 1 th + carryIn s w th
    carryRes w x (decide (2 ^ 32 ≤ x))

/-- `ISUBB` (R156). -/
def execIsubb (w : TWord) (s : State) : Out :=
  perLane (.isubb w) w s fun s _ th =>
    let x := (srcA s w 1 th : Int) - srcB s w 1 th - carryIn s w th
    carryRes w x (decide (x < 0))

/-! ## Logic, shifts and bit fields (R157 to R161) -/

/-- `AND` (R157). -/
def execAnd (w : TWord) (s : State) : Out :=
  perLane (.and w) w s fun s _ th => res32 (s.opnd th w.a &&& s.opnd th w.b).toNat

/-- `OR` (R157). -/
def execOr (w : TWord) (s : State) : Out :=
  perLane (.or w) w s fun s _ th => res32 (s.opnd th w.a ||| s.opnd th w.b).toNat

/-- `XOR` (R157). -/
def execXor (w : TWord) (s : State) : Out :=
  perLane (.xor w) w s fun s _ th => res32 (s.opnd th w.a ^^^ s.opnd th w.b).toNat

/-- `ANDN` (R157). -/
def execAndn (w : TWord) (s : State) : Out :=
  perLane (.andn w) w s fun s _ th => res32 (s.opnd th w.a &&& ~~~(s.opnd th w.b)).toNat

/-- `ANDI` (R157). -/
def execAndi (w : IWord) (s : State) : Out := perLaneI (.andi w) w s fun a => res32 (a &&& w.imm).toNat

/-- `ORI` (R157). -/
def execOri (w : IWord) (s : State) : Out := perLaneI (.ori w) w s fun a => res32 (a ||| w.imm).toNat

/-- `XORI` (R157). -/
def execXori (w : IWord) (s : State) : Out := perLaneI (.xori w) w s fun a => res32 (a ^^^ w.imm).toNat

/-- Bit by bit, the table entry at a + 2 b + 4 d (R158). -/
def lutBits (n lut a b d : Nat) : Nat :=
  (List.range n).foldl (fun acc i =>
    acc + b2n (bitOf lut (b2n (bitOf a i) + 2 * b2n (bitOf b i) + 4 * b2n (bitOf d i))) * 2 ^ i) 0

/-- `LOP3` (R158). -/
def execLop3 (w : TWord) (s : State) : Out :=
  perLane (.lop3 w) w s fun s _ th => res32 (lutBits 32 w.c.toNat (srcA s w 1 th) (srcB s w 1 th) (s.opnd th w.d).toNat)

/-- `SHL` (R159). -/
def execShl (w : TWord) (s : State) : Out :=
  let n := typW w
  perLane (.shl w) w s fun s _ th =>
    let k := (s.opnd th w.b).toNat
    resN n (if 32 * n ≤ k then 0 else srcA s w n th * 2 ^ k) 0

/-- `SHR` (R159). -/
def execShr (w : TWord) (s : State) : Out :=
  let n := typW w
  perLane (.shr w) w s fun s _ th =>
    let k := min (s.opnd th w.b).toNat (32 * n)
    resN n (wrapI (intVal (typSigned (w.mod.toNat % 8)) (32 * n) (srcA s w n th) / ((2 ^ k : Nat) : Int)) (32 * n)) 0

/-- `SHF` (R159). -/
def execShf (w : TWord) (s : State) : Out :=
  perLane (.shf w) w s fun s _ th =>
    let v := srcA s w 1 th * 2 ^ 32 + srcB s w 1 th
    let k := (s.opnd th w.c).toNat
    res32 (if w.mod.toNat == 0 then v / 2 ^ min k 64 else v / 2 ^ (k % 64) + v * 2 ^ (64 - k % 64))

/-- `BFX` (R160). -/
def execBfx (w : TWord) (s : State) : Out :=
  perLane (.bfx w) w s fun s _ th =>
    let ctl := srcB s w 1 th
    let sg := w.mod.toNat == 0
    let len := min (bitsOf ctl 15 8) 32
    let f := wrapI (intVal sg 32 (srcA s w 1 th) / ((2 ^ (ctl % 256) : Nat) : Int)) len
    res32 (if sg && len != 0 then wrapI (sextN f len) 32 else f)

/-- `BFI` (R160). -/
def execBfi (w : TWord) (s : State) : Out :=
  perLane (.bfi w) w s fun s _ th =>
    let ctl := srcC s w 1 th
    let pos := ctl % 256
    let len := min (bitsOf ctl 15 8) 32
    let b := srcB s w 1 th
    if len == 0 || 32 ≤ pos then res32 b
    else res32 (b - bitsOf b (pos + len - 1) pos * 2 ^ pos + srcA s w 1 th % 2 ^ len * 2 ^ pos)

/-- The number of bits set among the low `n`. -/
def popcount (n x : Nat) : Nat := ((List.range n).filter fun i => bitOf x i).length

/-- `POPC` (R161). -/
def execPopc (w : TWord) (s : State) : Out :=
  perLane (.popc w) w s fun s _ th => res32 (popcount (32 * m3W w) (srcA s w (m3W w) th))

/-- `CLZ` (R161). -/
def execClz (w : TWord) (s : State) : Out :=
  perLane (.clz w) w s fun s _ th =>
    let x := srcA s w (m3W w) th
    res32 (if x == 0 then 32 * m3W w else 32 * m3W w - 1 - Nat.log2 x)

/-- `BREV` (R161). -/
def execBrev (w : TWord) (s : State) : Out :=
  let n := 32 * m3W w
  perLane (.brev w) w s fun s _ th =>
    let x := srcA s w (m3W w) th
    resN (m3W w) ((List.range n).foldl (fun acc i => acc + b2n (bitOf x (n - 1 - i)) * 2 ^ i) 0) 0

/-! ## Compares and predicates (R162 to R165) -/

/-- A comparison by condition code: eq, ne, lt, le, gt, ge. -/
def compareInt (cond : Nat) (a b : Int) : Bool :=
  match cond with
  | 0 => a == b
  | 1 => a != b
  | 2 => decide (a < b)
  | 3 => decide (a ≤ b)
  | 4 => decide (b < a)
  | _ => decide (b ≤ a)

/-- A result that a predicate or a register takes. -/
def boolRes (b : Bool) : LaneRes := { words := [if b then 1 else 0], pred := some b }

/-- `ICMP` (R162). -/
def execIcmp (w : TWord) (s : State) : Out :=
  let sg := w.xm.toNat / 4 % 2 == 0
  perLane (.icmp w) w s fun s _ th =>
    boolRes (compareInt w.mod.toNat (intVal sg (32 * xmW w) (srcA s w (xmW w) th))
      (intVal sg (32 * xmW w) (srcB s w (xmW w) th)) && s.opnd th w.c != 0)

/-- The test of an `ICMPI` condition code (R163). -/
def icmpiTest (code : Nat) (a imm : Word) : Bool :=
  if code < 6 then compareInt code (intVal true 32 a.toNat) (intVal true 32 imm.toNat)
  else compareInt (code - 4) (a.toNat : Int) (imm.toNat : Int)

/-- `ICMPI` (R163). -/
def execIcmpi (w : IWord) (s : State) : Out :=
  runWord (.icmpi w) s fun x s => .done <|
    x.alu 0x150 true s fun _ th =>
      let b := icmpiTest (w.d.toNat / 8 % 16) (s.opnd th w.a) w.imm
      { words := [if b then 1 else 0], extra := if w.nw then [] else [(.p (w.d.toNat % 8), if b then 1 else 0)] }

/-- `PLOP` (R164). -/
def execPlop (w : TWord) (s : State) : Out :=
  perLane (.plop w) w s fun s _ th =>
    boolRes (bitOf (lutBits 1 w.c.toNat (srcA s w 1 th) (srcB s w 1 th) (s.opnd th w.d).toNat) 0)

/-- `PMOV.pack` (R165). -/
def execPmovPack (w : TWord) (s : State) : Out :=
  perLane (.pmovPack w) w s fun s _ th =>
    res32 ((List.range 8).foldl (fun acc j => acc + b2n ((s.thread th).pred j) * 2 ^ j) 0)

/-- `PMOV.unpack` (R165). DEDUCED (log 24): its results are predicates alone, seven of them, and none is the value of R57's latch,
which keeps what it holds. -/
def execPmovUnpack (w : TWord) (s : State) : Out :=
  perLane (.pmovUnpack w) w s fun s _ th =>
    { extra := (List.range 7).map fun j => (.p (j + 1), if bitOf (srcA s w 1 th) (j + 1) then 1 else 0) }

/-! ## Lane operations (R166 to R169) -/

/-- The source lane of `SHFL` (R166): V is the active lanes in ascending order. -/
def shflSource (mode l b : Nat) (vs : List Nat) : Option Nat :=
  match mode with
  | 0 => some (b % 32)
  | 1 => some (l + b)
  | 2 => if b ≤ l then some (l - b) else none
  | 3 => vs[((vs.idxOf l) + b) % vs.length]?
  | _ => some (l ^^^ (b % 32))

/-- `SHFL` (R166). -/
def execShfl (w : TWord) (s : State) : Out :=
  runWord (.shfl w) s fun x s => .done <|
    x.alu w.d w.nw s fun l th =>
      match (shflSource w.mod.toNat l (s.opnd th w.b).toNat (x.lanes.map Prod.fst)).bind fun j =>
          x.lanes.find? fun y => y.1 == j with
      | some y => res32 (s.opnd y.2 w.a).toNat
      | none => res32 (s.opnd th w.c).toNat

/-- `VOTE` (R167). -/
def execVote (w : TWord) (s : State) : Out :=
  runWord (.vote w) s fun x s => .done <|
    let vs := x.lanes.map fun l => s.opnd l.2 w.a
    let n := (vs.filter fun v => v != 0).length
    let r := match w.mod.toNat with
      | 0 => b2n (0 < n)
      | 1 => b2n (n == vs.length)
      | 2 => b2n (n == 0)
      | 3 => b2n (vs.all fun v => v == vs.getD 0 0)
      | 4 => n
      | _ => b2n (vs.length < 2 * n)
    x.alu w.d w.nw s fun _ _ => { words := wordsOf 1 r, pred := some (r != 0) }

/-- `BALLOT` (R168). -/
def execBallot (w : TWord) (s : State) : Out :=
  runWord (.ballot w) s fun x s => .done <|
    let m := x.lanes.foldl (fun acc l => acc + b2n (s.opnd l.2 w.a != 0) * 2 ^ l.1) 0
    x.alu w.d w.nw s fun _ _ => res32 m

/-- The reduction of `REDUX` over the values of the active lanes, ascending (R116, R117, R118, R169). -/
def reduxRes (mode xm : Nat) (vs : List Nat) : Nat × Nat :=
  let sg := xm / 4 % 2 == 0
  let ints := vs.map (intVal sg 32)
  match mode, ints, vs with
  | 0, _, _ => intRes (xm / 8 == 1) sg 32 ints.sum
  | 1, i :: is, _ => (wrapI (is.foldl min i) 32, 0)
  | 2, i :: is, _ => (wrapI (is.foldl max i) 32, 0)
  | 3, _, v :: rest => (rest.foldl (· &&& ·) v, 0)
  | 4, _, v :: rest => (rest.foldl (· ||| ·) v, 0)
  | 5, _, v :: rest => (rest.foldl (· ^^^ ·) v, 0)
  | 6, _, v :: rest =>
    rest.foldl (fun acc y => let r := f32.add (xm % 4) acc.1 y; (r.1, orF acc.2 r.2))
      (if (f32.val v).isNan then f32.nan else v, 0)
  | 7, _, v :: rest => (rest.foldl (f32.minMax false) (f32.minMax false v v), 0)
  | 8, _, v :: rest => (rest.foldl (f32.minMax true) (f32.minMax true v v), 0)
  | _, _, _ => (0, 0)

/-- `REDUX` (R169). -/
def execRedux (w : TWord) (s : State) : Out :=
  runWord (.redux w) s fun x s => .done <|
    let r := reduxRes w.mod.toNat w.xm.toNat (x.lanes.map fun l => (s.opnd l.2 w.a).toNat)
    x.alu w.d w.nw s fun _ _ => resN 1 r.1 r.2

/-! ## Special values (R60, R170) -/

/-- Special value n of a thread (R60). -/
def State.special (s : State) (tk th n : Nat) : Nat :=
  let t := s.thread th
  let c := s.scene t.scene
  let member := (s.castOf th).bind fun i => ((s.cast i).member th).map fun m => (s.cast i, m)
  match n with
  | 0 => t.colour
  | 1 => t.tid
  | 2 => c.sid.toNat
  | 3 => (member.map fun m => m.2.rank).getD 0xFFFFFFFF
  | 4 => s.clock
  | 5 => if c.quad then t.colour / 4 else 0xFFFFFFFF
  | 6 => b2n t.helper
  | 7 => t.rgnCnt.toNat
  | 8 => t.rgnPc.toNat
  | 9 => t.slot
  | 10 => c.core
  | 11 => (s.take tk).bay
  | 12 => c.cap
  | 13 => if c.ctx == supCtx then 0xFFFFFFFF else c.ctx
  | 14 => s.pkgId
  | 15 => (member.map fun m => m.1.key.toNat).getD 0xFFFFFFFF
  | _ => t.fpsr.toNat

/-- `RDSPEC` (R170). -/
def execRdspec (w : TWord) (s : State) : Out :=
  let n := selReg w.a
  runWord (.rdspec w) s fun x s => .done <|
    x.alu w.d w.nw s fun _ th => resN (if n == 4 || n == 8 then 2 else 1) (s.special x.tk th n) 0

/-- `RDSPEC.clr` (R170): reads FPSR and clears it in the same lane. -/
def execRdspecClr (w : TWord) (s : State) : Out :=
  runWord (.rdspecClr w) s fun x s => .done <|
    x.lanes.foldl (fun (s : State) l => s.modThread l.2 fun t => { t with fpsr := 0 })
      (x.alu w.d w.nw s fun _ th => res32 (s.thread th).fpsr.toNat)

end Sys2Proof.Machine
end

