-- ==== Sys2Proof/Machine/Float.lean ====
section
/-! DEFINITION. The floating-point instructions of opcodes 0x48 to 0x6E but the transcendentals: FP32 and packed 16-bit
arithmetic, complex numbers, compares, conversions, quantisation, quad operations and ray tests (R185 to R206). -/

namespace Sys2Proof.Machine

/-- A result and its flags, clamped to [+0, 1.0] under `.sat` (R186). -/
def fres (f : Fmt) (sat : Bool) (r : Nat × Nat) : Nat × Nat := (if sat then f.clamp01 r.1 else r.1, r.2)

/-- A 32-bit result with its flags. -/
def flt32 (r : Nat × Nat) : LaneRes := resN 1 r.1 r.2

/-- The rounding mode of XM[1:0] (R110), and XM[2]. -/
def xmMode (w : TWord) : Mode := w.xm.toNat % 4
def xmBit2 (w : TWord) : Bool := bitOf w.xm.toNat 2

/-- An FP32 instruction of two or three sources (R187). -/
def float3 (i : Instr) (w : TWord) (s : State) (f : Mode → Nat → Nat → Nat → Nat × Nat) : Out :=
  perLane i w s fun s _ th =>
    flt32 (fres f32 (xmBit2 w) (f (xmMode w) (srcA s w 1 th) (srcB s w 1 th) (srcC s w 1 th)))

/-! ## FP32 arithmetic (R187) -/

/-- `FADD`. -/
def execFadd (w : TWord) (s : State) : Out := float3 (.fadd w) w s fun m a b _ => f32.add m a b

/-- `FSUB`. -/
def execFsub (w : TWord) (s : State) : Out := float3 (.fsub w) w s fun m a b _ => f32.add m a (f32.negBits b)

/-- `FMUL`. -/
def execFmul (w : TWord) (s : State) : Out := float3 (.fmul w) w s fun m a b _ => f32.mul m a b

/-- `FFMA`. -/
def execFfma (w : TWord) (s : State) : Out := float3 (.ffma w) w s f32.fma

/-- `FADDI`: to nearest even. -/
def execFaddi (w : IWord) (s : State) : Out :=
  perLaneI (.faddi w) w s fun a => flt32 (f32.add 0 a.toNat w.imm.toNat)

/-- `FMULI`: to nearest even. -/
def execFmuli (w : IWord) (s : State) : Out :=
  perLaneI (.fmuli w) w s fun a => flt32 (f32.mul 0 a.toNat w.imm.toNat)

/-- `FMIN` (R118). -/
def execFmin (w : TWord) (s : State) : Out :=
  perLane (.fmin w) w s fun s _ th => res32 (f32.minMax false (srcA s w 1 th) (srcB s w 1 th))

/-- `FMAX` (R118). -/
def execFmax (w : TWord) (s : State) : Out :=
  perLane (.fmax w) w s fun s _ th => res32 (f32.minMax true (srcA s w 1 th) (srcB s w 1 th))

/-! ## Compares and classification (R188, R189) -/

/-- A comparison by condition code: eq, ne, lt, le, gt, ge, num, nan (R188). -/
def compareF32 (cond a b : Nat) : Bool :=
  let x := f32.val a
  let y := f32.val b
  let nan := x.isNan || y.isNan
  match cond with
  | 0 => !nan && x.eq y
  | 1 => nan || !x.eq y
  | 2 => !nan && x.lt false y
  | 3 => !nan && !y.lt false x
  | 4 => !nan && y.lt false x
  | 5 => !nan && !x.lt false y
  | 6 => !nan
  | _ => nan

/-- `FCMP` (R188). -/
def execFcmp (w : TWord) (s : State) : Out :=
  perLane (.fcmp w) w s fun s _ th =>
    boolRes (compareF32 w.mod.toNat (srcA s w 1 th) (srcB s w 1 th) && s.opnd th w.c != 0)

/-- The class of an FP32 value (R189). -/
def classF32 (x : Nat) : Nat :=
  let neg := bitOf x 31
  match bitsOf x 30 23, x % 2 ^ 23 with
  | 255, 0 => if neg then 0 else 7
  | 255, _ => 8
  | 0, 0 => if neg then 3 else 4
  | 0, _ => if neg then 2 else 5
  | _, _ => if neg then 1 else 6

/-- `FCLASS` (R189): C holds the mask. -/
def execFclass (w : TWord) (s : State) : Out :=
  perLane (.fclass w) w s fun s _ th => boolRes (bitOf w.c.toNat (classF32 (srcA s w 1 th)))

/-! ## Rounding and scaling (R190, R191) -/

/-- Round an FP32 value to an integral value, with the sign kept (R190). -/
def roundF32 (m : Mode) (a : Nat) : Nat × Nat :=
  match f32.val a with
  | .nan => (f32.nan, 0)
  | .inf _ => (a, 0)
  | .fin neg n d =>
    let r := roundInt m neg n d
    ((f32.round 0 (.fin neg r.1.natAbs 1)).1, if r.2 then flagNX else 0)

/-- `FRND` (R190). -/
def execFrnd (w : TWord) (s : State) : Out :=
  perLane (.frnd w) w s fun s _ th => flt32 (roundF32 (xmMode w) (srcA s w 1 th))

/-- a × 2^n rounded once (R191). Beyond ±400 every scale has the same result, since 2^−149 × 2^400 overflows and
2^128 × 2^−400 lies below half the smallest subnormal. -/
def ldexpF32 (m : Mode) (a : Nat) (n : Int) : Nat × Nat :=
  match f32.val a with
  | .fin neg x d =>
    let p := pow2 (clampI n (-400) 400)
    f32.round m (.fin neg (x * p.1) (d * p.2))
  | v => f32.round m v

/-- `FLDEXP` (R191). -/
def execFldexp (w : TWord) (s : State) : Out :=
  perLane (.fldexp w) w s fun s _ th => flt32 (ldexpF32 (xmMode w) (srcA s w 1 th) (sextN (srcB s w 1 th) 32))

/-! ## Packed 16-bit arithmetic and dot products (R193 to R195) -/

/-- The 16-bit format of MOD[0]. -/
def halfFmt (w : TWord) : Fmt := if bitOf w.mod.toNat 0 then bf16 else f16

/-- A source that is a pair of 16-bit floats: an FP constant is rounded into both elements (R141). -/
def State.opndPair (s : State) (f : Fmt) (th : Nat) (x : Sel) : Nat :=
  let v := (s.opnd th x).toNat
  if selClass x == .float then (f.round 0 (f32.val v)).1 * 0x10001 else v

/-- Element e of a pair. -/
def half (x e : Nat) : Nat := x / 2 ^ (16 * e) % 2 ^ 16

/-- A packed instruction: each element rounded once in its own format, the flags unioned (R112, R193). -/
def packed (i : Instr) (w : TWord) (s : State) (f : Fmt → Nat → Nat → Nat → Nat × Nat) : Out :=
  let h := halfFmt w
  perLane i w s fun s _ th =>
    let el := fun e => f h (half (s.opndPair h th w.a) e) (half (s.opndPair h th w.b) e) (half (s.opndPair h th w.c) e)
    let lo := el 0
    let hi := el 1
    resN 1 (lo.1 + hi.1 * 2 ^ 16) (orF lo.2 hi.2)

/-- `HADD2`. -/
def execHadd2 (w : TWord) (s : State) : Out :=
  packed (.hadd2 w) w s fun f a b _ => fres f (xmBit2 w) (f.add (xmMode w) a b)

/-- `HMUL2`. -/
def execHmul2 (w : TWord) (s : State) : Out :=
  packed (.hmul2 w) w s fun f a b _ => fres f (xmBit2 w) (f.mul (xmMode w) a b)

/-- `HFMA2`. -/
def execHfma2 (w : TWord) (s : State) : Out :=
  packed (.hfma2 w) w s fun f a b c => fres f (xmBit2 w) (f.fma (xmMode w) a b c)

/-- `HMNX2`. -/
def execHmnx2 (w : TWord) (s : State) : Out :=
  packed (.hmnx2 w) w s fun f a b _ => (f.minMax (bitOf w.mod.toNat 1) a b, 0)

/-- `FDOT2` (R194). -/
def execFdot2 (w : TWord) (s : State) : Out :=
  let h := halfFmt w
  perLane (.fdot2 w) w s fun s _ th =>
    let a := s.opndPair h th w.a
    let b := s.opndPair h th w.b
    flt32 (f32.finish (xmMode w) (FVal.dot (xmMode w)
      [(h.val (half a 0), h.val (half b 0)), (h.val (half a 1), h.val (half b 1))]
      (some (f32.val (srcC s w 1 th)))))

/-- Element e of four 8-bit elements. -/
def byteElem (signed : Bool) (x e : Nat) : Int := intVal signed 8 (x / 2 ^ (8 * e))

/-- `IDP4` (R195, R116). -/
def execIdp4 (w : TWord) (s : State) : Out :=
  let m := w.mod.toNat
  perLane (.idp4 w) w s fun s _ th =>
    let ps := [0, 1, 2, 3].map fun e => byteElem (!bitOf m 0) (srcA s w 1 th) e * byteElem (!bitOf m 1) (srcB s w 1 th) e
    let r := intRes (bitOf m 3) true 32 (ps.sum + sextN (srcC s w 1 th) 32)
    resN 1 r.1 r.2

/-! ## Complex FP32 (R196) -/

/-- The real and the imaginary part of a pair. -/
def State.complex (s : State) (th : Nat) (x : Sel) : Nat × Nat :=
  ((s.opndWord th x 0).toNat, (s.opndWord th x 1).toNat)

/-- The product of complex values, plus c, each part rounded once (R115). -/
def cmulRes (m : Mode) (a b : Nat × Nat) (c : Option (Nat × Nat)) : LaneRes :=
  let v := f32.val
  let re := f32.finish m (FVal.dot m [(v a.1, v b.1), ((v a.2).neg, v b.2)] (c.map fun x => v x.1))
  let im := f32.finish m (FVal.dot m [(v a.1, v b.2), (v a.2, v b.1)] (c.map fun x => v x.2))
  resN 2 (re.1 + im.1 * 2 ^ 32) (orF re.2 im.2)

/-- The B source of `CMUL` and `CMAD`: its conjugate under `.conj`. -/
def conjB (s : State) (w : TWord) (th : Nat) : Nat × Nat :=
  let b := s.complex th w.b
  if xmBit2 w then (b.1, f32.negBits b.2) else b

/-- `CMUL`. -/
def execCmul (w : TWord) (s : State) : Out :=
  perLane (.cmul w) w s fun s _ th => cmulRes (xmMode w) (s.complex th w.a) (conjB s w th) none

/-- `CMAD`. -/
def execCmad (w : TWord) (s : State) : Out :=
  perLane (.cmad w) w s fun s _ th =>
    cmulRes (xmMode w) (s.complex th w.a) (conjB s w th) (some (s.complex th w.c))

/-- `CMAG2`. -/
def execCmag2 (w : TWord) (s : State) : Out :=
  perLane (.cmag2 w) w s fun s _ th =>
    let a := s.complex th w.a
    let v := f32.val
    flt32 (f32.finish (xmMode w) (FVal.dot (xmMode w) [(v a.1, v a.1), (v a.2, v a.2)] none))

/-! ## Conversions (R197 to R200) -/

/-- The float format of XM[3:2] in `F2I` and `I2F`. -/
def xmFmt (w : TWord) : Fmt :=
  match w.xm.toNat / 4 with
  | 0 => f32
  | 1 => f16
  | _ => bf16

/-- `F2I` (R197): a narrow result is extended into the register (R105). -/
def execF2i (w : TWord) (s : State) : Out :=
  let c := w.mod.toNat % 8
  let f := xmFmt w
  perLane (.f2i w) w s fun s _ th =>
    let r := floatToInt (xmMode w) (typSigned c) (typWidth c) (f.val (srcA s w 1 th % 2 ^ f.width))
    resN (typRegs c) (wrapI (intVal (typSigned c) (typWidth c) r.1) (32 * typRegs c)) r.2

/-- `I2F` (R198). -/
def execI2f (w : TWord) (s : State) : Out :=
  let c := w.mod.toNat % 8
  perLane (.i2f w) w s fun s _ th =>
    flt32 ((xmFmt w).round (xmMode w) (intFVal (typElem c 0 (srcA s w (typRegs c) th))))

/-- The narrow format of MOD[2:0] in `F2F` (R199). -/
def narrowFmt (w : TWord) : Fmt :=
  match w.mod.toNat % 8 with
  | 1 => f16
  | 2 => bf16
  | 3 => e5m2
  | _ => e4m3

/-- A word with one element of `n` bits replaced (R105). -/
def setElem (n x e v : Nat) : Nat := x - x / 2 ^ (n * e) % 2 ^ n * 2 ^ (n * e) + v * 2 ^ (n * e)

/-- `F2F`, narrowing (R199, R113, R114). -/
def execF2fNarrow (w : TWord) (s : State) : Out :=
  let f := narrowFmt w
  perLane (.f2fNarrow w) w s fun s _ th =>
    let r := f.round (xmMode w) (f32.val (srcA s w 1 th)) (bitOf w.mod.toNat 3)
    resN 1 (setElem f.width (srcC s w 1 th) (selReg w.b) r.1) r.2

/-- `F2F`, widening (R199, R113). -/
def execF2fWiden (w : TWord) (s : State) : Out :=
  let f := narrowFmt w
  perLane (.f2fWiden w) w s fun s _ th =>
    res32 (f32.round 0 (f.val (srcA s w 1 th / 2 ^ (f.width * selReg w.b) % 2 ^ f.width))).1

/-- Quantisation of a product to 8 bits (R200): the element and its flags. -/
def quantise (m : Mode) (signed : Bool) (x : FVal) : Nat × Nat :=
  match x with
  | .nan => (0, flagNV)
  | .inf neg => (wrapI (if neg then intLo signed 8 else intHi signed 8) 8, flagSAT)
  | .fin neg n d => intRes true signed 8 (roundInt m neg n d).1

/-- `QNT` (R200): reads the old D. -/
def execQnt (w : TWord) (s : State) : Out :=
  let m := w.mod.toNat
  perLane (.qnt w) w s fun s _ th =>
    let q := quantise (xmMode w) (!bitOf m 2) ((f32.val (srcA s w 1 th)).mul (f32.val (srcB s w 1 th))).1
    resN 1 (setElem 8 (s.opnd th w.d).toNat (m % 4) q.1) q.2

/-- `DQNT` (R200). -/
def execDqnt (w : TWord) (s : State) : Out :=
  let m := w.mod.toNat
  perLane (.dqnt w) w s fun s _ th =>
    flt32 (f32.finish (xmMode w) ((intFVal (byteElem (!bitOf m 2) (srcA s w 1 th) (m % 4))).mul
      (f32.val (srcB s w 1 th))))

/-! ## Quad operations (R201 to R203) -/

/-- The pairs of quad members, earlier and later, that a lane of a derivative tries in turn (R202). -/
def derivPairs (vertical fine : Bool) (l : Nat) : List (Nat × Nat) :=
  let q := l / 4 * 4
  let step := if vertical then 2 else 1
  let other := if vertical then 1 else 2
  let own := if bitOf l (if vertical then 0 else 1) then other else 0
  let first := if fine then own else 0
  [(q + first, q + first + step), (q + (other - first), q + (other - first) + step)]

/-- A derivative (R202): a lane with no available pair gets +0. -/
def derivative (i : Instr) (w : TWord) (s : State) (vertical : Bool) : Out :=
  runWord i s fun x s => .done <|
    let lane := fun n => x.lanes.find? fun y => y.1 == n
    x.alu w.d w.nw s fun l _ =>
      match (derivPairs vertical (bitOf w.mod.toNat 0) l).findSome? fun p =>
          (lane p.1).bind fun a => (lane p.2).map fun b => (a.2, b.2) with
      | some (a, b) => flt32 (f32.add (xmMode w) (s.opnd b w.a).toNat (f32.negBits (s.opnd a w.a).toNat))
      | none => res32 0

/-- `DERIVX`. -/
def execDerivx (w : TWord) (s : State) : Out := derivative (.derivx w) w s false

/-- `DERIVY`. -/
def execDerivy (w : TWord) (s : State) : Out := derivative (.derivy w) w s true

/-- `QSWAP` (R203). -/
def execQswap (w : TWord) (s : State) : Out :=
  runWord (.qswap w) s fun x s => .done <|
    x.alu w.d w.nw s fun l th =>
      match x.lanes.find? fun y => y.1 == l ^^^ (w.mod.toNat + 1) with
      | some y => res32 (s.opnd y.2 w.a).toNat
      | none => res32 (s.opnd th w.a).toNat

/-! ## Ray tests (R204 to R206): every rounding is to nearest even, and no flag is set -/

/-- Register k of a run. -/
def State.run (s : State) (th : Nat) (x : Sel) (k : Nat) : Nat := (s.opndWord th x k).toNat

/-- x − y, rounded once. -/
def fsub0 (x y : Nat) : Nat := (f32.add 0 x (f32.negBits y)).1

/-- `RAYBOX` (R205). -/
def execRaybox (w : TWord) (s : State) : Out :=
  perLane (.raybox w) w s fun s _ th =>
    let a := s.run th w.a
    let b := s.run th w.b
    let bound := fun (corner i : Nat) => (f32.mul 0 (fsub0 (b (3 * corner + i)) (a i)) (a (3 + i))).1
    let near := [0, 1, 2].map fun i => f32.minMax false (bound 0 i) (bound 1 i)
    let far := [0, 1, 2].map fun i => f32.minMax true (bound 0 i) (bound 1 i)
    let tnear := near.foldl (f32.minMax true) (a 6)
    let tfar := far.foldl (f32.minMax false) (a 7)
    resN 2 (tnear + tfar * 2 ^ 32) 0

/-- A vector of three FP32 patterns. -/
abbrev Vec3 := Nat × Nat × Nat

/-- The component differences, each rounded once. -/
def sub3 (x y : Vec3) : Vec3 := (fsub0 x.1 y.1, fsub0 x.2.1 y.2.1, fsub0 x.2.2 y.2.2)

/-- p q − r t, rounded once. -/
def cross1 (p q r t : Nat) : Nat :=
  (f32.finish 0 (FVal.dot 0 [(f32.val p, f32.val q), ((f32.val r).neg, f32.val t)] none)).1

/-- The cross product, each component rounded once. -/
def cross3 (x y : Vec3) : Vec3 :=
  (cross1 x.2.1 y.2.2 x.2.2 y.2.1, cross1 x.2.2 y.1 x.1 y.2.2, cross1 x.1 y.2.1 x.2.1 y.1)

/-- The three-term sum, rounded once. -/
def dot3 (x y : Vec3) : Nat :=
  (f32.finish 0 (FVal.dot 0 [(f32.val x.1, f32.val y.1), (f32.val x.2.1, f32.val y.2.1),
    (f32.val x.2.2, f32.val y.2.2)] none)).1

/-- The finite and nonzero patterns. -/
def finiteNonzero (x : Nat) : Bool := classF32 x != 0 && classF32 x != 7 && classF32 x != 8 && x % 2 ^ 31 != 0

/-- The ray test of R206: t, beta and gamma where it hits. -/
def rayHit (cull : Bool) (o w q0 q1 q2 : Vec3) : Option (Nat × Nat × Nat) :=
  let e1 := sub3 q1 q0
  let e2 := sub3 q2 q0
  let pv := cross3 w e2
  let det := dot3 e1 pv
  let tv := sub3 o q0
  let qv := cross3 tv e1
  let beta := f32.div (dot3 tv pv) det
  let gamma := f32.div (dot3 w qv) det
  let t := f32.div (dot3 e2 qv) det
  if finiteNonzero det && (!cull || compareF32 4 det 0) && compareF32 5 beta 0 && compareF32 5 gamma 0 &&
      compareF32 3 (f32.add 0 beta gamma).1 0x3F800000 && compareF32 4 t 0 then some (t, beta, gamma)
  else none

/-- `RAYTRI` (R206). -/
def execRaytri (w : TWord) (s : State) : Out :=
  perLane (.raytri w) w s fun s _ th =>
    let a := s.run th w.a
    let b := s.run th w.b
    let vec := fun (f : Nat → Nat) (k : Nat) => (f k, f (k + 1), f (k + 2))
    match rayHit (w.mod.toNat == 1) (vec a 0) (vec a 3) (vec b 0) (vec b 3) (vec b 6) with
    | some (t, beta, gamma) => { words := [BitVec.ofNat 32 t, BitVec.ofNat 32 beta, BitVec.ofNat 32 gamma, 1] }
    | none => { words := [0x7F800000, 0, 0, 0] }

end Sys2Proof.Machine
end

