-- ==== Sys2Proof/Machine/LoopNest.lean ====
section
/-! DEFINITION. The macros over scratchpad arrays, `LOOPN` and `FILL` (R207 to R212), and what a stepped word keeps between its
steps (R34). -/

namespace Sys2Proof.Machine

/-! ## Macros -/

/-- The operation of the stepped word that the take is inside, none before its first step. The take's `progress` holds its
number plus one. -/
def macroOp (x : WordCtx) (s : State) : Option Nat :=
  let p := (s.take x.tk).progress
  if p == 0 then none else some (p - 1)

/-- A take stands between steps of a stepped word: the last one is over, and the next has not begun (R34). -/
def Take.betweenSteps (t : Take) : Bool := t.progress != 0 && !t.inStep && t.hold == .free

/-- Begin a stepped word: its operation, that the take points to from now on. -/
def beginMacro (x : WordCtx) (s : State) (args : List Nat) : State :=
  (x.start s args).modTake x.tk fun t => { t with progress := s.ops.length + 1 }

/-! ## Elements (R207, R208) -/

/-- Bytes of an element type. -/
def elemBytes (typ : Nat) : Nat := [4, 2, 2, 4, 4, 2, 2, 1, 1].getD typ 4

/-- The float format of element types 0 to 2. -/
def elemFmt (typ : Nat) : Fmt := if typ == 0 then f32 else if typ == 1 then f16 else bf16

/-- Absolute value of a float pattern; a NaN stays one. -/
def absBits (f : Fmt) (x : Nat) : Nat := x % 2 ^ (f.eb + f.fb)

/-- One iteration on float elements: the result and its flags. DEDUCED (log 87): `.copy` is a pure move in R108's sense, so that a
NaN keeps its bits. -/
def floatElem (f : Fmt) (m : Mode) (eop d a b : Nat) : Nat × Nat :=
  match eop with
  | 0 => (a, 0)
  | 1 => f.add m a b
  | 2 => f.add m a (f.negBits b)
  | 3 => f.mul m a b
  | 4 => f.fma m a b d
  | 5 => (f.minMax false a b, 0)
  | 6 => (f.minMax true a b, 0)
  | 7 => f.add m d a
  | _ => (f.minMax true d (absBits f a), 0)

/-- One iteration on integer elements. -/
def intElem (sat signed : Bool) (w eop : Nat) (d a b : Int) : Nat × Nat :=
  intRes sat signed w (match eop with
    | 0 => a
    | 1 => a + b
    | 2 => a - b
    | 3 => a * b
    | 4 => a * b + d
    | 5 => min a b
    | 6 => max a b
    | 7 => d + a
    | _ => max d (a.natAbs : Int))

/-- One iteration on element patterns of a type (R207, R208). -/
def elemOp (typ flags eop d a b : Nat) : Nat × Nat :=
  if typ < 3 then floatElem (elemFmt typ) (flags % 4) eop d a b
  else
    let w := 8 * elemBytes typ
    let sg := typ % 2 == 1
    intElem (bitOf flags 2) sg w eop (intVal sg w d) (intVal sg w a) (intVal sg w b)

/-- The operands that an operation reads: D, A and B. -/
def readsD (eop : Nat) : Bool := eop == 4 || eop == 7 || eop == 8
def usesB (eop : Nat) : Bool := 1 ≤ eop && eop ≤ 6

/-! ## Addresses (R209) -/

/-- Extent of level l, and the stride of operand o (0 D, 1 A, 2 B) at it. -/
def nestExtent (w : LWord) (l : Nat) : Nat := (w.ext.toList.getD l 0).toNat + 1
def nestStride (w : LWord) (o l : Nat) : Int := (w.str.toList.getD (3 * l + o) 0).toInt

/-- Iterations of the nest. -/
def nestTotal (w : LWord) : Nat := nestExtent w 0 * nestExtent w 1 * nestExtent w 2 * nestExtent w 3 * nestExtent w 4

/-- The index of level l in iteration k. -/
def nestIndex (w : LWord) (k l : Nat) : Nat :=
  k / ((List.range l).foldl (fun p j => p * nestExtent w j) 1) % nestExtent w l

/-- The address of operand o in iteration k. -/
def nestAddr (w : LWord) (base o k : Nat) : Int :=
  (base : Int) + (elemBytes w.typ.toNat : Int) *
    ((List.range 5).map fun l => (nestIndex w k l : Int) * nestStride w o l).sum

/-- The lowest and the highest address of operand o over every iteration. -/
def nestLowest (w : LWord) (base o : Nat) : Int :=
  (base : Int) + (elemBytes w.typ.toNat : Int) *
    ((List.range 5).map fun l => ((nestExtent w l - 1 : Nat) : Int) * min (nestStride w o l) 0).sum
def nestHighest (w : LWord) (base o : Nat) : Int :=
  (base : Int) + (elemBytes w.typ.toNat : Int) *
    ((List.range 5).map fun l => ((nestExtent w l - 1 : Nat) : Int) * max (nestStride w o l) 0).sum

/-! ## The nest -/

/-- How a nest goes on at an iteration. -/
inductive NestRes where
  | ok (c : Scene) (flags : Nat)
  /-- lines that it reads are empty -/
  | waits (ls : List Nat)
  /-- DATA at an address with a detail -/
  | data (va detail : Nat)
  deriving DecidableEq, Repr

/-- One iteration of the nest in a scene's scratchpad (R71, R207, R210, R372). DESIGN CHOICE (log 88): an iteration that reads an
empty line and a poisoned one waits for the empty line first. -/
def nestIterate (w : LWord) (bases : List Nat) (c : Scene) (k : Nat) : NestRes :=
  let sz := elemBytes w.typ.toNat
  let eop := w.eop.toNat
  let at1 := fun o => (nestAddr w (bases.getD o 0) o k).toNat
  let reads := (if readsD eop then [0] else []) ++ [1] ++ (if usesB eop then [2] else [])
  if reads.any fun o => c.spEmpty (at1 o) sz then
    .waits ((reads.flatMap fun o => c.spLines (at1 o) sz).filter c.empty.contains)
  else match reads.find? fun o => c.spPoisoned (at1 o) sz || c.spBad (at1 o) sz with
    | some o => .data (at1 o) (if c.spPoisoned (at1 o) sz then k else 0x0606)
    | none =>
      if c.spBadPart (at1 0) sz then .data (at1 0) 0x0606
      else
        let v := fun o => if reads.contains o then c.spNum (at1 o) sz else 0
        let r := elemOp w.typ.toNat w.flags.toNat eop (v 0) (v 1) (v 2)
        .ok (c.spWrite (at1 0) (leBytes sz r.1)) r.2

/-- Up to `n` iterations from k on: the scene, the flags, the iterations done, and why it stopped early. -/
def nestRun (w : LWord) (bases : List Nat) : Nat → Scene → Nat → Nat → Scene × Nat × Nat × Option NestRes
  | 0, c, fl, k => (c, fl, k, none)
  | n + 1, c, fl, k =>
    if nestTotal w ≤ k then (c, fl, k, none)
    else match nestIterate w bases c k with
      | .ok c f => nestRun w bases n c (orF fl f) (k + 1)
      | r => (c, fl, k, some r)

/-- A fault that a stepped word posts once (R209, R210). -/
def macroFault (x : WordCtx) (s : State) (kind va detail : Nat) : WordRes := .done (x.faultOnce s kind 0xFFFF va detail)

/-- Iterations and lines of a step (R34). -/
def stepSize : Nat := 16

/-- A step of the nest: 16 iterations, or fewer where it ends or fails. A read of an empty line holds the pipe inside the
step (R34, R210). -/
def nestStep (w : LWord) (x : WordCtx) (s : State) (op : Nat) : WordRes :=
  let o := s.op op
  let c := s.scene x.scene
  let sz := elemBytes w.typ.toNat
  let left := stepSize - o.progress % stepSize
  let at1 := fun (e k : Nat) => (nestAddr w (o.args.getD e 0) e k).toNat
  let places := fun (es : List Nat) (p q : Nat) => (List.range (q - p)).flatMap fun k => es.flatMap fun e =>
    (List.range sz).map fun b => c.spPhys (at1 e (p + k) + b)
  let es := if usesB w.eop.toNat then [0, 1, 2] else [0, 1]
  let ths := o.lanes.map Prod.snd
  let why := s.takeReader ths
  let v := s.seeScene why x.scene (places es o.progress (min (nestTotal w) (o.progress + left)))
  let r := nestRun w o.args left v.1 0 o.progress
  let y := { x with lanes := o.lanes }
  let go := fun (_ : Unit) =>
    let s := v.2.keepSp x.scene why (places [0] o.progress r.2.2.1)
    let s := s.modScene x.scene fun c => if v.1 == c then r.1
      else (List.range (r.2.2.1 - o.progress)).foldl (fun (c : Scene) k =>
        c.spWrite (at1 0 (o.progress + k)) (r.1.spRead (at1 0 (o.progress + k)) sz)) c
    let s := (List.range (r.2.2.1 - o.progress)).foldl (fun (s : State) k =>
      ths.foldl (fun (s : State) th =>
        let at2 := fun (e : Nat) => c.spPhys (at1 e (o.progress + k))
        (es.foldl (fun (s : State) e => s.plainRead th (.sp x.scene) (at2 e) sz) s).plainWrite th (.sp x.scene) (at2 0) sz) s) s
    let s := o.lanes.foldl (fun (s : State) l => s.orFlags l.2 r.2.1) s
    s.modOp op fun o => { o with progress := r.2.2.1 }
  match r.2.2.2 with
  | some (.waits ls) => if r.2.2.1 == o.progress then .hold (.lines ls) else .holdAt (go ()) (.lines ls)
  | some (.data va detail) => macroFault y ((go ()).modOp op fun o => { o with progress := nestTotal w }) 0x0C va detail
  | _ => if nestTotal w ≤ r.2.2.1 then .done (go ()) else .more (go ())

/-- `LOOPN` (R209, R210): checked before any effect, over every iteration. DESIGN CHOICE (log 66): of several operands that
offend, the record carries the first in the order D, A, B, and a lowest address below 0 stands modulo 2^57. -/
def execLoopn (w : LWord) (s : State) : Out :=
  runWord (.loopn w) s fun x s =>
    match macroOp x s with
    | some op => nestStep w x s op
    | none =>
      if (x.reporter s).isNone then .done s
      else
        let c := s.scene x.scene
        let sz := elemBytes w.typ.toNat
        let bases := [w.sd, w.sa, w.sb].map fun r => (c.uniReg r.toNat).toNat
        let used := [0, 1] ++ (if usesB w.eop.toNat then [2] else [])
        let base := fun o => bases.getD o 0
        let low := fun o => wrapI (nestLowest w (base o) o) 57
        match used.find? fun o => base o % sz != 0 with
        | some o => macroFault x s 5 (low o) 0
        | none =>
          match used.find? fun o => decide (nestLowest w (base o) o < 0) ||
              decide (((c.alloc + c.win : Nat) : Int) < nestHighest w (base o) o + sz) with
          | some o => macroFault x s 4 (low o) 0
          | none =>
            let op := s.ops.length
            nestStep w x (beginMacro x s bases) op

/-! ## `FILL` (R212) -/

/-- Element bytes of `FILL`. -/
def fillBytes (w : TWord) : Nat := [4, 2, 1].getD w.mod.toNat 4

/-- A step of `FILL`: the elements in the 16 lines of 128 bytes from the line of its first element on. An element in a word in error
that it does not fill whole raises DATA and is not written (R372). -/
def fillStep (w : TWord) (x : WordCtx) (s : State) (op : Nat) : WordRes :=
  let o := s.op op
  let sz := fillBytes w
  let start := o.args.getD 0 0
  let value := o.args.getD 1 0
  let count := o.args.getD 2 0
  let at1 := start + sz * o.progress
  let n := min (count - o.progress) ((2048 - at1 % 128) / sz)
  let c := s.scene x.scene
  let y := { x with lanes := o.lanes }
  match (c.badWords at1 (sz * n)).find? fun wd =>
      ((List.range (sz * n)).filter fun i => c.spPhys (at1 + i) / 4 == wd).length < 4 with
  | some _ => macroFault y (s.modOp op fun o => { o with progress := count }) 0x0C at1 0x0606
  | none =>
    let ths := o.lanes.map Prod.snd
    let s := s.keepSp x.scene (s.takeReader ths) ((List.range (sz * n)).map fun k => c.spPhys (at1 + k))
    let s := ths.foldl (fun (s : State) th => (List.range n).foldl (fun (s : State) k =>
      s.plainWrite th (.sp x.scene) (c.spPhys (at1 + sz * k)) sz) s) s
    let c := c.spWrite at1 ((List.range n).flatMap fun _ => leBytes sz value)
    let s := (s.modScene x.scene fun _ => c).modOp op fun o => { o with progress := o.progress + n }
    if count ≤ o.progress + n then .done s else .more s

/-- `FILL` (R212): the whole range is checked before any effect. -/
def execFill (w : TWord) (s : State) : Out :=
  runWord (.fill w) s fun x s =>
    match macroOp x s, x.lanes with
    | some op, _ => fillStep w x s op
    | none, [] => .done s
    | none, l :: _ =>
      let c := s.scene x.scene
      let sz := fillBytes w
      let start := (s.opnd l.2 w.a).toNat
      let count := (s.opnd l.2 w.c).toNat
      if (x.reporter s).isNone || count == 0 then .done s
      else if start % sz != 0 then macroFault x s 5 start 0
      else if !c.spIn start (sz * count) then macroFault x s 4 start 0
      else fillStep w x (beginMacro x s [start, (s.opnd l.2 w.b).toNat, count]) s.ops.length

end Sys2Proof.Machine
end

