-- ==== Sys2Proof/Machine/Matrix.lean ====
section
/-! DEFINITION. Operand slots and the matrix array, opcodes 0x98 to 0xA0 (R121 to R127, R264 to R277). An operation is
checked at its issue and performed at its completion, in the order that slots and units fix. -/

namespace Sys2Proof.Machine

/-! ## Instructions that act once for the take (R271) -/

/-- An operand is uniform: a uniform register, an integer, a constant or `zero`, or a register that holds the same words in
every active lane. -/
def uniformIn (x : WordCtx) (s : State) (sel : Sel) (n : Nat) : Bool :=
  match selClass sel with
  | .special | .pred => false
  | _ => match x.lanes with
    | [] => true
    | l :: _ => x.lanes.all fun m => s.opndN m.2 sel n == s.opndN l.2 sel n

/-- An operation is under way on a core: one of a scene that is away is not (R270, R389). -/
def State.onCore (s : State) (core : Nat) (o : Op) : Bool :=
  !o.done && o.core == core && [SceneState.resident, .saving, .restoring].contains (s.scene o.scene).st

/-- The matrix and task sequencer of a core holds 16 operations (R270). -/
def seqFull (s : State) (core : Nat) : Bool :=
  16 ≤ (s.ops.filter fun o => s.onCore core o && 0x98 ≤ o.instr.opcode && o.instr.opcode ≤ 0xA3).length

/-- An instruction that acts once for the take: it acts when a non-helper lane is active, and every operand it names
must be uniform (R271). `ops` gives the operands with their registers. The body gets the reporting lane's thread. -/
def onceWord (i : Instr) (s : State) (ops : List (Sel × Nat)) (body : WordCtx → State → Nat → WordRes) : Out :=
  runWord i s fun x s =>
    match macroOp x s, x.reporter s with
    | some _, some rep => body x s rep.2
    | some _, none => .done s
    | none, none => .done s
    | none, some rep =>
      if !(ops.all fun o => uniformIn x s o.1 o.2) then .done (x.faultAll s 0x0D 0xFFFF 0 0) else body x s rep.2

/-- A fault of such an instruction. -/
def onceFault (x : WordCtx) (s : State) (kind buf va detail : Nat) : WordRes := .done (x.faultOnce s kind buf va detail)

/-! ## Slots (R268) -/

/-- Slot `n` of a scene. -/
def Scene.slot (c : Scene) (n : Nat) : OSlot := c.oslots.getD n default

/-- Change slot `n` of a scene. -/
def State.modSlot (s : State) (sc n : Nat) (f : OSlot → OSlot) : State :=
  s.modScene sc fun c => { c with oslots := c.oslots.modify n f }

/-- The slot that an operation names. -/
def Op.slot (o : Op) : Nat := o.args.getD 1 0

/-- An operation names a slot, and writes it. -/
def Op.usesSlot (o : Op) : Bool := 0x99 ≤ o.instr.opcode && o.instr.opcode ≤ 0x9E
def Op.writesSlot (o : Op) : Bool := 0x99 ≤ o.instr.opcode && o.instr.opcode ≤ 0x9B

/-- A slot can be named: reserved, claimed, and no release of it is on its way (R268, R272). -/
def slotHeld (s : State) (sc n : Nat) : Bool :=
  let c := s.scene sc
  n < c.slots && (c.slot n).claimed &&
    !(s.ops.any fun o => !o.done && o.scene == sc && o.instr.opcode == 0x99 && o.slot == n)

/-- The cause of R268 for a slot word, or none; `array` where the instruction needs the array: outside an array holder it
raises cause 4 whatever its slot word (R265). -/
def slotCause (s : State) (sc word : Nat) (array : Bool) : Option Nat :=
  if array && !(s.scene sc).arr then some 4
  else if word == 0xFFFFFFFF then some 1
  else if 8 ≤ word then some 2
  else if !slotHeld s sc word then some 3
  else none

/-- Line control: the first line and the count, or none where it is malformed (R271). -/
def lineCtl (v : Nat) : Option (Nat × Nat) :=
  let first := bitsOf v 8 0
  let n := bitsOf v 24 16 + 1
  if bitsOf v 15 9 != 0 || bitsOf v 31 25 != 0 || 264 < first + n then none else some (first, n)

/-- Row control: first slot row, count, first accumulator row (R271). -/
def rowCtl (v : Nat) (slotRows : Bool) : Option (Nat × Nat × Nat) :=
  let s0 := bitsOf v 7 0
  let n := bitsOf v 15 8 + 1
  let a0 := bitsOf v 23 16
  if bitsOf v 31 24 != 0 || (!slotRows && s0 != 0) || (slotRows && 256 < s0 + n) || 256 < a0 + n then none
  else some (s0, n, a0)

/-! ## The array -/

/-- Set a run of entries of a table. -/
def Table.setRun (t : Table) (lo : Nat) (xs : List Nat) : Table :=
  (t.filter fun e => e.1 < lo) ++ (xs.zipIdx.filterMap fun x => if x.1 == 0 then none else some (lo + x.2, x.1)) ++
    (t.filter fun e => lo + xs.length ≤ e.1)

/-- Bits of a weight in a format (R121). -/
def weightBits (fmt : Nat) : Nat := if fmt < 2 then 2 else if fmt == 2 then 4 else 8

/-- The code of weight (k, n) of a tile. -/
def weightCode (fmt : Nat) (m : Memory) (k n : Nat) : Nat :=
  let b := weightBits fmt
  (m.read (n * 16 * b + b * k / 8)).toNat / 2 ^ (b * k % 8) % 2 ^ b

/-- The value of a code (R121). -/
def weightVal (fmt code : Nat) : Int :=
  if fmt == 0 then (if code == 1 then 1 else if code == 3 then -1 else 0) else sextN code (weightBits fmt)

/-- The first illegal code of a T2 tile, in column-major order: its column and index (R122). -/
def badCode (m : Memory) : Option (Nat × Nat) :=
  (List.range 256).findSome? fun n => (List.range 128).findSome? fun k =>
    if weightCode 0 m k n == 2 then some (n, k) else none

/-- One pass: the exact sum of column n against a row of activations (R125). -/
def passSum (b : Bank) (row : List Int) (n : Nat) : Int :=
  row.zipIdx.foldl (fun acc a => acc + weightVal b.fmt (weightCode b.fmt b.weights a.2 n) * a.1) 0

/-- Stream one activation row into an accumulator row (R275); whether a sum was clamped. -/
def streamRow (m : MatArray) (sat zero : Bool) (row : List Int) (scale arow : Nat) : MatArray × Bool :=
  let rs := (List.range 256).map fun n =>
    let p := passSum m.active row n
    let x := if zero then p else sextN (m.acc.get (256 * arow + n)) 32 + p
    intRes sat true 32 x
  ({ m with acc := m.acc.setRun (256 * arow) (rs.map Prod.fst), rowScale := m.rowScale.set arow scale },
    rs.any fun r => r.2 != 0)

/-- Clear an accumulator row and its row scale. -/
def clearRow (m : MatArray) (row : Nat) : MatArray :=
  { m with acc := m.acc.setRun (256 * row) (List.replicate 256 0), rowScale := m.rowScale.set row 0 }

/-- One output of a drain, with its flags (R127): accumulator, row scale, column scale, bias, and the output format with
its requantisation scale. -/
def drainOut (acc rowScale colScale : Nat) (bias : Option Nat) (out scale : Nat) : Nat × Nat :=
  let af := f32.round 0 (intFVal (sextN acc 32))
  let sc := f32.finish 0 ((f32.val rowScale).mul (bf16.val colScale))
  let y := match bias with
    | some b => f32.fma 0 af.1 sc.1 b
    | none => f32.mul 0 af.1 sc.1
  let r : Nat × Nat := match out with
    | 0 => (y.1, 0)
    | 1 => bf16.round 0 (f32.val y.1)
    | _ => match ((f32.val y.1).mul (f32.val scale)).1 with
      | .nan => (0, flagNV)
      | .inf neg => (wrapI (if neg then -128 else 127) 8, flagSAT)
      | .fin neg n d => intRes true true 8 (roundInt 0 neg n d).1
  (r.1, orF af.2 (orF sc.2 (orF y.2 r.2)))

/-- Bytes of an output (R276). -/
def outBytes (out : Nat) : Nat := [4, 2, 1].getD out 4

/-! ## Order (R269, R270) -/

/-- An operation that was issued before operation `i` has not completed: one of the same scene, or of the same core. -/
def State.earlierOps (s : State) (i : Nat) (p : Op → Bool) : Bool :=
  (s.ops.take i).any fun q => !q.done && q.scene == (s.op i).scene && p q
def State.earlierHere (s : State) (i : Nat) (p : Op → Bool) : Bool :=
  (s.ops.take i).any fun q => s.onCore (s.op i).core q && p q

/-- Stream-unit operations, and those that exchange the banks. -/
def Op.streams (o : Op) : Bool := 0x9D ≤ o.instr.opcode && o.instr.opcode ≤ 0xA0
def Op.swaps (o : Op) : Bool :=
  match o.instr with
  | .mstream w => bitOf w.mod.toNat 0
  | .mlut w => bitOf w.mod.toNat 0
  | _ => false

/-- Slots and units let operation `i` be performed. -/
def State.matReady (s : State) (i : Nat) : Bool :=
  let o := s.op i
  !o.done && o.held.isNone && o.wo.isNone &&
    !(o.usesSlot && s.earlierOps i fun q =>
      q.usesSlot && q.slot == o.slot && (o.writesSlot || q.writesSlot)) &&
    !(o.streams && s.earlierHere i Op.streams) &&
    !(o.instr.opcode == 0x9C && s.earlierHere i fun q => q.instr.opcode == 0x9C || q.swaps) &&
    !(o.swaps && s.earlierHere i fun q => q.instr.opcode == 0x9C)

/-- The stepped word of another take holds the stream unit of a core (R270). -/
def streamBusy (s : State) (core tk : Nat) : Bool :=
  s.ops.zipIdx.any fun q => s.onCore core q.1 && q.1.streams &&
    s.takes.zipIdx.any fun t => t.2 != tk && t.1.progress == q.2 + 1 && t.1.st != .ended

/-! ## `OPCLM`, `OPREL`, `OPLD`, `OPLDG` -/

/-- `OPCLM` (R272). -/
def execOpclm (w : TWord) (s : State) : Out :=
  onceWord (.opclm w) s [] fun x s _ =>
    if seqFull s x.core then .hold .sequencer
    else
      let c := s.scene x.scene
      match (List.range c.slots).find? fun n => !(c.slot n).claimed with
      | some n => .done ((x.start s [0, n] (sameWrites w.d w.nw x.lanes (wordsOf 1 n))).modSlot x.scene n fun o =>
          { o with claimed := true })
      | none => .done (x.start s [0, 0] (sameWrites w.d w.nw x.lanes [0xFFFFFFFF]))

/-- The slot word of an instruction. -/
def slotWord (s : State) (w : TWord) (th : Nat) : Nat := (s.opnd th w.a).toNat

/-- `OPREL` (R272). -/
def execOprel (w : TWord) (s : State) : Out :=
  onceWord (.oprel w) s [(w.a, 1)] fun x s th =>
    if seqFull s x.core then .hold .sequencer
    else match slotCause s x.scene (slotWord s w th) false with
      | some c => onceFault x s 0x0E 0xFFFF 0 c
      | none => .done (x.start s [0, slotWord s w th])

/-- The release of a slot: it is zero-filled and unclaimed (R267, R272). -/
def State.oprelDo (s : State) (i : Nat) : State :=
  let o := s.op i
  (s.modSlot o.scene o.slot fun _ => { claimed := false, data := [], bad := [] }).completeOp i

/-- `OPLD` (R273). -/
def execOpld (w : TWord) (s : State) : Out :=
  onceWord (.opld w) s [(w.a, 1), (w.b, 1), (w.c, 1)] fun x s th =>
    if seqFull s x.core then .hold .sequencer
    else
      let a := (s.opnd th w.b).toNat
      match slotCause s x.scene (slotWord s w th) false, lineCtl (s.opnd th w.c).toNat with
      | some c, _ => onceFault x s 0x0E 0xFFFF 0 c
      | none, none => onceFault x s 0x0E 0xFFFF 0 2
      | none, some (first, n) =>
        if a % 128 != 0 then onceFault x s 5 0xFFFF 0 0
        else if !(s.scene x.scene).spIn a (128 * n) then onceFault x s 4 0xFFFF 0 0
        else .done (x.start s [0, slotWord s w th, first, n, a])

/-- The pair of uniform registers that a selector names: their values. -/
def uniPair (c : Scene) (sel : Sel) : Nat × Nat := ((c.uniReg (selReg sel)).toNat, (c.uniReg (selReg sel + 1)).toNat)

/-- `OPLDG` (R273). -/
def execOpldg (w : TWord) (s : State) : Out :=
  onceWord (.opldg w) s [(w.a, 1), (w.c, 1)] fun x s th =>
    if seqFull s x.core then .hold .sequencer
    else
      let p := uniPair (s.scene x.scene) w.b
      match slotCause s x.scene (slotWord s w th) false, lineCtl (s.opnd th w.c).toNat with
      | some c, _ => onceFault x s 0x0E 0xFFFF 0 c
      | none, none => onceFault x s 0x0E 0xFFFF 0 2
      | none, some (first, n) =>
        if p.2 % 128 != 0 then onceFault x s 5 (p.1 % 2 ^ 16) 0 0
        else
          let q := s.bufRecord (x.req s) p.1
          match q.1 with
          | .error f => onceFault x q.2 f.kind (p.1 % 2 ^ 16) f.va f.detail
          | .ok r =>
            if !recAllows (x.ctx s) r 0 then onceFault x q.2 2 (p.1 % 2 ^ 16) 0 0
            else match (List.range n).find? fun k => recExtent r < p.2 + 128 * (k + 1) with
              | some k => onceFault x q.2 3 (p.1 % 2 ^ 16) (recBase r + p.2 + 128 * k) 0
              | none => .done (x.start q.2 [0, slotWord s w th, first, n, r, p.1, p.2])

/-- Bytes through a record over several lines. -/
def State.engineSpan (s : State) (r : Req) (b : BufRef) (va n : Nat) : EngRes × State :=
  (lineSpans va n).foldl (fun acc sp => match acc.1 with
    | .ok bs psn =>
      let q := acc.2.engineRead r b sp.1 sp.2
      match q.1 with
      | .ok more p => (.ok (bs ++ more) (psn || p), q.2)
      | e => (e, q.2)
    | e => (e, acc.2)) (.ok [] false, s)

/-- Write a line of a slot; words written whole are repaired (R372). -/
def OSlot.putLine (o : OSlot) (line : Nat) (bs : List Byte) : OSlot :=
  { o with data := o.data.writeN (128 * line) bs, bad := o.bad.filter fun w => w / 32 != line }

/-- The next line of an operand load. None while it must wait. -/
def State.opldStep (s : State) (i : Nat) : Option State :=
  let o := s.op i
  let p := o.progress
  let n := o.args.getD 3 0
  if !s.matReady i || n ≤ p then none
  else
    let put := fun (s : State) (bs : List Byte) =>
      (s.modSlot o.scene o.slot fun y => y.putLine (o.args.getD 2 0 + p) bs).modOp i fun o => { o with progress := p + 1 }
    let stop := fun (s : State) (buf va detail : Nat) =>
      (s.opRecord o 0x0C buf va detail).modOp i fun o => { o with progress := n }
    if o.instr.opcode == 0x9A then
      let c := s.scene o.scene
      let a := o.args.getD 4 0 + 128 * p
      if c.spEmpty a 128 then none
      else if c.spPoisoned a 128 then some (stop s 0xFFFF a 0)
      else if c.spBad a 128 then some (stop s 0xFFFF a 0x0606)
      else
        let v := s.seeScene (s.opReader i 2) o.scene ((List.range 128).map fun k => c.spPhys (a + k))
        some (put v.2 (v.1.spRead a 128))
    else
      let b : BufRef := { bits := o.args.getD 4 0, index := o.args.getD 5 0 }
      let va := recBase b.bits + o.args.getD 6 0 + 128 * p
      let q := s.engineSpan (s.opReq i 2) b va 128
      match q.1 with
      | .ok bs psn =>
        if psn then some (stop q.2 b.index va 0)
        else some (put (q.2.opWatch o b ((List.range 128).map (va + ·)) false) bs)
      | .held f => some (q.2.holdOp i b.index f)
      | .post f => some ((q.2.opRecord o f.kind b.index f.va f.detail).modOp i fun o => { o with progress := n })
      | .wait v => some (q.2.modOp i fun o => { o with wo := some v })

/-- The lines of an operand load while it can go on, and its completion. -/
def State.opldRun (s : State) (i : Nat) : Nat → State
  | 0 => s
  | fuel + 1 =>
    if (s.op i).args.getD 3 0 ≤ (s.op i).progress then (if (s.op i).held.isSome then s else s.completeOp i)
    else match s.opldStep i with
      | some s => s.opldRun i fuel
      | none => s

/-! ## `WLATCH`, `MSTREAM`, `MLUT`, `MZERO` -/

/-- `WLATCH` (R274). -/
def execWlatch (w : TWord) (s : State) : Out :=
  onceWord (.wlatch w) s [(w.a, 1)] fun x s th =>
    if seqFull s x.core then .hold .sequencer
    else match slotCause s x.scene (slotWord s w th) true with
      | some c => onceFault x s 0x0E 0xFFFF 0 c
      | none => .done (x.start s [0, slotWord s w th])

/-- The latch unit performs a `WLATCH` (R122, R274). -/
def State.wlatchDo (s : State) (i : Nat) (fmt : Nat) : State :=
  let o := s.op i
  let y := (s.scene o.scene).slot o.slot
  let size := 4096 * weightBits fmt
  if y.bad.any fun w => 4 * w < size || (8192 ≤ w && w < 8320) then (s.opRecord o 0x0C 0xFFFF 0 0x0606).completeOp i
  else match (if fmt == 0 then badCode y.data else none) with
    | some (n, k) => (s.opRecord o 0x0C 0xFFFF 0 (n * 256 + k)).completeOp i
    | none =>
      let bank : Bank := { fmt := fmt, weights := y.data.filter fun c => c.1 < size
                           scales := (y.data.filter fun c => 32768 ≤ c.1 && c.1 < 33280).map fun c => (c.1 - 32768, c.2) }
      (s.modScene o.scene fun c => { c with mat := { c.mat with shadow := bank } }).completeOp i

/-- A step of 16 rows of a stepped word of the array issues (R34). -/
def arrayIssue (s : State) (op : Nat) : WordRes :=
  let o := s.op op
  let n := o.args.getD 0 0 + 16
  let s := s.modOp op fun o => { o with args := o.args.set 0 n }
  if o.args.getD 3 0 ≤ n then .done s else .more s

/-- A stream of activation rows (R275): its checks and its steps. -/
def streamIssue (i : Instr) (w : TWord) (s : State) : Out :=
  onceWord i s [(w.a, 1), (w.b, 1)] fun x s th =>
    match macroOp x s with
    | some op => arrayIssue s op
    | none =>
      if streamBusy s x.core x.tk then .leave
      else if seqFull s x.core then .hold .sequencer
      else match slotCause s x.scene (slotWord s w th) true, rowCtl (s.opnd th w.b).toNat true with
        | some c, _ => onceFault x s 0x0E 0xFFFF 0 c
        | none, none => onceFault x s 0x0E 0xFFFF 0 2
        | none, some (s0, n, a0) => arrayIssue (beginMacro x s [0, slotWord s w th, s0, n, a0]) s.ops.length

/-- `MSTREAM` (R275). -/
def execMstream (w : TWord) (s : State) : Out := streamIssue (.mstream w) w s

/-- `MLUT` (R126, R275). -/
def execMlut (w : TWord) (s : State) : Out := streamIssue (.mlut w) w s

/-- The format is allowed: T2 for `MSTREAM`, the others for `MLUT` (R275). -/
def fmtOk (lut : Bool) (fmt : Nat) : Bool := if lut then fmt == 1 || fmt == 2 || fmt == 3 else fmt == 0

/-- The stream unit performs a stream. -/
def State.streamDo (s : State) (i : Nat) (lut swap sat zero : Bool) : State :=
  let o := s.op i
  let c := s.scene o.scene
  let m := c.mat
  let fmt := if swap then m.shadow.fmt else m.active.fmt
  if !fmtOk lut fmt then (s.opRecord o 0x0C 0xFFFF 0 (0x0200 + fmt)).completeOp i
  else
    let m := if swap then { m with active := m.shadow, shadow := m.active } else m
    let y := c.slot o.slot
    let s0 := o.args.getD 2 0
    let a0 := o.args.getD 4 0
    let bad := y.bad.any fun wd => (32 * s0 ≤ wd && wd < 32 * (s0 + o.args.getD 3 0)) ||
      (8192 + s0 ≤ wd && wd < 8192 + s0 + o.args.getD 3 0)
    if bad then ((s.modScene o.scene fun c => { c with mat := m }).opRecord o 0x0C 0xFFFF 0 0x0606).completeOp i
    else
      let r := (List.range (o.args.getD 3 0)).foldl (fun (acc : MatArray × Bool) q =>
        let row := (y.data.readN (128 * (s0 + q)) 128).map BitVec.toInt
        let t := streamRow acc.1 sat zero row (y.data.num (32768 + 4 * (s0 + q)) 4) (a0 + q)
        (t.1, acc.2 || t.2)) (m, false)
      let s := s.modScene o.scene fun c => { c with mat := r.1 }
      (if r.2 then s.modOp i fun o => { o with flags := o.lanes.map fun l => (l.2, flagSAT) } else s).completeOp i

/-- `MZERO` (R276). -/
def execMzero (w : TWord) (s : State) : Out :=
  onceWord (.mzero w) s [(w.b, 1)] fun x s th =>
    if seqFull s x.core then .hold .sequencer
    else if !(s.scene x.scene).arr then onceFault x s 0x0E 0xFFFF 0 4
    else match rowCtl (s.opnd th w.b).toNat false with
      | none => onceFault x s 0x0E 0xFFFF 0 2
      | some (_, n, a0) => .done (x.start s [0, 0, 0, n, a0])

/-- The stream unit clears rows. -/
def State.mzeroDo (s : State) (i : Nat) : State :=
  let o := s.op i
  (s.modScene o.scene fun c =>
    { c with mat := (List.range (o.args.getD 3 0)).foldl (fun m q => clearRow m (o.args.getD 4 0 + q)) c.mat }).completeOp i

/-! ## `MDRAIN` (R276) -/

/-- `MDRAIN`: destination and bias in the uniform pair A. C is an operand, the scale, of the `.i8` output alone. -/
def execMdrain (w : TWord) (s : State) : Out :=
  onceWord (.mdrain w) s ((w.b, 1) :: if w.mod.toNat % 4 == 2 then [(w.c, 1)] else []) fun x s th =>
    match macroOp x s with
    | some op => arrayIssue s op
    | none =>
      if streamBusy s x.core x.tk then .leave
      else if seqFull s x.core then .hold .sequencer
      else if !(s.scene x.scene).arr then onceFault x s 0x0E 0xFFFF 0 4
      else match rowCtl (s.opnd th w.b).toNat false with
        | none => onceFault x s 0x0E 0xFFFF 0 2
        | some (_, n, a0) =>
          let p := uniPair (s.scene x.scene) w.a
          let bias := bitOf w.mod.toNat 2
          let rb := 256 * outBytes (w.mod.toNat % 4)
          let c := s.scene x.scene
          if p.1 % 128 != 0 || (bias && p.2 % 128 != 0) then onceFault x s 5 0xFFFF 0 0
          else if !c.spIn p.1 (n * rb) || (bias && !c.spIn p.2 1024) then onceFault x s 4 0xFFFF 0 0
          else arrayIssue (beginMacro x s [0, 0, p.1, n, a0, p.2, (s.opnd th w.c).toNat]) s.ops.length

/-- The stream unit drains rows: each output line is written whole and set full; a poisoned bias line poisons the output
lines that use it. None while a bias line is empty. -/
def State.mdrainDo (s : State) (i : Nat) (out : Nat) (bias clr : Bool) : Option State :=
  let o := s.op i
  let c := s.scene o.scene
  let ba := o.args.getD 5 0
  if bias && c.spEmpty ba 1024 then none
  else
    let ob := outBytes out
    let m := c.mat
    let v := s.seeScene (s.opReader i 2) o.scene (if bias then (List.range 1024).map fun k => c.spPhys (ba + k) else [])
    let s := v.2
    let badBias := bias && c.spBad ba 1024
    let biasBad := fun (n : Nat) => bias && (c.spPoisoned (ba + 4 * n) 4 || c.spBad (ba + 4 * n) 4)
    let r := (List.range (o.args.getD 3 0)).foldl (fun (acc : Scene × Nat) q =>
      let row := o.args.getD 4 0 + q
      let outs := (List.range 256).map fun n =>
        drainOut (m.acc.get (256 * row + n)) (m.rowScale.get row) (m.active.scales.num (2 * n) 2)
          (if bias then some (v.1.spNum (ba + 4 * n) 4) else none) out (o.args.getD 6 0)
      let at1 := o.args.getD 2 0 + q * 256 * ob
      let c := acc.1.spWrite at1 (outs.flatMap fun y => leBytes ob y.1)
      let c := (List.range (2 * ob)).foldl (fun (c : Scene) j =>
        c.fillLine (c.spPhys (at1 + 128 * j) / 128) true
          ((List.range (128 / ob)).any fun k => biasBad (j * (128 / ob) + k))) c
      (c, outs.foldl (fun f y => orF f y.2) acc.2)) (c, 0)
    let rows := (List.range (o.args.getD 3 0)).map (o.args.getD 4 0 + ·)
    let c := if clr then { r.1 with mat := rows.foldl clearRow r.1.mat } else r.1
    let size := o.args.getD 3 0 * (256 * ob)
    let s := s.keepFilled o.scene (s.opReader i 2) i ((List.range size).map fun k => (s.scene o.scene).spPhys (o.args.getD 2 0 + k))
    let s := s.modScene o.scene fun _ => c
    let s := s.modOp i fun o => { o with flags := o.lanes.map fun l => (l.2, r.2) }
    some ((if badBias then s.opRecord o 0x0C 0xFFFF ba 0x0606 else s).completeOp i)

end Sys2Proof.Machine
end

