-- ==== Sys2Proof/Machine/Accord.lean ====
section
/-! DEFINITION. Binding formulas to buffers, opcodes 0xA8 to 0xAB (R300 to R312). Their checks are made at issue; what
they do to bindings comes about where they complete. -/

namespace Sys2Proof.Machine

/-! ## Images and Accords -/

/-- The image's signature verifies under the key that it names (R300, R431). -/
def signatureOk (s : State) (img : List Byte) : Bool :=
  let k := imgKeyId (imgHeader img)
  let key := if k == 0 then Config.vendorKey else (s.keys.get k / 2 ^ 256, s.keys.get k % 2 ^ 256)
  (k == 0 || (k < 16 && s.keys.get k != 0)) && signedBy key (img.take (imgSize (imgHeader img)))

/-- Beats of a buffer (R293). -/
def Binding.beats (b : Binding) : Nat := (b.extent + b.sizes.1 - 1) / b.sizes.1

/-- The digests of the images in an Accord's formula slots (R301). -/
def State.slotDigests (s : State) (a : Nat) : List (List Byte) :=
  ((s.bindings.filter fun b => b.serving.contains a).flatMap fun b =>
    b.dirs.map fun f => sha256 f.image).eraseDups

/-! ## The footprint (R293, R311) -/

/-- Addresses, one in each page, of a range. -/
def pagesOf (va n : Nat) : List Nat :=
  if n == 0 then [] else (List.range ((va + n - 1) / 65536 - va / 65536 + 1)).map fun i =>
    if i == 0 then va else (va / 65536 + i) * 65536

/-- Check the pages of a binding's footprint and of its requester form: the status of R304, or 0 with the footprint's
frames. No Accord serves a page of the second tier, which counts as not resident (R375). -/
def State.footprintCheck (s : State) (b : Binding) (h : Nat) : Nat × List (Nat × Nat) × State :=
  let foot := pagesOf b.base (b.beats * b.sizes.2)
  let q := foot.foldl (fun (acc : Nat × List (Nat × Nat) × State) va =>
    if acc.1 != 0 then acc
    else
      let t := acc.2.2.translate b.req va false false none
      match t.1 with
      | .error f => (if f.kind == 1 then 7 else if f.kind == 6 then 8 else 3, acc.2.1, t.2)
      | .ok x =>
        if isTier2 x.pa then (7, acc.2.1, t.2)
        else if x.pkg == t.2.pkgId && !t.2.classOk x.pa b.place then (3, acc.2.1, t.2)
        else if !typeAllowed h x.cm then (8, acc.2.1, t.2)
        else (0, if x.pkg == t.2.pkgId then acc.2.1 ++ [(frameOf x.pa, 1)] else acc.2.1, t.2)) (0, [], s)
  if q.1 != 0 then q
  else
    (pagesOf b.base b.extent).foldl (fun (acc : Nat × List (Nat × Nat) × State) va =>
      let t := acc.2.2.translate b.req va false false none
      match t.1 with
      | .error _ => (acc.1, acc.2.1, t.2)
      | .ok x => (if typeAllowed h x.cm then acc.1 else 8, acc.2.1, t.2)) q

/-- A beat of a binding stands in one of some frames. -/
def State.beatOver (s : State) (b : Binding) (k : Nat) (frames : List Nat) : Bool :=
  (lineSpans (b.base + k * b.sizes.2) b.sizes.2).any fun sp => match (s.translate b.req sp.1 false false none).1 with
    | .ok x => x.pkg == s.pkgId && frames.contains (frameOf x.pa)
    | .error _ => false

/-- Write back and invalidate the L2 lines of some frames, in both forms (R303 step 4). -/
def State.flushFrames (s : State) (frames : List Nat) : State :=
  let phys := s.l2.filterMap fun x => match x.key with
    | .phys l => if frames.contains (l / 512) then some l else none
    | .bound _ _ => none
  let s := phys.foldl State.evictPhys s
  (List.range s.bindings.length).foldl (fun (s : State) i =>
    ((s.heldBeats (s.binding i).handle).filter fun k => s.handleOf (s.binding i).handle == some i &&
      s.beatOver (s.binding i) k frames).foldl (fun (s : State) k => s.evictBeat i k false) s) s

/-- `ACBIND` or `ACUNBIND` completes: every write back to the frames of a footprint is in memory for every agent, and the
Accords of the binding see what was written there before (R312). -/
def State.orderFrames (s : State) (handle : Nat) (frames : List Nat) : State :=
  let here := fun (y : OldGranule) => y.space == .mem && frames.contains (y.gran / 4096)
  let back := fun (y : OldGranule) => y.owners.any fun a => match a with
    | .accord _ => true
    | _ => false
  { s with olds := (s.olds.filter fun y => !(here y && back y)).map fun y =>
      if here y then { y with knows := insertNew (.accord handle) y.knows } else y }

/-- The device's SC store of FHANDLE and FBOUND into a record (R303, R305). -/
def State.storeBinding (s : State) (r : Req) (index handle : Nat) (bound : Bool) : State :=
  let va := s.bufBaseOf r + 32 * index + 26
  let t := s.translate r va false false none
  match t.1 with
  | .error _ => t.2
  | .ok x =>
    if x.pkg != t.2.pkgId then { t.2 with freeIx := t.2.freeIx + 1 }
    else t.2.storeLine (lineOf x.pa)
      ((leBytes 2 (handle + (if bound then 32768 else 0))).zipIdx.map fun b => (x.pa % 128 + b.2, b.1)) x.cmpr

/-- The record of an Accord instruction, valid apart from FHANDLE and FBOUND and owned by the context (R302). -/
def State.accordRecord (s : State) (r : Req) (index : Nat) : Except FaultInfo (Option Nat) × State :=
  let q := s.bufRecord r index
  match q.1 with
  | .ok bits => (.ok (if r.ctx == supCtx || recOwner bits == r.ctx then some bits else none), q.2)
  | .error f => (if f.kind == 2 && f.detail == 0 then .ok none else .error f, q.2)

/-! ## ACBIND (R303, R304) -/

/-- What comes of reading an image at an offset of a record. -/
inductive ImageRes where
  | read (bs : List Byte)
  /-- a check of R303 fails, or the read meets a fault -/
  | fault (f : FaultInfo)
  /-- it waits for a WO line (R89) -/
  | wait (w : WoWait)
  deriving DecidableEq, Repr, Inhabited

/-- Read an image as class ACD: its header, then its bytes (R298, R303). R303 names no VA for its checks, so that their
records carry 0 (R271). -/
def State.readImage (s : State) (r : Req) (b : BufRef) (off : Nat) : ImageRes × State :=
  let plain := fun (kind : Nat) => ImageRes.fault { kind := kind, va := 0, detail := 0 }
  let va := recBase b.bits + off
  let got := fun (e : EngRes) (k : List Byte → ImageRes) => match e with
    | .ok bs psn => if psn then plain 0x0C else k bs
    | .held f => .fault f
    | .post f => .fault f
    | .wait w => .wait w
  if off % 64 != 0 then (plain 5, s)
  else if recExtent b.bits < off + 64 then (plain 3, s)
  else if !recAllows r.ctx b.bits 0 then (plain 2, s)
  else
    let hd := s.engineSpan r b va 64
    match got hd.1 .read with
    | .read hb =>
      let size := imgSize (imgHeader hb)
      let n := if 64 ≤ size && size ≤ 16384 then size else 64
      if recExtent b.bits < off + n then (plain 3, hd.2)
      else
        let im := hd.2.engineSpan r b va n
        (got im.1 .read, im.2)
    | e => (e, hd.2)

/-- `ACBIND`: the image is read as class ACD, at issue where its lines are written. Where one of a WO page is not, the
operation has begun and waits for it as an engine's read does (R89); its read is made when it completes. -/
def execAcbind (w : TWord) (s : State) : Out :=
  onceWord (.acbind w) s [(w.a, 1)] fun x s th =>
    let p := uniPair (s.scene x.scene) w.b
    let r := x.req s
    let k := (s.opnd th w.a).toNat
    let er := { engineReq r.ctx x.core with who := some (s.nextReader x.scene (x.lanes.map Prod.snd) 4) }
    let buf := p.1 % 2 ^ 16
    let me := s.accordRecord r k
    match me.1 with
    | .error f => onceFault x me.2 f.kind (k % 2 ^ 16) f.va f.detail
    | .ok _ =>
      let q := me.2.bufRecord r p.1
      match q.1 with
      | .error f => onceFault x q.2 f.kind buf f.va f.detail
      | .ok rec1 =>
        let im := q.2.readImage er { bits := rec1, index := p.1 } p.2
        match im.1 with
        | .fault f => onceFault x im.2 f.kind buf f.va f.detail
        | .wait v =>
          let op := im.2.ops.length
          .done ((x.start im.2 [k, 0, 0, rec1, p.1, p.2]).modOp op fun o => { o with wo := some v })
        | .read bs => .done (x.start im.2 [k, bs.length, leNat bs])

/-- What `ACBIND` comes to: its status, and the state after it (R303). An image that is verified extends CTXDIGEST
(R433). A stateful image leaves no line of the buffer in the L2 (R308). -/
def State.acbindRun (s : State) (ctx core index : Nat) (img : List Byte) : Nat × State :=
  let h := imgHeader img
  let r := coreReq ctx core
  if !imageValid img then (1, s)
  else if !signatureOk s img then (2, s)
  else
    let s := s.modCtx ctx fun c => { c with digest := extendDigest c.digest img }
    let q := s.accordRecord r index
    let s := q.2
    match q.1 with
    | .error _ => (3, s)
    | .ok none => (3, s)
    | .ok (some rec1) =>
      let f : FormDir := { image := img, params := .replicate 8 0, beats := 0, err := 0, cells := [], streams := []
                           hurt := [], reload := [] }
      let old := s.bindingOf r index
      let free := (List.range 4096).filter fun n => s.bindings.all fun b => b.dirs.isEmpty || b.handle != n
      let pick := s.fresh
      let b0 : Binding := match old with
        | some i => s.binding i
        | none => { handle := free.getD (pick.1.toNat % free.length) 0, ctx := ctx, index := index, base := recBase rec1
                    extent := recExtent rec1, icls := recIcls rec1, stk := recStk rec1, ch := recCh rec1, die := coreDie core
                    rd := none, wr := none, stall := 0, lines := [], frames := [], barred := false, poison := [] }
      let b : Binding := if imgWrite h then { b0 with wr := some f } else { b0 with rd := some f }
      let bound := if imgWrite h then b0.wr.isSome else b0.rd.isSome
      if bound then (4, s)
      else if (match if imgWrite h then b0.rd else b0.wr with
        | some g => g.sizes (!imgWrite h) != f.sizes (imgWrite h)
        | none => false) then (9, s)
      else if imgStateful h && (b0.icls == 0 || b0.icls == 3) then (10, s)
      else
        let chk := s.footprintCheck b h
        let s := chk.2.2
        let serving := b.serving
        let d := sha256 img
        if chk.1 != 0 then (chk.1, s)
        else if old.isNone && free.isEmpty then (11, s)
        else if serving.any fun a => !(s.slotDigests a).contains d && 16 ≤ (s.slotDigests a).length then (5, s)
        else if imgStateful h && (serving.any fun a => 3 ≤ s.pinned a || 4 ≤ s.pinned a + s.streaming a) then (6, s)
        else
          let b := { b with frames := chk.2.1 }
          let frames := chk.2.1.map Prod.fst
          match old with
          | some i =>
            let s : State := if imgStateful h then (s.heldBeats b.handle).foldl (fun (s : State) k => s.evictBeat i k false) s else s
            (0, s.modBinding i fun now =>
              { now with rd := if imgWrite h then now.rd else b.rd, wr := if imgWrite h then b.wr else now.wr
                         frames := b.frames })
          | none =>
            let s := ({ s with freeIx := s.freeIx + 1 } : State).flushFrames frames
            (0, (({ s with bindings := s.bindings ++ [b] } : State).orderFrames b.handle frames).storeBinding r index
              b.handle true)

/-- `ACBIND` or `ACUNBIND` completes with a status. -/
def State.accordStatus (s : State) (i : Nat) (w : TWord) (code : Nat) : State :=
  (s.modOp i fun o => { o with writes := sameWrites w.d w.nw o.lanes (wordsOf 1 code) }).completeOp i

/-- `ACBIND` completes. One whose image could not be read at issue reads it now: a fault is an asynchronous record, with
status 1, unless it is one that holds the operation (R230, R271). -/
def State.acbindDo (s : State) (i : Nat) (w : TWord) : State :=
  let o := s.op i
  let bind := fun (s : State) (img : List Byte) =>
    let q := s.acbindRun o.ctx o.core (o.args.getD 0 0) img
    q.2.accordStatus i w q.1
  if o.held.isSome || o.wo.isSome then s
  else if o.args.getD 1 0 != 0 then bind s (leBytes (o.args.getD 1 0) (o.args.getD 2 0))
  else
    let b : BufRef := { bits := o.args.getD 3 0, index := o.args.getD 4 0 }
    let im := s.readImage (s.opReq i 4) b (o.args.getD 5 0)
    match im.1 with
    | .read bs => bind im.2 bs
    | .wait v => im.2.modOp i fun o => { o with wo := some v }
    | .fault f =>
      if [1, 6].contains f.kind || (f.kind == 2 && 0x0600 ≤ f.detail && f.detail < 0x0700) then im.2.holdOp i (b.index % 2 ^ 16) f
      else (im.2.opRecord o f.kind (b.index % 2 ^ 16) f.va f.detail).accordStatus i w 1

/-! ## ACUNBIND (R305) -/

/-- `ACUNBIND`. -/
def execAcunbind (w : TWord) (s : State) : Out :=
  onceWord (.acunbind w) s [(w.a, 1)] fun x s th =>
    let k := (s.opnd th w.a).toNat
    let me := s.accordRecord (x.req s) k
    match me.1 with
    | .error f => onceFault x me.2 f.kind (k % 2 ^ 16) f.va f.detail
    | .ok _ => .done (x.start me.2 [k])

/-- Remove directions of a binding: every beat that the L2 holds leaves it, through the write formula where that was
bound, and every copy of its lines leaves L1. Without a direction the record is unbound, and nothing is left of what stood in
the requester form. -/
def State.unbind (s : State) (i : Nat) (rd wr : Bool) : State :=
  let b := s.binding i
  let s := (s.heldBeats b.handle).foldl (fun (s : State) k => s.evictBeat i k false) s
  let s := s.modBinding i fun b => { b with rd := if rd then none else b.rd, wr := if wr then none else b.wr }
  let s := ({ s with l1 := s.l1.filter fun l => l.pkg != b.l1Key } : State).orderFrames b.handle (b.frames.map Prod.fst)
  if (s.binding i).dirs.isEmpty then
    ({ s with olds := s.olds.filter fun y => y.space != .bound b.handle
              releases := s.releases.filter fun y => y.space != .bound b.handle } : State).storeBinding
      (coreReq b.ctx (64 * b.die)) b.index 0 false
  else s

/-- `ACUNBIND` completes. -/
def State.acunbindDo (s : State) (i : Nat) (w : TWord) : State :=
  let o := s.op i
  let k := o.args.getD 0 0
  let rd := bitOf w.mod.toNat 0
  let wr := bitOf w.mod.toNat 1
  let r := coreReq o.ctx o.core
  let me := s.accordRecord r k
  let q : Nat × State := match me.1, me.2.bindingOf r k with
    | .ok (some _), some j =>
      let b := me.2.binding j
      if (rd && b.rd.isNone) || (wr && b.wr.isNone) then (3, me.2) else (0, me.2.unbind j rd wr)
    | _, _ => (3, me.2)
  q.2.accordStatus i w q.1

/-! ## ACPARAM and ACQRY (R306, R307) -/

/-- `ACPARAM`. -/
def execAcparam (w : TWord) (s : State) : Out :=
  onceWord (.acparam w) s [(w.a, 1), (w.b, 1), (w.c, 1)] fun x s th =>
    let k := (s.opnd th w.a).toNat
    let me := s.accordRecord (x.req s) k
    match me.1 with
    | .error f => onceFault x me.2 f.kind (k % 2 ^ 16) f.va f.detail
    | .ok none => onceFault x me.2 2 (k % 2 ^ 16) 0 0
    | .ok (some _) =>
      let bound := match me.2.bindingOf (x.req s) k with
        | some j => if bitOf w.mod.toNat 0 then (me.2.binding j).wr.isSome else (me.2.binding j).rd.isSome
        | none => false
      if 7 < (s.opnd th w.b).toNat || !bound then onceFault x me.2 2 (k % 2 ^ 16) 0 0x0302
      else .done (x.start me.2 [k, (s.opnd th w.b).toNat, (s.opnd th w.c).toNat])

/-- `ACPARAM` completes: every later beat uses the new value. -/
def State.acparamDo (s : State) (i : Nat) (w : TWord) : State :=
  let o := s.op i
  let set := fun (f : FormDir) =>
    { f with
      params := f.params.mapFinIdx fun j x _ => if j == o.args.getD 1 0 then BitVec.ofNat 32 (o.args.getD 2 0) else x
      cells := if bitOf w.mod.toNat 1 then [] else f.cells }
  let s : State := match s.bindingOf (coreReq o.ctx o.core) (o.args.getD 0 0) with
    | some j => s.modBinding j fun b =>
      if bitOf w.mod.toNat 0 then { b with wr := b.wr.map set } else { b with rd := b.rd.map set }
    | none => s
  s.completeOp i

/-- `ACQRY`. -/
def execAcqry (w : TWord) (s : State) : Out :=
  onceWord (.acqry w) s [(w.a, 1)] fun x s th =>
    let k := (s.opnd th w.a).toNat
    let me := s.accordRecord (x.req s) k
    match me.1 with
    | .error f => onceFault x me.2 f.kind (k % 2 ^ 16) f.va f.detail
    | .ok none => onceFault x me.2 2 (k % 2 ^ 16) 0 0
    | .ok (some _) => .done (x.start me.2 [k])

/-- The value of a field of `ACQRY` (R307). -/
def Binding.field (b : Binding) (field : Nat) : Nat :=
  let n := fun (f : Option FormDir) (g : FormDir → Nat) => (f.map g).getD 0
  let form := fun (f : FormDir) => imgFormId (imgHeader f.image)
  match field with
  | 0 => packFields [(1, b2n b.rd.isSome), (1, b2n b.wr.isSome), (1, b2n b.stateful), (13, 0), (12, b.handle)]
  | 1 => n b.rd (·.beats) % 2 ^ 32
  | 2 => n b.wr (·.beats) % 2 ^ 32
  | 3 => b.stall % 2 ^ 32
  | 4 => (n b.rd (·.err) + n b.wr (·.err)) % 2 ^ 32
  | 5 => n b.rd form
  | _ => n b.wr form

/-- `ACQRY` completes. -/
def State.acqryDo (s : State) (i : Nat) (w : TWord) : State :=
  let o := s.op i
  let v := match s.bindingOf (coreReq o.ctx o.core) (o.args.getD 0 0) with
    | some j => (s.binding j).field w.mod.toNat
    | none => 0
  (s.modOp i fun o => { o with writes := sameWrites w.d w.nw o.lanes (wordsOf 1 v) }).completeOp i

end Sys2Proof.Machine
end

