-- ==== Sys2Proof/Machine/Fetch.lean ====
section
/-! DEFINITION. Instruction memory and clauses: code rows and their leases (R396), slates (R129), the checks of a clause
(R131, R132), and which takes can start or continue a clause (R29, R31 to R34). -/

namespace Sys2Proof.Machine

/-! ## Code rows (R396) -/

/-- A loaded row of a kernel's code in a core's instruction memory. -/
def State.codeRow (s : State) (core ctx kernel row : Nat) : Option CodeRow :=
  s.codeRows.find? fun r => r.core == core && r.ctx == ctx && r.kernel == kernel && r.code == row && r.state == 2

/-- Bytes of a scene's code at an offset, where their rows are loaded. -/
def State.codeBytes (s : State) (core : Nat) (c : Scene) (off n : Nat) : Option (List Byte) :=
  (List.range n).mapM fun i => (s.codeRow core c.ctx c.kernel ((off + i) / 4096)).map fun r =>
    r.bytes.getD ((off + i) % 4096) 0

/-- Bytes of code from an offset on, zero where no row is loaded. -/
def State.codeNum (s : State) (core : Nat) (c : Scene) (off n : Nat) : Nat :=
  leNat ((List.range n).map fun i => ((s.codeRow core c.ctx c.kernel ((off + i) / 4096)).map fun r =>
    r.bytes.getD ((off + i) % 4096) 0).getD 0)

/-! ## Slates (R129) -/

def slateCls (w : Nat) : Nat := bitsOf w 63 60
def slateCnt (w : Nat) : Nat := bitsOf w 59 56 + 1
def slateWait (w : Nat) : Nat := bitsOf w 55 44
def slateDist (w : Nat) : Nat := bitsOf w 43 40

/-- An address in a scene's code as an offset; one below the code wraps far beyond it. -/
def Scene.codeOff (c : Scene) (pc : DWord) : Nat := (pc - BitVec.ofNat 64 c.code).toNat

/-- The rows of code that the clause at an offset occupies, as far as they are in the code: the slate's, and once that
is loaded those of its words. -/
def State.clauseRows (s : State) (core : Nat) (c : Scene) (off : Nat) : List Nat :=
  if c.codeSize ≤ off then []
  else
    let n := match s.codeBytes core c off 8 with
      | some b => slateCnt (leNat b)
      | none => 0
    let last := min (off + 8 * n) (c.codeSize - 8)
    (List.range (last / 4096 - off / 4096 + 1)).map fun i => off / 4096 + i

/-- Rows that a clause needs and that are not loaded. -/
def State.missingRows (s : State) (core : Nat) (c : Scene) (off : Nat) : List Nat :=
  (s.clauseRows core c off).filter fun r => (s.codeRow core c.ctx c.kernel r).isNone

/-- Takes and reels of a core that hold a row of a kernel (R396). -/
def State.leases (s : State) (core ctx kernel row : Nat) : Nat :=
  let mine := fun (sc : Nat) => (s.scene sc).ctx == ctx && (s.scene sc).kernel == kernel &&
    ((s.scene sc).st == .resident || (s.scene sc).st == .saving)
  (s.takes.filter fun t => t.core == core && t.st != .ended && mine t.scene &&
    (s.missingRows core (s.scene t.scene) ((s.scene t.scene).codeOff t.pc)).isEmpty &&
    (s.clauseRows core (s.scene t.scene) ((s.scene t.scene).codeOff t.pc)).contains row).length +
  (s.reels.filter fun r => r.core == core && r.live && mine r.scene &&
    (s.scene r.scene).codeOff r.pc / 4096 == row).length

/-! ## The checks of a clause (R130 to R132) -/

/-- A control instruction. -/
def isCtl (op : Nat) : Bool := 0x30 ≤ op && op ≤ 0x41

/-- The causes that a word at a position of a clause of a class and a count gives (R130, R131). -/
def wordCauses (cls cnt p : Nat) (i : Instr) : List Nat :=
  let op := i.opcode
  let last := p + i.words == cnt
  (if opClass op == cls || op == 0 || (isCtl op && last) then [] else [0x04]) ++
    (if isCtl op && !last then [0x05] else []) ++
    (if p == 0 && i.dist != 0 then [0x09] else []) ++
    i.causes ++ (if cnt < p + i.words then [0x0B] else [])

/-- The words of a clause from a position on: the first offending position with its lowest cause (R131). Only words of the clause
are decoded: of a LOOPN that extends past the clause's last word, those before its end. DEDUCED (log 80): a LOOPN is one item of the
clause, so that a cause found in its words 1 to 3 is reported at the position and the PC of its first word. -/
def State.wordsFault (s : State) (core : Nat) (c : Scene) (off cls cnt : Nat) : Nat → Nat → Option (Nat × Nat)
  | 0, _ => none
  | n + 1, p =>
    if cnt ≤ p then none
    else
      let a := off + 8 * (p + 1)
      if c.codeSize < a + 8 then some (p, 0x0C)
      else match rawInstr (s.codeNum core c a (8 * min 4 (cnt - p))) with
        | none => some (p, 0x03)
        | some i => match lowestCause (wordCauses cls cnt p i) with
          | some k => some (p, k)
          | none => match (List.range i.words).find? fun k => c.codeSize < a + 8 * k + 8 with
            | some k => some (p + k, 0x0C)
            | none => s.wordsFault core c off cls cnt n (p + i.words)

/-- What R131 finds in the clause at an offset: none, the slate with its cause, or a word with its cause. -/
def State.clauseFault (s : State) (core : Nat) (c : Scene) (off : Nat) : Option (Option Nat × Nat) :=
  if c.codeSize < off + 8 then some (none, 0x0C)
  else
    let w := s.codeNum core c off 8
    if 5 < slateCls w then some (none, 0x01)
    else if w % 2 ^ 40 != 0 then some (none, 0x02)
    else (s.wordsFault core c off (slateCls w) (slateCnt w) 16 0).map fun f => (some f.1, f.2)

/-- The words of a clause of `cnt` words from a position on hold a privileged opcode: the position of the first (R132). -/
def State.privFrom (s : State) (core : Nat) (c : Scene) (off cnt : Nat) : Nat → Nat → Option Nat
  | 0, _ => none
  | n + 1, p =>
    if cnt ≤ p then none
    else match rawInstr (s.codeNum core c (off + 8 * (p + 1)) 32) with
      | none => none
      | some i => if 0xE0 ≤ i.opcode then some p else s.privFrom core c off cnt n (p + i.words)

/-- The clause, which has passed R131, holds a privileged opcode. -/
def State.privWord (s : State) (core : Nat) (c : Scene) (off : Nat) : Option Nat :=
  s.privFrom core c off (slateCnt (s.codeNum core c off 8)) 16 0

/-! ## The word that a take issues next -/

/-- The instruction at a position of the clause under way. -/
def State.wordAt (s : State) (tk p : Nat) : Option Instr :=
  let t := s.take tk
  let c := s.scene t.scene
  rawInstr (s.codeNum t.core c (c.codeOff t.pc + 8 * (p + 1)) 32)

/-! ## Ready takes (R29, R31) -/

/-- An operation that waits for a scene's issue to stop names the scene (R408, R410). -/
def State.stopping (s : State) (sc : Nat) : Bool :=
  let c := s.scene sc
  s.ops.any fun o => !o.done && o.args.getD 0 0 == c.ctx &&
    match o.instr with
    | .haltb _ => o.args.getD 1 0 == c.sid.toNat || o.args.getD 1 0 == 2 ^ 32 - 1
    | .scenekill _ => o.args.getD 1 0 == c.sid.toNat
    | _ => false

/-- A pre-emption is under way that takes the scene: the slice of the partition of its core is over, and the next is not its
context's (R394, step 1). -/
def State.preempting (s : State) (sc : Nat) : Bool :=
  let c := s.scene sc
  c.ctx != supCtx && s.parts.toList.any fun p =>
    p.closing && p.next != some c.ctx && p.stages.contains (12 * (c.core / 64) + c.core % 64 / 4)

/-- The stage of a core is IDLE, its clock gated: it is in no partition, until a SETPART gives it to one (R436). The Directors
belong to no stage (R426). DEDUCED (log 77): IDLE is the state of a stage, since RUN is left for nothing else. -/
def State.coreIdle (s : State) (core : Nat) : Bool :=
  !isDirector core && s.parts.toList.all fun p => !p.stages.contains (12 * (core / 64) + core % 64 / 4)

/-- The scene's takes can issue: it is resident, nothing stops it, and the package and its stage run. -/
def State.canIssue (s : State) (sc : Nat) : Bool :=
  s.power == .run && !s.coreIdle (s.scene sc).core && (s.scene sc).st == .resident && !s.stopping sc && !s.preempting sc

/-- The next instruction of a take that occupies a pipe, with the state in which it executes. A stepped word whose scene
stops issues no further step (R34, R389, R394). -/
def State.nextWord (s : State) (tk : Nat) : Option (Instr × State) :=
  let t := s.take tk
  match t.st with
  | .issuing _ =>
    if t.betweenSteps && !s.canIssue t.scene then none
    else (s.wordAt tk t.pos).map fun i =>
      (i, { s with cur := some { take := tk, addr := t.pc + BitVec.ofNat 64 (8 * (t.pos + 1)), pos := t.pos } })
  | _ => none

/-- The register lines that a word names and that are absent for some lane of its take (R54). -/
def State.absentLines (s : State) (tk : Nat) : List (Nat × Nat) :=
  let t := s.take tk
  match s.wordAt tk t.pos with
  | some i => t.lanes.flatMap fun l =>
      (i.lines.filter fun n => !(s.thread l.2).cached.contains n).map fun n => (l.2, n)
  | none => []

/-- A `CPYM` that is word 0 of a clause keeps the clause from being ready while its free-slot counter is zero (R236). -/
def State.cpymBlocked (s : State) (tk : Nat) : Bool :=
  let t := s.take tk
  match s.wordAt tk 0 with
  | some (.cpym w) =>
    (match t.lanes, (t.lanes.head?.bind fun l => s.castOf l.2) with
      | l :: _, some i =>
        let c := s.cast i
        match c.numOf t.core with
        | some me => (List.range 16).any fun r =>
            (c.coreOf r).isSome && bitOf (s.opnd l.2 w.a).toNat r && c.freeOf me r == 0
        | none => false
      | _, _ => false)
  | _ => false

/-- The WAIT condition of a take's clause holds (R29): the cue flags that its slate names are zero in every lane. -/
def State.waitMet (s : State) (tk : Nat) : Bool :=
  let t := s.take tk
  let c := s.scene t.scene
  let w := slateWait (s.codeNum t.core c (c.codeOff t.pc) 8)
  t.lanes.all fun l => (List.range 12).all fun j => !bitOf w j || (s.thread l.2).cueOf j == 0

/-- What the word of a take waits for still fails, beside the register lines and the cue counters that it names (R32). -/
def State.holdsStill (s : State) (tk : Nat) : Bool :=
  let t := s.take tk
  match t.hold with
  | .free => false
  | .lines ls => ls.any (s.scene t.scene).empty.contains
  | .sequencer => seqFull s t.core
  | .stream => streamBusy s t.core tk
  | .motion d => s.motionFull d
  | .counters cast from1 nums => nums.any fun n => (s.cast cast).freeOf from1 n == 0
  | .wo line => !s.lineWr line

/-- A take's next clause is ready (R31). -/
def State.clauseReady (s : State) (tk : Nat) : Bool :=
  let t := s.take tk
  let c := s.scene t.scene
  let off := c.codeOff t.pc
  (t.lanes.all fun l => !(s.thread l.2).haltNext) && (s.missingRows t.core c off).isEmpty &&
    (c.codeSize < off + 8 ||
      (t.last + slateDist (s.codeNum t.core c off 8) ≤ s.clock && s.waitMet tk && !s.cpymBlocked tk))

/-- The condition of the word that a take holds still fails (R32). -/
def State.wordWaits (s : State) (tk : Nat) : Bool :=
  let t := s.take tk
  s.holdsStill tk || (match s.wordAt tk t.pos with
    | some i => wordHolds s (t.progress != 0) (activeLanes s t i) i
    | none => false)

/-- A suspended clause or stepped word of a take can go on: its word's condition holds (R32, R34). -/
def State.clauseResumes (s : State) (tk : Nat) : Bool :=
  let t := s.take tk
  let c := s.scene t.scene
  !s.wordWaits tk && (s.missingRows t.core c (c.codeOff t.pc)).isEmpty && (!t.cont || s.waitMet tk) && (s.wordAt tk t.pos).isSome

/-- A take's next clause is ready, or its suspended clause or stepped word can go on. -/
def State.takeReady (s : State) (tk : Nat) : Bool :=
  let t := s.take tk
  match t.st with
  | .waiting => !t.lanes.isEmpty && s.canIssue t.scene && !t.yielded && t.sleep == 0 && s.clauseReady tk
  | .suspended => !t.lanes.isEmpty && s.canIssue t.scene && !t.yielded && t.sleep == 0 && s.clauseResumes tk
  | _ => false

/-- Takes that have a ready clause now have one in the round under way (R36). -/
def State.noteReady (s : State) : State :=
  { s with takes := s.takes.zipIdx.map fun t =>
      if !t.1.ready && !t.1.started && s.takeReady t.2 then { t.1 with ready := true } else t.1 }

/-- A take before another in the order of R33: age, then full before partial, then less recent issue. DESIGN CHOICE (log
70): takes equal in all three go by their numbers, which `bestTake` keeps to. -/
def Take.before (a b : Take) : Bool :=
  if a.age != b.age then b.age < a.age
  else
    let full := fun (t : Take) => t.lanes.length == 32
    if full a != full b then full a else a.last < b.last

/-- The ready take of highest priority of a bay (R33), the lowest number of those that R33 does not tell apart (DESIGN
CHOICE, log 70). -/
def State.bestTake (s : State) (core bay : Nat) : Option Nat :=
  (indices s.takes fun t => t.core == core && t.bay == bay).foldl (fun best k =>
    if !s.takeReady k then best
    else match best with
      | none => some k
      | some b => if (s.take k).before (s.take b) then some k else some b) none

/-- A pipe of a bay is occupied by a clause. -/
def State.pipeBusy (s : State) (core bay : Nat) (pipe : Bool) : Bool :=
  s.takes.any fun t => t.core == core && t.bay == bay && t.st == .issuing pipe

end Sys2Proof.Machine
end

