-- ==== Sys2Proof/Machine/Tasks.lean ====
section
/-! DEFINITION. Task records (R278, R280) and the task instructions (R287 to R290). The changes of records come about
where an instruction completes, lane by lane. -/

namespace Sys2Proof.Machine

/-! ## Records -/

/-- The virtual address of a record of a context's task area (R278). -/
def State.taskVa (s : State) (ctx index : Nat) : Nat := (s.ctx ctx).taskBase + 64 * index

/-- STATE, KIND and PREDCNT of the first 8 bytes of a record (R279). -/
def taskState (h : Nat) : Nat := bitsOf h 15 8
def taskKind (h : Nat) : Nat := bitsOf h 7 0
def taskPred (h : Nat) : Nat := bitsOf h 63 32

/-- The state codes of R280. -/
def tsFree : Nat := 0
def tsReserved : Nat := 1
def tsCommitted : Nat := 2
def tsArmed : Nat := 3
def tsLaunched : Nat := 4
def tsComplete : Nat := 5
def tsFailed : Nat := 6

/-- The first 8 bytes of a record with another STATE, or another PREDCNT. -/
def withTaskState (h st : Nat) : Nat := h - taskState h * 256 + st * 256
def withTaskPred (h n : Nat) : Nat := h % 2 ^ 32 + n * 2 ^ 32

/-- Where a record stands in this package's memory; none where its page does not translate. -/
def State.taskPa (s : State) (r : Req) (index : Nat) : Option Nat :=
  match (s.translate r (s.taskVa r.ctx index) false true none).1 with
  | .ok x => if x.pkg == s.pkgId then some x.pa else none
  | .error _ => none

/-- Read bytes of a record at its home slice; poison is a DATA fault. -/
def State.taskRead (s : State) (r : Req) (index n : Nat) : Except FaultInfo Nat × State :=
  let va := s.taskVa r.ctx index
  let q := s.virtRead r va n
  (match q.1 with
    | .error f => .error f
    | .ok (bs, psn) => if psn then .error { kind := 0x0C, va := va, detail := 0 } else .ok (leNat bs), q.2)

/-- The place of a record in the table of the bytes under STATE, and a byte put there. -/
def recordKey (ctx index : Nat) : Nat := 2 ^ 32 * ctx + index
def State.keepByte (s : State) (ctx index b : Nat) : State :=
  { s with listBytes := s.listBytes.set (recordKey ctx index) b }

/-- A data record as the readers of its list get it: byte 1 as it was committed, not the STATE over it (R279, R288,
R290). -/
def State.asList (s : State) (ctx index n : Nat) : Nat :=
  let b := s.listBytes.get (recordKey ctx index)
  if taskState n == tsCommitted && b != 0 then withTaskState n (b - 1) else n

/-- One SC atomic on the first 8 bytes of a record (R278, R280): the change that `f` makes, if it makes one, and whether
it did. -/
def State.taskAtomic (s : State) (r : Req) (index : Nat) (f : Nat → Option Nat) : Except FaultInfo Bool × State :=
  let va := s.taskVa r.ctx index
  let t := s.translate r va false true none
  match t.1 with
  | .error e => (.error e, t.2)
  | .ok x =>
    let q := t.2.taskRead r index 8
    match (t.2.remoteFault x va false).elim q.1 Except.error with
    | .error e => (.error e, q.2)
    | .ok h => match f h with
      | none => (.ok false, q.2)
      | some h' =>
        if x.pkg != q.2.pkgId then (.ok true, { q.2 with freeIx := q.2.freeIx + 1 })
        else
          let s := q.2.storeLine (lineOf x.pa) ((leBytes 8 h').zipIdx.map fun b => (x.pa % 128 + b.2, b.1)) x.cmpr
          (.ok true, if taskState h' == tsFree then s.keepByte r.ctx index 0 else s)

/-- The transitions that software requests (R280): the new header, or none where the table lists no such transition. -/
def armHeader (h : Nat) : Option Nat := if taskState h == tsCommitted then some (withTaskState h tsArmed) else none
def freeHeader (h : Nat) : Option Nat :=
  if [tsReserved, tsCommitted, tsComplete, tsFailed].contains (taskState h) then some (withTaskState h tsFree) else none
def reserveHeader (h : Nat) : Option Nat := if taskState h == tsFree then some (withTaskState h tsReserved) else none
def decHeader (h : Nat) : Option Nat :=
  if (taskState h == tsCommitted || taskState h == tsArmed) && taskPred h != 0 then some (withTaskPred h (taskPred h - 1))
  else none

/-- The Storyboard Units watch a record that has been armed (R278, R285). -/
def State.noteArmed (s : State) (ctx index : Nat) : State :=
  { s with armed := (s.armed.filter fun a => !(a.ctx == ctx && a.index == index)) ++
             [{ ctx := ctx, index := index, seq := s.seqCtr, unit := none }]
           seqCtr := s.seqCtr + 1 }

/-- Arm a record: it takes its place in the arming order (R285). -/
def State.armTask (s : State) (r : Req) (index : Nat) : Except FaultInfo Bool × State :=
  let q := s.taskAtomic r index armHeader
  match q.1 with
  | .ok true => (q.1, q.2.noteArmed r.ctx index)
  | _ => q

/-- A Storyboard Unit decrements a record, or posts TASKMEM (R280). A decrement carries the release of what completed, whose
writes have a mark, to the node that the record becomes and to who reads the record (R99). -/
def State.unitDecrement (s : State) (r : Req) (index : Nat) (a : Agent) (mark : Option Nat) : State :=
  if (s.ctx r.ctx).taskCnt ≤ index then s.postUnit r.ctx r.die 0x11 0 index
  else
    let q := s.taskAtomic r index decHeader
    match q.1 with
    | .ok true =>
      let s := q.2.releaseTo r.ctx index mark
      (s.taskPa r index).elim s fun pa => s.releaseBy a mark pa 8
    | .ok false => q.2.postUnit r.ctx r.die 0x11 0 index
    | .error f => q.2.postUnit r.ctx r.die f.kind f.va f.detail

/-- STATE of the first `n` records of a task area, in order, `load` reading one of them; the first fault ends the search
(R290). -/
def State.taskStates (s : State) (load : State → Nat → Except FaultInfo Nat × State) (n : Nat) :
    Except FaultInfo (List Nat) × State :=
  (List.range n).foldl (fun acc i => match acc.1 with
    | .error f => (.error f, acc.2)
    | .ok sts =>
      let q := load acc.2 i
      (q.1.map fun h => sts ++ [taskState h], q.2)) (.ok [], s)

/-- The lowest run of `n` FREE records (R288): the records from `i` on are read in order until it ends, `run` of them before
`i` being FREE; a fault on the way ends the search. -/
def State.freeRun (s : State) (r : Req) (n run i : Nat) : Nat → Except FaultInfo (Option Nat) × State
  | 0 => (.ok none, s)
  | left + 1 =>
    let q := s.taskRead r i 8
    match q.1 with
    | .error f => (.error f, q.2)
    | .ok h =>
      if taskState h != tsFree then q.2.freeRun r n 0 (i + 1) left
      else if run + 1 == n then (.ok (some (i + 1 - n)), q.2)
      else q.2.freeRun r n (run + 1) (i + 1) left

/-! ## TASKPUT, TASKARM (R287 to R289) -/

/-- The lanes of a task instruction that start something: helper lanes do not (R41). -/
def taskLanes (x : WordCtx) (s : State) : List (Nat × Nat) := x.lanes.filter fun l => !(s.thread l.2).helper

/-- A word of a task instruction: it holds its pipe while the sequencer is full (R270). -/
def taskWord (i : Instr) (s : State) (body : WordCtx → State → WordRes) : Out :=
  runWord i s fun x s => if seqFull s x.core then .hold .sequencer else body x s

/-- Start a task instruction in the lanes that go on: its arguments are one list of numbers for each lane, in a row. -/
def WordCtx.startTask (x : WordCtx) (s : State) (faults : List LaneFault) (args : Nat → List Nat)
    (writes : List RegWrite) : State :=
  let s := x.faults s faults
  let go := x.lanes.filter fun l => !(faults.any fun f => f.thread == l.2)
  if go.isEmpty then s
  else ({ x with lanes := go } : WordCtx).start s ((go.filter fun l => !(s.thread l.2).helper).flatMap fun l => args l.2) writes

/-- TASKMEM in each lane whose record lies beyond the task area (R288). -/
def beyondArea (x : WordCtx) (s : State) (a : Sel) : List LaneFault :=
  (taskLanes x s).filterMap fun l =>
    if (s.ctx (x.ctx s)).taskCnt ≤ (s.opnd l.2 a).toNat then
      some { thread := l.2, info := { kind := 0x11, va := 0, detail := (s.opnd l.2 a).toNat }, buf := 0xFFFF } else none

/-- `TASKPUT.resv` (R288). -/
def execTaskputResv (w : TWord) (s : State) : Out :=
  taskWord (.taskputResv w) s fun x s => .done <|
    let n := fun (th : Nat) => (s.opnd th w.a).toNat
    let bad := (taskLanes x s).filterMap fun l =>
      if n l.2 == 0 || 64 < n l.2 then
        some ({ thread := l.2, info := { kind := 0x11, va := 0, detail := 0 }, buf := 0xFFFF } : LaneFault) else none
    x.startTask s bad (fun th => [n th]) []

/-- `TASKPUT.commit` (R288): the 64 bytes are read at issue, and it waits on an empty line. -/
def execTaskputCommit (w : TWord) (s : State) : Out :=
  taskWord (.taskputCommit w) s fun x s =>
    let c := s.scene x.scene
    let at1 := fun (th : Nat) => (s.opnd th w.a).toNat
    let lanes := taskLanes x s
    let check := fun (l : Nat × Nat) =>
      let a := at1 l.2
      let f := fun (k va d : Nat) => some ({ thread := l.2, info := { kind := k, va := va, detail := d }, buf := 0xFFFF } : LaneFault)
      if a % 64 != 0 then f 5 a 0
      else if !c.spIn a 64 then f 4 a 0
      else if (s.ctx c.ctx).taskCnt ≤ (s.opnd l.2 w.b).toNat then f 0x11 0 (s.opnd l.2 w.b).toNat
      else none
    let first := lanes.filterMap check
    let ok := lanes.filter fun l => (check l).isNone
    if ok.any fun l => c.spEmpty (at1 l.2) 64 then .hold (.lines (ok.flatMap fun l => c.spLines (at1 l.2) 64))
    else
      let data := ok.filterMap fun l =>
        if c.spPoisoned (at1 l.2) 64 then
          some ({ thread := l.2, info := { kind := 0x0C, va := at1 l.2, detail := 0 }, buf := 0xFFFF } : LaneFault)
        else if c.spBad (at1 l.2) 64 then
          some ({ thread := l.2, info := { kind := 0x0C, va := at1 l.2, detail := 0x0606 }, buf := 0xFFFF } : LaneFault)
        else none
      let all := lanes.filterMap fun l => (first ++ data).find? fun f => f.thread == l.2
      let images := ok.foldl (fun (acc : List (Nat × Nat) × State) l =>
        let v := acc.2.seeScene (acc.2.threadReader l.2) x.scene ((List.range 64).map fun k => c.spPhys (at1 l.2 + k))
        (acc.1 ++ [(l.2, v.1.spNum (at1 l.2) 64)], v.2)) ([], s)
      let image := fun (th : Nat) => ((images.1.find? fun y => y.1 == th).map Prod.snd).getD 0
      .done (x.startTask images.2 all (fun th => [(s.opnd th w.b).toNat, image th]) [])

/-- `TASKPUT.free` (R288). -/
def execTaskputFree (w : TWord) (s : State) : Out :=
  taskWord (.taskputFree w) s fun x s => .done <|
    x.startTask s (beyondArea x s w.a) (fun th => [(s.opnd th w.a).toNat]) []

/-- The issue of `TASKARM` and `TASKARM.dec`: each lane's is a release, whose mark stands with its record (R287). The record
is looked at only where the change is performed. -/
def armWord (i : Instr) (w : TWord) (s : State) : Out :=
  taskWord i s fun x s => .done <|
    let q := (taskLanes x s).foldl (fun (acc : List (Nat × Nat) × State) l =>
      let m := acc.2.markOlds (acc.2.armCovers l.2)
      (acc.1 ++ [(l.2, (m.1.map (· + 1)).getD 0)], m.2)) ([], s)
    let mark := fun (th : Nat) => ((q.1.find? fun y => y.1 == th).map Prod.snd).getD 0
    x.startTask q.2 [] (fun th => [(s.opnd th w.a).toNat, mark th]) []

/-- `TASKARM` (R289). -/
def execTaskarm (w : TWord) (s : State) : Out := armWord (.taskarm w) w s

/-- `TASKARM.dec` (R289). -/
def execTaskarmDec (w : TWord) (s : State) : Out := armWord (.taskarmDec w) w s

/-- An SC load of a record by a lane (R290), which is compared with the watchpoints (R440) and is an acquire (R81). DEDUCED
(log 89): the access is the 8 bytes that hold the record's STATE and COUNT. -/
def State.taskLoad (s : State) (x : WordCtx) (th index : Nat) : Except FaultInfo Nat × State :=
  let r := x.req s
  let va := s.taskVa r.ctx index
  let t := s.translate r va false false none
  match (match t.1 with
    | .ok xl => t.2.watchFault x xl th va 8 true false
    | .error f => some f) with
  | some f => (.error f, t.2)
  | none =>
    let q := t.2.taskRead r index 8
    (q.1, match q.1, q.2.taskPa r index with
      | .ok _, some pa => q.2.acquireAt (.thread th) 4 .mem pa 8
      | _, _ => q.2)

/-- `TASKQRY` (R290): each read is an SC load, and a translation fault is synchronous in its lane. -/
def execTaskqry (w : TWord) (s : State) : Out :=
  taskWord (.taskqry w) s fun x s => .done <|
    let r := x.req s
    let cnt := (s.ctx r.ctx).taskCnt
    let one := fun (s : State) (th : Nat) =>
      let i := (s.opnd th w.a).toNat
      if w.mod.toNat == 2 then
        let q := s.taskStates (fun s k => s.taskLoad x th k) cnt
        (q.1.map fun sts => (sts.filter (· == tsFree)).length, q.2)
      else if cnt ≤ i then (.ok 0xFFFFFFFF, s)
      else
        let q := s.taskLoad x th i
        (q.1.map fun h => if w.mod.toNat == 0 then taskState h else taskPred h, q.2)
    let q := x.lanes.foldl (fun (acc : List (Nat × Except FaultInfo Nat) × State) l =>
      let r := one acc.2 l.2
      (acc.1 ++ [(l.2, r.1)], r.2)) ([], s.acquireL1 x.core)
    let bad := q.1.filterMap fun o => match o.2 with
      | .error f => if (s.thread o.1).helper then none else some ({ thread := o.1, info := f, buf := 0xFFFF } : LaneFault)
      | .ok _ => none
    let ws := q.1.filterMap fun o => match o.2 with
      | .error _ => if (s.thread o.1).helper then some (o.1, [(0 : Word)]) else none
      | .ok v => some (o.1, [BitVec.ofNat 32 v])
    let s := x.useExemption q.2 fun th => q.1.any fun o => o.1 == th && o.2.isOk
    x.startTask s bad (fun _ => []) (allWrites w.d w.nw ws)

/-! ## Where they complete -/

/-- A fault of one lane of a task instruction, posted asynchronously in its name (R289, R290, R380). -/
def State.taskRecord (s : State) (o : Op) (th : Nat) (f : FaultInfo) : State :=
  s.asyncFault th f.kind o.pc 0xFFFF f.va f.detail

/-- One lane's transition: TASKMEM with the record's index where R280 does not allow it. -/
def taskLane (o : Op) (th index : Nat) (q : Except FaultInfo Bool × State) : State :=
  match q.1 with
  | .ok true => q.2
  | .ok false => q.2.taskRecord o th { kind := 0x11, va := 0, detail := index }
  | .error f => q.2.taskRecord o th f

/-- The lanes of a task operation that act, each with its arguments. -/
def State.taskJobs (s : State) (o : Op) (n : Nat) : List (Nat × List Nat) :=
  ((o.lanes.filter fun l => !(s.thread l.2).helper).zipIdx).map fun l => (l.1.2, (o.args.drop (n * l.2)).take n)

/-- Reserve records for one lane (R288): the index of the first, or all ones. A fault at one of them reserves none. -/
def State.reserveLane (s : State) (o : Op) (th n : Nat) : Nat × State :=
  let r := o.req
  let q := s.freeRun r n 0 0 (s.ctx r.ctx).taskCnt
  match q.1 with
  | .error f => let v := q.2.fresh; (v.1.toNat % 2 ^ 32, v.2.taskRecord o th f)
  | .ok none => (0xFFFFFFFF, q.2)
  | .ok (some i) =>
    let all := (List.range n).foldl (fun (acc : Option FaultInfo × State) k => match acc.1 with
      | some f => (some f, acc.2)
      | none =>
        let w := acc.2.taskAtomic r (i + k) reserveHeader
        match w.1 with
        | .error f => (some f, w.2)
        | .ok _ => (none, w.2)) (none, q.2)
    match all.1 with
    | none => (i, all.2)
    | some f => let v := q.2.fresh; (v.1.toNat % 2 ^ 32, v.2.taskRecord o th f)

/-- A committed record: the image with STATE replaced (R288). -/
def State.commitLane (s : State) (o : Op) (th index image : Nat) : State :=
  let r := o.req
  let t := s.translate r (s.taskVa r.ctx index) false true none
  match t.1 with
  | .error f => t.2.taskRecord o th f
  | .ok x =>
    let q := t.2.taskRead r index 8
    match (t.2.remoteFault x (s.taskVa r.ctx index) false).elim q.1 Except.error with
    | .error f => q.2.taskRecord o th f
    | .ok h =>
      if taskState h != tsReserved then q.2.taskRecord o th { kind := 0x11, va := 0, detail := index }
      else if x.pkg != q.2.pkgId then { q.2 with freeIx := q.2.freeIx + 1 }
      else
        let bits := withTaskState image tsCommitted
        (q.2.storeLine (lineOf x.pa) ((leBytes 64 bits).zipIdx.map fun b => (x.pa % 128 + b.2, b.1)) x.cmpr).keepByte
          r.ctx index (taskState image + 1)

/-- `TASKPUT.resv` completes. -/
def taskResvDone (s : State) (i : Nat) (w : TWord) : State :=
  let o := s.op i
  let q := (s.taskJobs o 1).foldl (fun (acc : List (Nat × Nat) × State) j =>
    let r := acc.2.reserveLane o j.1 (j.2.getD 0 0)
    (acc.1 ++ [(j.1, r.1)], r.2)) ([], s)
  let value := fun (th : Nat) => ((q.1.find? fun e => e.1 == th).map Prod.snd).getD 0xFFFFFFFF
  (q.2.modOp i fun o =>
    { o with writes := allWrites w.d w.nw (o.lanes.map fun l => (l.2, [BitVec.ofNat 32 (value l.2)])) }).completeOp i

/-- `TASKPUT.commit` completes. -/
def taskCommitDone (s : State) (i : Nat) : State :=
  let o := s.op i
  ((s.taskJobs o 2).foldl (fun (s : State) j => s.commitLane o j.1 (j.2.getD 0 0) (j.2.getD 1 0)) s).completeOp i

/-- The transition of each lane's record, one after another: `n` numbers of the captured operands are a lane's, the record's
index first, and `after` follows a transition that is made. -/
def taskEachDone (s : State) (i n : Nat) (f : State → Req → Nat → Except FaultInfo Bool × State)
    (after : State → Nat → List Nat → State := fun s _ _ => s) : State :=
  let o := s.op i
  ((s.taskJobs o n).foldl (fun (s : State) j =>
    let k := j.2.getD 0 0
    if (s.ctx o.ctx).taskCnt ≤ k then s.taskRecord o j.1 { kind := 0x11, va := 0, detail := k }
    else
      let q := f s o.req k
      taskLane o j.1 k (q.1, match q.1 with
        | .ok true => after q.2 j.1 j.2
        | _ => q.2)) s).completeOp i

/-- `TASKPUT.free` completes. -/
def taskFreeDone (s : State) (i : Nat) : State := taskEachDone s i 1 fun s r k => s.taskAtomic r k freeHeader

/-- `TASKARM` and `TASKARM.dec` complete: the node that a record becomes sees what the thread has released (R287), and so
does a thread that reads the record (R81). -/
def taskArmDone (s : State) (i : Nat) (f : State → Req → Nat → Except FaultInfo Bool × State) : State :=
  let o := s.op i
  taskEachDone s i 2 f fun s th js =>
    let k := js.getD 0 0
    let mark := if js.getD 1 0 == 0 then none else some (js.getD 1 0 - 1)
    let s := s.releaseTo o.ctx k mark
    (s.taskPa o.req k).elim s fun pa => s.releaseBy (.thread th) mark pa 8

end Sys2Proof.Machine
end

