-- ==== Sys2Proof/Machine/SceneNode.lean ====
section
/-! DEFINITION. Task records as the Storyboard Unit reads them: kernel entries (R282), the payloads of R281, R283, R284,
R337, R353, and their validation (R18, R285). -/

namespace Sys2Proof.Machine

/-! ## Scene identifiers (R22) -/

/-- The first identifier from one on that no live scene of the context has; the fuel is more than they are. -/
def State.freeSid (s : State) (ctx : Nat) : Nat → Word → Word
  | 0, k => k
  | n + 1, k =>
    if k == -1 || s.scenes.any fun c => c.ctx == ctx && c.sid == k && c.st != .ended then s.freeSid ctx n (k + 1) else k

/-! ## Kernels (R282) -/

/-- An entry of a kernel table, with its entry list. -/
structure Kernel where
  code     : Nat
  codeSize : Nat
  kconst   : Nat
  kcSize   : Nat
  entries  : List Nat
  regs     : Nat
  dscr     : Nat
  dxwin    : Nat
  deriving DecidableEq, Repr, Inhabited

/-- An entry has VALID 0, a nonzero reserved bit or a field outside its range. -/
def kernelBad (e : Nat) : Bool :=
  !bitOf e 311 ||
    ([(63, 57), (95, 83), (159, 153), (191, 177), (255, 249), (287, 269), (511, 328)].any fun f => bitsOf e f.1 f.2 != 0) ||
    bitsOf e 56 0 % 4096 != 0 || bitsOf e 82 64 % 8 != 0 || bitsOf e 82 64 < 8 || 262144 < bitsOf e 82 64 ||
    bitsOf e 152 96 % 16 != 0 || 65536 < bitsOf e 176 160 || bitsOf e 248 192 % 4 != 0 ||
    bitsOf e 268 256 < 1 || 4096 < bitsOf e 268 256 || bitsOf e 296 288 < 1 || 256 < bitsOf e 296 288 ||
    128 < bitsOf e 304 297 || 32 < bitsOf e 310 305

/-- Base and count of a requester's kernel table. -/
def State.kernelTable (s : State) (r : Req) : Nat × Nat :=
  if r.ctx == supCtx then ((s.die r.die).skTab, (s.die r.die).skTCnt) else ((s.ctx r.ctx).kTab, (s.ctx r.ctx).ktCnt)

/-- Read a kernel's entry and its entry list; none where the handle or the entry is not valid or cannot be read. -/
def State.kernel (s : State) (r : Req) (handle : Nat) : Option Kernel × State :=
  let t := s.kernelTable r
  if t.2 ≤ handle then (none, s)
  else
    let q := s.virtRead r (t.1 + 64 * handle) 64
    match q.1 with
    | .error _ => (none, q.2)
    | .ok (bs, psn) =>
      let e := leNat bs
      if psn || kernelBad e then (none, q.2)
      else
        let n := bitsOf e 268 256
        let l := q.2.virtRead r (bitsOf e 248 192) (4 * n)
        match l.1 with
        | .error _ => (none, l.2)
        | .ok (ws, psn) =>
          if psn then (none, l.2)
          else
            (some { code := bitsOf e 56 0, codeSize := bitsOf e 82 64, kconst := bitsOf e 152 96
                    kcSize := bitsOf e 176 160, entries := (List.range n).map fun k => leNat ((ws.drop (4 * k)).take 4)
                    regs := bitsOf e 296 288, dscr := bitsOf e 304 297, dxwin := bitsOf e 310 305 }, l.2)

/-! ## Records (R279, R281, R283, R284) -/

def nodeKind (n : Nat) : Nat := bitsOf n 7 0
def nodePrio (n : Nat) : Nat := bitsOf n 18 16
def nodeDie (n : Nat) : Nat := bitsOf n 21 19
def nodeSucc (n : Nat) : Nat := bitsOf n 95 64
def nodeSuccN (n : Nat) : Nat := bitsOf n 111 96

/-- The reserved bits of a record of a kind, from R281, R283, R284, R337 and R353. -/
def nodeReserved (n : Nat) : List (Nat × Nat) :=
  [(31, 22), (127, 112)] ++ match nodeKind n with
  | 1 => [(319, 309), (511, 359)]
  | 2 => [(415, 397), (511, 448)]
  | 3 => [(511, 368)]
  | 4 => [(511, 209)]
  | 5 => [(319, 304), (511, 352)]
  | 6 => [(511, 336)]
  | _ => [(511, 192)]

/-- What a scene node asks for (R281). -/
structure SceneReq where
  kernel  : Nat
  entry   : Nat
  nthr    : Nat
  cap     : Nat
  regs    : Nat
  scr     : Nat
  xwin    : Nat
  slots   : Nat
  quad    : Bool
  arr     : Bool
  consts  : Nat
  nconst  : Nat
  deriving DecidableEq, Repr, Inhabited

def sceneReq (n : Nat) : SceneReq :=
  { kernel := bitsOf n 223 192, entry := bitsOf n 255 224, nthr := bitsOf n 267 256, cap := bitsOf n 279 268
    regs := bitsOf n 288 280, scr := bitsOf n 296 289, xwin := bitsOf n 302 297, slots := bitsOf n 306 303
    quad := bitOf n 307, arr := bitOf n 308, consts := bitsOf n 351 320, nconst := bitsOf n 358 352 }

/-- The limits of R18 and R281, those of the kernel apart. -/
def SceneReq.inLimits (q : SceneReq) (taskCnt : Nat) : Bool :=
  1 ≤ q.nthr && q.nthr ≤ 2048 && q.nthr ≤ q.cap && q.cap ≤ 2048 && 1 ≤ q.regs && q.regs ≤ 256 && q.scr ≤ 128 &&
    q.xwin ≤ 32 && q.slots ≤ 8 && q.nconst ≤ 64 && (!q.arr || 1 ≤ q.slots) && (!q.quad || q.nthr % 4 == 0) &&
    (q.nconst == 0 || q.consts + (q.nconst + 15) / 16 ≤ taskCnt)

/-- A scene node's kernel, where the node is valid for it (R282). -/
def State.sceneKernel (s : State) (r : Req) (q : SceneReq) : Option Kernel × State :=
  let k := s.kernel r q.kernel
  match k.1 with
  | some e => (if e.entries.contains q.entry && e.regs ≤ q.regs then some e else none, k.2)
  | none => (none, k.2)

/-- A record is valid at readiness: header and payload (R285). -/
def State.nodeValid (s : State) (r : Req) (n : Nat) : Bool × State :=
  let header := 1 ≤ nodeKind n && nodeKind n ≤ 7 && (nodeDie n < 4 || nodeDie n == 7) &&
    ((nodeReserved n).all fun f => bitsOf n f.1 f.2 == 0)
  if !header then (false, s)
  else match nodeKind n with
    | 1 =>
      if !(sceneReq n).inLimits (s.ctx r.ctx).taskCnt then (false, s)
      else let k := s.sceneKernel r (sceneReq n); (k.1.isSome, k.2)
    | 2 =>
      (([bitsOf n 287 256, bitsOf n 319 288, bitsOf n 351 320, bitsOf n 383 352].all fun o => o % 128 == 0) &&
        bitsOf n 395 394 != 3, s)
    | 5 => (bitsOf n 351 320 % 128 == 0, s)
    | 6 => (bitsOf n 255 208 % 8 == 0 && (bitsOf n 335 320 < 64 || bitsOf n 335 320 == 0xFFFF), s)
    | _ => (true, s)

end Sys2Proof.Machine
end

