-- ==== Sys2Proof/Machine/Admit.lean ====
section
/-! DEFINITION. Partitions and their cores (R426), the resources of a core (R19 to R21), admission of scenes (R17, R19,
R25), readmission (R48, R391), and the forming of takes from threads that wait (R27, R385, R392). -/

namespace Sys2Proof.Machine

/-! ## Partitions -/

/-- The cores of a stage (R426). -/
def stageCores (g : Nat) : List Nat := (List.range 4).map fun i => 64 * (g / 12) + 4 * (g % 12) + i

/-- A partition. -/
def State.part (s : State) (p : Nat) : Partition := s.parts.toList.getD p default

/-- Change a partition. -/
def State.modPart (s : State) (p : Nat) (f : Partition → Partition) : State :=
  { s with parts := s.parts.mapFinIdx fun i x _ => if i == p then f x else x }

/-- The cores of a partition, ascending. -/
def State.partCores (s : State) (p : Nat) : List Nat :=
  (List.range 256).filter fun k => ((s.part p).stages.flatMap stageCores).contains k

/-- The partition of a context; a supervisor scene has none. -/
def State.partOf (s : State) (ctx : Nat) : Nat := if ctx == supCtx then 48 else (s.ctx ctx).part

/-- The requests of a die's Storyboard Unit and engines in a context's name. -/
def unitReq (ctx die : Nat) : Req := engineReq ctx (64 * die)

/-- The task record at an index is ARMED and its predecessor count is zero (R285). -/
def State.nodeReady (s : State) (ctx index : Nat) : Bool :=
  match (s.taskRead (unitReq ctx (s.ctx ctx).homeDie) index 8).1 with
  | .ok h => taskState h == tsArmed && taskPred h == 0
  | .error _ => false

/-- A context is runnable (R393). -/
def State.runnable (s : State) (ctx : Nat) : Bool :=
  (s.scenes.any fun c => c.ctx == ctx && c.st != .ended) || s.armed.any fun a => a.ctx == ctx && s.nodeReady ctx a.index

/-- Runnable contexts outnumber the partitions, so that contexts take turns (R393). -/
def State.sliced (s : State) : Bool :=
  (s.parts.toList.filter fun p => !p.stages.isEmpty).length <
    (s.ctxs.filter fun c => c.2.registered && s.runnable c.1).length

/-- A context may use its partition now (R393). -/
def State.mayRun (s : State) (ctx : Nat) : Bool :=
  ctx == supCtx || !s.sliced || (s.part (s.ctx ctx).part).current == some ctx

/-! ## The resources of a core -/

/-- The scenes that hold resources of a core. -/
def State.scenesOn (s : State) (core : Nat) : List Scene :=
  s.scenes.filter fun c => c.core == core && (c.st == .resident || c.st == .saving || c.st == .restoring)

/-- The free slot groups of a core (R20). -/
def State.freeGroups (s : State) (core : Nat) : List Nat :=
  (List.range 64).filter fun g => !(s.scenesOn core).any fun c => c.groups.contains g

/-- Slot groups of a scene (R20). -/
def Scene.groupCount (c : Scene) : Nat := (c.cap + 31) / 32

/-- The capacity of a scene that it has not filled (R21). -/
def Scene.spare (c : Scene) : Nat := c.cap - c.nextTid

/-- The array of a core is held by no scene and runs no tile task (R265, R286). -/
def State.arrayFree (s : State) (core : Nat) : Bool :=
  !((s.scenesOn core).any fun c => c.arr) && !(s.nodes.any fun n => n.live && n.kind == 2 && n.core == some core)

/-- A scene's resources, its slot groups apart, are free on a core (R19, R21, R68, R265). -/
def State.fits (s : State) (c : Scene) (core : Nat) : Bool :=
  let on := s.scenesOn core
  let sum := fun (f : Scene → Nat) => on.foldl (fun n x => n + f x) 0
  sum (fun x => x.alloc + 2 * x.win) + c.alloc + 2 * c.win ≤ 524288 && sum (fun x => x.slots) + c.slots ≤ 8 &&
    (!c.arr || s.arrayFree core) && sum Scene.spare + c.spare ≤ 512

/-- A core on which a scene may run: of its partition and its die, while its context has the partition and admission
is not paused (R285, R393, R436). -/
def State.coreOpen (s : State) (c : Scene) (core : Nat) : Bool :=
  s.power == .run && !s.powerLow && s.mayRun c.ctx && (s.partCores c.part).contains core &&
    (c.die == 7 || coreDie core == c.die)

/-- A queued scene is admissible on a core (R19). -/
def State.admissible (s : State) (c : Scene) (core : Nat) : Bool :=
  s.coreOpen c core && c.groupCount ≤ (s.freeGroups core).length && s.fits c core

/-- The core with the most free slots among those that a test allows; the lowest number wins a tie (R19). -/
def State.bestCore (s : State) (p : Nat → Bool) : Option Nat :=
  ((List.range 256).filter p).foldl (fun best k => match best with
    | none => some k
    | some b => if (s.freeGroups b).length < (s.freeGroups k).length then some k else some b) none

/-! ## Casts of a scene that moves (R48) -/

/-- The casts that a scene's threads belong to. -/
def State.castsOf (s : State) (sc : Nat) : List Nat :=
  indices s.casts fun c => c.live && c.members.any fun m => (s.thread m.thread).scene == sc

/-- Another member scene of a cast remains on a core. -/
def State.othersOn (s : State) (i sc core : Nat) : Bool :=
  (s.cast i).members.any fun m =>
    let t := s.thread m.thread
    let c := s.scene t.scene
    t.scene != sc && c.core == core && [.resident, .saving, .restoring, .suspended].contains c.st

/-- A cast with the number that a scene's new core takes; none where it would need a 17th (R48). -/
def State.renumber (s : State) (i sc core : Nat) : Option Cast :=
  let c := s.cast i
  let old := (s.scene sc).core
  if (c.numOf core).isSome then some c
  else match c.numOf old with
    | some n =>
      if s.othersOn i sc old then c.giveNum core
      else some { c with nums := c.nums.map fun x => if x.1 == n then (n, core) else x }
    | none => c.giveNum core

/-- A READY scene may be readmitted to a core (R391). -/
def State.readmissible (s : State) (sc core : Nat) : Bool :=
  let c := s.scene sc
  s.coreOpen c core && (c.groups.all (s.freeGroups core).contains) && s.fits c core &&
    (s.castsOf sc).all fun i => (s.cast i).die == coreDie core && (s.renumber i sc core).isSome

/-! ## The order of admissions (R19, R391) -/

/-- A scene comes before another in the order of admissions: priority, readmissions first, then the order of arming or
of becoming READY. -/
def Scene.comesBefore (a b : Scene) : Bool :=
  if a.prio != b.prio then b.prio < a.prio
  else if (a.st == .ready) != (b.st == .ready) then a.st == .ready
  else a.seq < b.seq

/-- A scene that waits for a core could have one now. -/
def State.placeable (s : State) (sc : Nat) : Bool :=
  let c := s.scene sc
  if c.st == .queued then (s.partCores c.part).any (s.admissible c)
  else c.st == .ready && (s.partCores c.part).any (s.readmissible sc)

/-- No scene that comes before this one in its partition could be placed now. -/
def State.itsTurn (s : State) (sc : Nat) : Bool :=
  let c := s.scene sc
  (List.range s.scenes.length).all fun j =>
    let d := s.scene j
    !(d.part == c.part && (d.st == .queued || d.st == .ready) && d.comesBefore c && s.placeable j)

/-! ## Nodes in the trace (R443, R444) -/

/-- Open or close the window captures of a context that name a node. -/
def State.silWindow (s : State) (ctx : Nat) (p : DieRegs → Bool) (opened : Bool) : State :=
  (List.range 4).foldl (fun (s : State) d => s.modDie d fun r =>
    if r.silCfg.toNat % 4 == 1 && bitsOf r.silCfg.toNat 25 16 == ctx && p r then { r with silOpen := opened } else r) s

/-- A node has been launched: window capture that starts with it opens. -/
def State.nodeLaunched (s : State) (ctx index kind : Nat) : State :=
  (s.silWindow ctx (fun r => r.silStart == index) true).sillage ctx 1 255 index kind none none

/-- A node is COMPLETE or FAILED: window capture that stops with it closes. -/
def State.nodeEnded (s : State) (ctx index st : Nat) : State :=
  (s.sillage ctx 2 255 index st none none).silWindow ctx (fun r => r.silStop == index) false

/-! ## Admission (R17, R19, R25) -/

/-- An array whose banks hold no tile (R264). -/
def MatArray.empty : MatArray :=
  { active := { fmt := 4, weights := [], scales := [] }, shadow := { fmt := 4, weights := [], scales := [] }, acc := []
    rowScale := [] }

/-- The threads 32 i to 32 i + 31 of a scene as take i, bound to bay i mod 4 (R25). -/
def State.firstTake (s : State) (sc i : Nat) : State :=
  let c := s.scene sc
  let ths := (c.threads.drop (32 * i)).take 32
  s.newTake c.core sc (i % 4) 0 (BitVec.ofNat 64 (c.code + c.entry)) (ths.map fun th => ((s.thread th).colour, th)) 0

/-- A scene starts on a core (R17, R19, R68, R99, R264, R267): `helper` says which of its threads are helper lanes, and `v0`
is the first register of each. -/
def State.startScene (s : State) (sc core : Nat) (helper : Nat → Bool) (v0 : Word) : State :=
  let q := s.scene sc
  let c : Scene := { q with
    core := core, groups := (s.freeGroups core).take q.groupCount, st := .resident, nextTid := q.nthr, front := false
    uni := Vector.ofFn fun k : Fin 64 => q.consts.getD k.val 0
    sp := [], empty := [], poison := [], bad := [], mat := .empty
    oslots := List.replicate q.slots { claimed := false, data := [], bad := [] }
    threads := (List.range q.nthr).map fun t => s.threads.length + t }
  let s := { s with
    threads := s.threads ++ (List.range c.nthr).map fun t =>
      startThread c sc t (helper t) (BitVec.ofNat 64 (c.code + c.entry)) v0 }
  let s := ((s.modScene sc fun _ => c).dropRecords core).enterCore core c.ctx
  let s := (List.range ((c.nthr + 31) / 32)).foldl (fun (s : State) i => s.firstTake sc i) s
  s.sillage c.ctx 3 core c.sid.toNat core none none

/-- Whether a thread of a pixel scene is a helper lane (R346). -/
def Scene.helperAt (c : Scene) (t : Nat) : Bool :=
  c.pass.isSome && !((c.work.getD (t / 4) default).own.getD (t % 4) false)

/-- SCENE_ADMISSION (R19): the scene whose turn it is starts on the admissible core with the most free slots. -/
def execSceneAdmission (scene : Nat) (s : State) : Out := .next <|
  let c := s.scene scene
  if c.st == .queued && s.itsTurn scene then
    match s.bestCore (s.admissible c) with
    | some core => s.startScene scene core c.helperAt 0
    | none => s
  else s

end Sys2Proof.Machine
end

