-- ==== Sys2Proof/Machine/MemInstr.lean ====
section
/-! DEFINITION. The loads, stores, atomics, fences, full/empty control and queries of the MEM class (R213 to R228, R237
to R241). -/

namespace Sys2Proof.Machine

/-! ## Widths and values -/

/-- Bytes of a width code (R214). -/
def memBytes (mod : Nat) : Nat := [1, 2, 4, 8, 16, 1, 2].getD mod 4

/-- The words that a load returns (R105, R214): narrow values are extended into a register. -/
def loadWords (mod : Nat) (bs : List Byte) : List Word :=
  let n := leNat bs
  match mod with
  | 5 => [BitVec.ofInt 32 (sextN n 8)]
  | 6 => [BitVec.ofInt 32 (sextN n 16)]
  | _ => wordsOf ((memBytes mod + 3) / 4) n

/-- The bytes that a store writes. -/
def storeBytes (s : State) (w : MWord) (th : Nat) : List Byte :=
  leBytes (memBytes w.mod.toNat) (s.opndN th w.d ((memBytes w.mod.toNat + 3) / 4))

/-- The order of a scratchpad access: at die scope (R219, R221). -/
def spOrder (w : MWord) : MemOrder := { mOrder w with scope := 2 }

/-- `.nf` of a format-M word (R77). -/
def mProbe (w : MWord) : Bool := bitOf w.ex.toNat 3

/-- The new value of an atomic from the old value m and the operand b (R224). -/
def atomicNew (mod m b : Nat) : Nat :=
  let sm := sextN m 32
  let sb := sextN b 32
  match mod with
  | 0 => wrapI (m + b : Nat) 32
  | 1 => wrapI (m + b : Nat) 64
  | 2 => if sm ≤ sb then m else b
  | 3 => min m b
  | 4 => if sm ≤ sb then b else m
  | 5 => max m b
  | 6 => m &&& b
  | 7 => m ||| b
  | 8 => m ^^^ b
  | 11 => (f32.add 0 m b).1
  | 12 => f32.minMax false m b
  | 13 => f32.minMax true m b
  | 14 => if b ≤ m then 0 else m + 1
  | _ => b

/-- Bytes of an atomic's location, and of a compare-and-swap's. -/
def atomBytes (w : MWord) : Nat := 4 * atomW w
def casBytes (w : MWord) : Nat := if w.mod.toNat == 0 then 4 else 8

/-- The step of an atomic in a thread (R224), and of a compare-and-swap (R225). -/
def atomStep (s : State) (w : MWord) (th : Nat) (old : List Byte) : Option (List Byte) :=
  some (leBytes (atomBytes w) (atomicNew w.mod.toNat (leNat old) (s.opndN th w.d (atomW w))))
def casStep (s : State) (w : MWord) (th : Nat) (old : List Byte) : Option (List Byte) :=
  let n := casBytes w
  let d := s.opndN th w.d (n / 2)
  if leNat old == d % 2 ^ (8 * n) then some (leBytes n (d / 2 ^ (8 * n))) else none

/-- What an atomic returns: the old value, or zeros in a helper lane (R41). -/
def atomWords (n : Nat) (bs : List Byte) : List Word := wordsOf (n / 4) (leNat bs)

/-! ## Global space -/

/-- What an access of a lane does with its bytes. -/
inductive Access where
  | load (probe : Bool) (o : MemOrder)
  | store (o : MemOrder)
  | rmw (o : MemOrder) (f : Nat → List Byte → Option (List Byte))

/-- The order that it carries. -/
def Access.order : Access → MemOrder
  | .load _ o => o
  | .store o => o
  | .rmw o _ => o

/-- The global accesses of some lanes through a record: each lane with its offset and the bytes a store writes. -/
def globalLanes (x : WordCtx) (s : State) (b : BufRef) (n : Nat) (a : Access) (lanes : List (Nat × Nat))
    (off : Nat → Nat) (data : Nat → List Byte) : List (Nat × LaneOut) × State × List GLane :=
  let formed := lanes.map fun l => (l, formAddr b.bits (off l.2) n)
  let bad := formed.filterMap fun f => match f.2 with
    | .error e => some (f.1.2, LaneOut.fault e)
    | .ok _ => none
  let ok := formed.filterMap fun f => match f.2 with
    | .error _ => none
    | .ok va => some ({ lane := f.1.1, th := f.1.2, va := va, w := n, data := data f.1.2 } : GLane)
  let r := x.req s
  let res := match a with
    | .load probe o => overLines s ok fun s g => s.loadLine x r b g probe o
    | .store o => overLines s ok fun s g => s.storeLanes x r b g o
    | .rmw o f => overLines s ok fun s g => s.rmwLine x r b g o f
  (bad ++ res.1, res.2, ok)

/-- The lanes that an access acts in: helper lanes store nothing and their atomics return zero (R41, R217). -/
def actingLanes (x : WordCtx) (s : State) (a : Access) : List (Nat × Nat) :=
  match a with
  | .load _ _ => x.lanes
  | _ => x.lanes.filter fun l => !(s.thread l.2).helper

/-- A global access of a format-M word through the record that S names (R67, R218, R224). -/
def globalAccess (i : Instr) (w : MWord) (s : State) (n : Nat) (a : State → Access) (data : State → Nat → List Byte)
    (ret : List Byte → List Word) (store : Bool) : Out :=
  runWord i s fun x s => .done <|
    let idx := mIndex s x w
    let lanes := actingLanes x s (a s)
    let probe := mProbe w
    let extra := fun (th : Nat) (o : LaneOut) => if probe then
        [({ thread := th, dest := .p w.pg.toNat, value := match o with
          | .unwritten => 0
          | _ => 1 } : RegWrite)] else []
    if x.lanes.isEmpty then s
    else
      let q := s.bufRecord (x.req s) idx
      match q.1 with
      | .error f =>
        if lanes.isEmpty then x.finish s [] (fun _ => idx % 2 ^ 16) w.d (w.nw || store) ret extra (0, 0)
        else x.finish q.2 (lanes.map fun l => (l.2, LaneOut.fault f)) (fun _ => idx % 2 ^ 16) w.d (w.nw || store) ret extra (0, 0)
      | .ok bits =>
        let g := globalLanes x q.2 { bits := bits, index := idx } n (a s) lanes (fun th => mOffset s w bits th) (data s)
        x.finish g.2.1 g.1 (fun _ => idx % 2 ^ 16) w.d (w.nw || store) ret extra (sectorsOf g.2.2)

/-- `LDG` (R218). -/
def execLdg (w : MWord) (s : State) : Out :=
  globalAccess (.ldg w) w s (memBytes w.mod.toNat) (fun _ => .load (mProbe w) (mOrder w)) (fun _ _ => [])
    (loadWords w.mod.toNat) false

/-- `STG` (R218). -/
def execStg (w : MWord) (s : State) : Out :=
  globalAccess (.stg w) w s (memBytes w.mod.toNat) (fun _ => .store (mOrder w)) (fun s th => storeBytes s w th) (fun _ => []) true

/-- `ATOMG` (R224). -/
def execAtomg (w : MWord) (s : State) : Out :=
  globalAccess (.atomg w) w s (atomBytes w) (fun s => .rmw (mOrder w) (atomStep s w)) (fun _ _ => []) (atomWords (atomBytes w)) false

/-- `CASG` (R225). -/
def execCasg (w : MWord) (s : State) : Out :=
  globalAccess (.casg w) w s (casBytes w) (fun s => .rmw (mOrder w) (casStep s w)) (fun _ _ => []) (atomWords (casBytes w)) false

/-! ## Scratchpad space -/

/-- A lane of a scratchpad access: its thread and its address. -/
abbrev SLane := Nat × Nat

/-- The fault of a lane before any access (R70). DESIGN CHOICE (log 27): the record's VA holds the scratchpad address, which
R70 does not name. -/
def spAddrFault (c : Scene) (a n : Nat) : Option FaultInfo :=
  if a % n != 0 then some { kind := 5, va := a, detail := 0 }
  else if !c.spIn a n then some { kind := 4, va := a, detail := 0 }
  else none

/-- The lanes of a scratchpad access that reach the store. -/
def spGood (c : Scene) (n : Nat) (lanes : List SLane) : List SLane := lanes.filter fun l => (spAddrFault c l.2 n).isNone

/-- One lane at its bank (R71, R219, R224, R372). -/
def spLane (c : Scene) (a : Access) (n : Nat) (l : SLane) (data : List Byte) : LaneOut × Scene :=
  match spAddrFault c l.2 n with
  | some f => (.fault f, c)
  | none =>
    let data1 := fun (d : Nat) => LaneOut.fault { kind := 0x0C, va := l.2, detail := d }
    match a with
    | .store _ => if c.spBadPart l.2 n then (data1 0x0606, c) else (.data [], c.spWrite l.2 data)
    | .load _ _ =>
      if c.spPoisoned l.2 n then (data1 0, c)
      else if c.spBad l.2 n then (data1 0x0606, c)
      else (.data (c.spRead l.2 n), c)
    | .rmw _ f =>
      if c.spPoisoned l.2 n then (data1 0, c)
      else if c.spBad l.2 n then (data1 0x0606, c)
      else
        let old := c.spRead l.2 n
        (.data old, match f l.1 old with
          | some new => c.spWrite l.2 new
          | none => c)

/-- The access waits on an empty line (R71). -/
def spWaits (c : Scene) (a : Access) (n : Nat) (lanes : List SLane) : Bool :=
  match a with
  | .store _ => false
  | _ => (spGood c n lanes).any fun l => c.spEmpty l.2 n

/-- The empty lines that it waits for. -/
def spHold (c : Scene) (n : Nat) (lanes : List SLane) : Hold :=
  .lines ((spGood c n lanes).flatMap fun l => (c.spLines l.2 n).filter c.empty.contains)

/-- One lane's access with what it orders (R95, R97, R98). An atomic acts on the bytes that stand there. -/
def spLaneAt (x : WordCtx) (s : State) (a : Access) (n : Nat) (data : Nat → List Byte) (l : SLane) : LaneOut × State :=
  let c := s.scene x.scene
  let space : Space := .sp x.scene
  let lo := c.spPhys l.2
  let places := (List.range n).map fun k => c.spPhys (l.2 + k)
  let why := s.threadReader l.1
  match a with
  | .load _ o =>
    let v := s.seeScene why x.scene places
    let r := (spLane v.1 a n l (data l.1)).1
    (r, match r with
      | .data _ => (v.2.meetSignals [l.1] space (places.map (· / 128))).orderRead 1 l.1 o space lo n
      | _ => v.2)
  | _ =>
    let r := spLane c a n l (data l.1)
    match r.1 with
    | .data _ =>
      let s := match a with
        | .rmw o _ => s.orderRead 1 l.1 o space lo n
        | _ => s
      (r.1, ((s.keepSp x.scene why places).modScene x.scene fun _ => r.2).orderWrite 1 l.1 a.order space lo n)
    | _ => (r.1, s)

/-- The accesses of some lanes, in ascending lane order; an acquire among them drops the core's RC lines (R83). -/
def spLanes (x : WordCtx) (s : State) (a : Access) (n : Nat) (lanes : List SLane) (data : Nat → List Byte) :
    List (Nat × LaneOut) × State :=
  lanes.foldl (fun acc l => let r := spLaneAt x acc.2 a n data l; (acc.1 ++ [(l.1, r.1)], r.2))
    ([], if lanes.isEmpty then s else s.acquirePage x.core 1 a.order)

/-- The 4-byte words of the scratchpad that some lanes touch (R70). -/
def spWords (n : Nat) (lanes : List SLane) : List Nat :=
  lanes.flatMap fun l => (List.range ((l.2 % 4 + n + 3) / 4)).map fun i => l.2 / 4 + i

/-- A scratchpad access of a format-M word (R219, R224). -/
def spAccess (i : Instr) (w : MWord) (s : State) (n : Nat) (a : State → Access) (data : State → Nat → List Byte)
    (ret : List Byte → List Word) (store : Bool) : Out :=
  runWord i s fun x s =>
    let lanes := (actingLanes x s (a s)).map fun l => (l.2, ((s.opnd l.2 w.a).toNat + w.imm.toNat) % 2 ^ 32)
    let c := s.scene x.scene
    if spWaits c (a s) n lanes then .hold (spHold c n lanes)
    else match spadCycles x s (bankCycles (spWords n (spGood c n lanes))) with
      | none => .hold .free
      | some s1 =>
        let r := spLanes x s1 (a s) n lanes (data s)
        .done (x.finish r.2 r.1 (fun _ => 0xFFFF) w.d (w.nw || store) ret (fun _ _ => []) (0, 0))

/-- `LDS` (R219). -/
def execLds (w : MWord) (s : State) : Out :=
  spAccess (.lds w) w s (memBytes w.mod.toNat) (fun _ => .load false (spOrder w)) (fun _ _ => [])
    (loadWords w.mod.toNat) false

/-- `STS` (R219). -/
def execSts (w : MWord) (s : State) : Out :=
  spAccess (.sts w) w s (memBytes w.mod.toNat) (fun _ => .store (spOrder w)) (fun s th => storeBytes s w th) (fun _ => []) true

/-- `ATOMS` (R224). -/
def execAtoms (w : MWord) (s : State) : Out :=
  spAccess (.atoms w) w s (atomBytes w) (fun s => .rmw (spOrder w) (atomStep s w)) (fun _ _ => []) (atomWords (atomBytes w)) false

/-- `CASS` (R225). -/
def execCass (w : MWord) (s : State) : Out :=
  spAccess (.cass w) w s (casBytes w) (fun s => .rmw (spOrder w) (casStep s w)) (fun _ _ => []) (atomWords (casBytes w)) false

/-! ## Exchange space (R73, R222) -/

/-- The member scenes of a cast on the core that a cast core number names, with a window; none where the number names no
core of the cast. -/
def State.numScenes (s : State) (i num : Nat) : Option (List Nat) :=
  let c := s.cast i
  (c.coreOf num).map fun core =>
    ((c.members.map fun m => (s.thread m.thread).scene).eraseDups.filter fun sc =>
      (s.scene sc).core == core && (s.scene sc).win != 0)

/-- Those of a thread's cast. -/
def State.castScenes (s : State) (th num : Nat) : Option (List Nat) := (s.castOf th).bind fun i => s.numScenes i num

/-- One lane of an exchange store: into the back bank of every receiving scene, resident or saved. -/
def stxLane (s : State) (th num off : Nat) (data : List Byte) : LaneOut × State :=
  let n := data.length
  match s.castScenes th num with
  | none => (.fault { kind := 2, va := off, detail := 0 }, s)
  | some scs =>
    if scs.any fun sc => (s.scene sc).win < off + n then (.fault { kind := 4, va := off, detail := 0 }, s)
    else
      let cells := fun (c : Scene) => data.zipIdx.map fun d => (c.backPhys (off + d.2), d.1)
      let bad := scs.any fun sc =>
        let c := s.scene sc
        c.bad.any fun wd => (let k := ((cells c).filter fun y => y.1 / 4 == wd).length; k != 0 && k < 4)
      if bad then (.fault { kind := 0x0C, va := off, detail := 0x0606 }, s)
      else (.data [], scs.foldl (fun (s : State) sc =>
        (s.keepSp sc (s.threadReader th) ((cells (s.scene sc)).map Prod.fst)).modScene sc fun c => c.storePhys (cells c)) s)

/-- `STX` (R222). -/
def execStx (w : MWord) (s : State) : Out :=
  runWord (.stx w) s fun x s => .done <|
    let lanes := actingLanes x s (.store default)
    let r := lanes.foldl (fun (acc : List (Nat × LaneOut) × State) l =>
      let v := ((s.opnd l.2 w.a).toNat + w.imm.toNat) % 2 ^ 32
      let o := stxLane acc.2 l.2 (v / 2 ^ 28) (v % 2 ^ 28) (storeBytes s w l.2)
      (acc.1 ++ [(l.2, o.1)], o.2)) ([], s)
    x.finish r.2 r.1 (fun _ => 0xFFFF) w.d true (fun _ => []) (fun _ _ => []) (0, 0)

/-! ## Constant space (R62, R220) -/

/-- One lane of a constant load, which is compared with the watchpoints like any access (R440). DESIGN CHOICE (log 65): a constant bank on WO pages is read as it stands, written or not,
since R220 orders the load with nothing. -/
def constLane (x : WordCtx) (s : State) (th a n : Nat) : LaneOut × State :=
  let c := s.scene x.scene
  let va := c.kconst + a
  if a % n != 0 then (.fault { kind := 5, va := a, detail := 0 }, s)
  else if c.kcSize < a + n then (.fault { kind := 3, va := a, detail := 0 }, s)
  else
    let t := s.translate (x.req s) va false false none
    match (match t.1 with
      | .ok xl => t.2.watchFault x xl th va n true false
      | .error f => some f) with
    | some f => (.fault f, t.2)
    | none =>
      let q := t.2.virtRead (x.req s) va n
      (match q.1 with
        | .error f => .fault f
        | .ok (bs, psn) => if psn then .fault { kind := 0x0C, va := va, detail := 0 } else .data bs, q.2)

/-- The requests of the lanes of a constant load that reach memory. -/
def constLanes (x : WordCtx) (s : State) (n : Nat) (lanes : List (Nat × Nat)) (at1 : Nat → Nat) : List GLane :=
  let c := s.scene x.scene
  (lanes.filter fun l => at1 l.2 % n == 0 && at1 l.2 + n ≤ c.kcSize).map fun l =>
    { lane := l.1, th := l.2, va := c.kconst + at1 l.2, w := n, data := [] }

/-- `LDK` (R220). -/
def execLdk (w : MWord) (s : State) : Out :=
  runWord (.ldk w) s fun x s => .done <|
    let n := memBytes w.mod.toNat
    let r := x.lanes.foldl (fun (acc : List (Nat × LaneOut) × State) l =>
      let o := constLane x acc.2 l.2 ((s.opnd l.2 w.a).toNat + w.imm.toNat) n
      (acc.1 ++ [(l.2, o.1)], o.2)) ([], s)
    x.finish r.2 r.1 (fun _ => 0xFFFF) w.d w.nw (loadWords w.mod.toNat) (fun _ _ => [])
      (sectorsOf (constLanes x s n x.lanes fun th => (s.opnd th w.a).toNat + w.imm.toNat))

/-! ## Tagged pointers (R63, R221) -/

/-- Where a tagged access of a lane goes. -/
inductive Tagged where
  | g (addr : Nat)
  | s (addr : Nat)
  | x (num off : Nat)
  | k (addr : Nat)
  | none (addr : Nat)
  deriving DecidableEq, Repr

/-- The space that a lane's pointer names, for a load, a store or an atomic (R63). -/
def taggedOf (s : State) (w : MWord) (a : Access) (th : Nat) : Tagged :=
  let p := (s.opnd64 th w.a).toNat
  let core := bitsOf p 59 56
  let addr := p % 2 ^ 56 + w.imm.toNat
  let own := (s.castOf th).bind fun i => (s.cast i).numOf (s.scene (s.thread th).scene).core
  match bitsOf p 63 60, a with
  | 0, _ => if core == 0 then .g addr else .none addr
  | 1, _ => if core == 0xF || own == some core then .s addr else .none addr
  | 2, .store _ => .x core addr
  | 3, .load _ _ => if core == 0 then .k addr else .none addr
  | _, _ => .none addr

/-- A tagged access (R221): each lane in the space of its pointer; a wait on an empty scratchpad line precedes every
effect. DESIGN CHOICE (log 27): the PROT record of a tag or a core field that is not allowed carries the pointer's address
modulo 2^57 as its VA, which R63 does not name. -/
def taggedAccess (i : Instr) (w : MWord) (s : State) (n : Nat) (a : State → Access) (data : State → Nat → List Byte)
    (ret : List Byte → List Word) (store : Bool) : Out :=
  runWord i s fun x s =>
    let acc := a s
    let lanes := actingLanes x s acc
    let tag := fun (th : Nat) => taggedOf s w acc th
    let sl := lanes.filterMap fun l => match tag l.2 with
      | .s addr => some (l.2, addr)
      | _ => none
    let gl := lanes.filterMap fun l => match tag l.2 with
      | .g addr => some (l, addr)
      | _ => none
    let c := s.scene x.scene
    let onSp : Access := match acc with
      | .load p _ => .load p (spOrder w)
      | .store _ => .store (spOrder w)
      | .rmw _ f => .rmw (spOrder w) f
    if spWaits c acc n sl then .hold (spHold c n sl)
    else match spadCycles x s (bankCycles (spWords n (spGood c n sl))) with
      | none => .hold .free
      | some s1 =>
        let wrong := lanes.filterMap fun l => match tag l.2 with
          | .none addr => some (l.2, LaneOut.fault { kind := 2, va := addr % 2 ^ 57, detail := 0 })
          | _ => none
        let g : List (Nat × LaneOut) × State × List GLane :=
          if gl.isEmpty then ([], s1, [])
          else
            let q := s1.bufRecord (x.req s1) 0
            match q.1 with
            | .error f => (gl.map fun l => (l.1.2, LaneOut.fault f), q.2, [])
            | .ok bits =>
              let base := recBase bits
              let below := gl.filterMap fun l =>
                if l.2 < base then some (l.1.2, LaneOut.fault { kind := 3, va := l.2, detail := 0 }) else none
              let ok := gl.filter fun l => base ≤ l.2
              let r := globalLanes x q.2 { bits := bits, index := 0 } n acc (ok.map Prod.fst)
                (fun th => ((gl.find? fun l => l.1.2 == th).map Prod.snd).getD base - base) (data s)
              (below ++ r.1, r.2)
        let kl := lanes.filter fun l => match tag l.2 with
          | .k _ => true
          | _ => false
        let kAt := fun (th : Nat) => match tag th with
          | .k addr => addr
          | _ => 0
        let r := spLanes x g.2.1 onSp n sl (data s)
        let xk := lanes.foldl (fun (acc : List (Nat × LaneOut) × State) l => match tag l.2 with
          | .x num off => let o := stxLane acc.2 l.2 num off (data s l.2); (acc.1 ++ [(l.2, o.1)], o.2)
          | .k addr => let o := constLane x acc.2 l.2 addr n; (acc.1 ++ [(l.2, o.1)], o.2)
          | _ => acc) ([], r.2)
        let extra := fun (th : Nat) (o : LaneOut) => match mProbe w, tag th with
          | true, .g _ => [({ thread := th, dest := .p w.pg.toNat, value := match o with
              | .unwritten => 0
              | _ => 1 } : RegWrite)]
          | _, _ => []
        .done (x.finish xk.2 (wrong ++ g.1 ++ r.1 ++ xk.1) (fun th => if gl.any fun l => l.1.2 == th then 0 else 0xFFFF) w.d (w.nw || store) ret
          extra (sectorsOf (g.2.2 ++ constLanes x s n kl kAt)))

/-- `LDT` (R221). -/
def execLdt (w : MWord) (s : State) : Out :=
  taggedAccess (.ldt w) w s (memBytes w.mod.toNat) (fun _ => .load (mProbe w) (mOrder w)) (fun _ _ => [])
    (loadWords w.mod.toNat) false

/-- `STT` (R221). -/
def execStt (w : MWord) (s : State) : Out :=
  taggedAccess (.stt w) w s (memBytes w.mod.toNat) (fun _ => .store (mOrder w)) (fun s th => storeBytes s w th) (fun _ => []) true

/-- `ATOMT` (R221, R224). -/
def execAtomt (w : MWord) (s : State) : Out :=
  taggedAccess (.atomt w) w s (atomBytes w) (fun s => .rmw (mOrder w) (atomStep s w)) (fun _ _ => []) (atomWords (atomBytes w)) false

/-! ## Matrix-fragment loads (R226) -/

/-- The supplying lane of row r of fragment f, if it is active. -/
def fragLane (x : WordCtx) (f r : Nat) : Option (Nat × Nat) := x.lanes.find? fun l => l.1 == 4 * r + f

/-- The row address that a lane supplies, and the address of its bytes. -/
def fragRow (s : State) (w : MWord) (th : Nat) : Nat := (s.opnd th w.a).toNat + w.imm.toNat

/-- The two elements that a lane receives of a fragment. -/
def fragElems (transposed : Bool) (l : Nat) (row : Nat → List Byte) : Word :=
  let i := l % 8
  let j := 2 * (l / 8)
  let el := fun (r c : Nat) => leNat (((row r).drop (2 * c)).take 2)
  if transposed then BitVec.ofNat 32 (el j i + el (j + 1) i * 2 ^ 16)
  else BitVec.ofNat 32 (el i j + el i (j + 1) * 2 ^ 16)

/-- The rows of a fragment load: fragment, row and supplying lane. -/
def fragRows (w : MWord) (x : WordCtx) : List (Nat × Nat × Nat × Nat) :=
  (List.range (fragN w)).flatMap fun f => (List.range 8).filterMap fun r => (fragLane x f r).map fun l => (f, r, l)

/-- Where a supplying lane's row stands. -/
def fragAt (s : State) (w : MWord) (th : Nat) : Nat := swz (fragRow s w th) (w.mod.toNat / 4)

/-- The fault of a supplying lane (R70, R71, R226, R372). -/
def fragFault (s : State) (c : Scene) (w : MWord) (th : Nat) : Option FaultInfo :=
  (spAddrFault c (fragRow s w th) 16).or
    (if c.spPoisoned (fragAt s w th) 16 then some { kind := 0x0C, va := fragRow s w th, detail := 0 }
     else if c.spBad (fragAt s w th) 16 then some { kind := 0x0C, va := fragRow s w th, detail := 0x0606 } else none)

/-- The rows that can be read, each as its supplying thread sees it. -/
def readRows (x : WordCtx) (s : State) (w : MWord) (rows : List (Nat × Nat × Nat × Nat)) :
    List ((Nat × Nat) × List Byte) × State :=
  rows.foldl (fun acc y =>
    let c := acc.2.scene x.scene
    let a := fragAt s w y.2.2.2
    let places := (List.range 16).map fun k => c.spPhys (a + k)
    let v := acc.2.seeScene (acc.2.threadReader y.2.2.2) x.scene places
    (acc.1 ++ [((y.1, y.2.1), v.1.spRead a 16)],
      (v.2.meetSignals [y.2.2.2] (.sp x.scene) (places.map (· / 128))).plainRead y.2.2.2 (.sp x.scene) (c.spPhys a) 16))
    ([], s)

/-- A fragment load (R226, R379): a fault in a lane, or an address register in error (R372), stops it, and the lanes that posted no record become companions of
the lowest faulting lane. A helper lane whose row would fault raises nothing: it supplies and receives zeros (R41). -/
def fragLoad (i : Instr) (w : MWord) (s : State) (transposed : Bool) : Out :=
  runWord i s fun x s =>
    let c := s.scene x.scene
    let rows := fragRows w x
    let inside := rows.filter fun y => (spAddrFault c (fragRow s w y.2.2.2) 16).isNone
    let empty := inside.flatMap fun y => (c.spLines (fragAt s w y.2.2.2) 16).filter c.empty.contains
    let words := inside.flatMap fun y => (List.range 4).map fun k => fragAt s w y.2.2.2 / 4 + k
    if !empty.isEmpty then .hold (.lines empty)
    else match spadCycles x s (bankCycles words) with
      | none => .hold .free
      | some s =>
        let fails := fun (l : Nat × Nat) => if rows.any fun y => y.2.2 == l then fragFault s c w l.2 else none
        let bad := (x.lanes.filter fun l => !(s.thread l.2).helper).filterMap fun l =>
          (fails l).map fun f => ({ thread := l.2, info := f, buf := 0xFFFF } : LaneFault)
        let failing := x.hurt ++ x.lanes.filter fun l => bad.any fun b => b.thread == l.2
        match (List.range 32).findSome? fun k => failing.find? fun l => l.1 == k with
        | some lead =>
          let s := x.postHurt (x.faults s bad) 32
          let rest := x.lanes.filter fun l => !(bad.any fun b => b.thread == l.2)
          .done (x.startMem (rest.foldl (fun (s : State) l => s.takeCompanion l.2 lead.2 x.addr (some x.pos)) s) [] []
            [] (0, 0))
        | none =>
          let q := readRows x s w (rows.filter fun y => (fails y.2.2).isNone)
          let row := fun (f r : Nat) => ((q.1.find? fun y => y.1 == (f, r)).map Prod.snd).getD (List.replicate 16 0)
          let ws := x.lanes.map fun l => (l.2, (List.range (fragN w)).map fun f =>
            if (fails l).isSome then 0 else fragElems transposed l.1 (row f))
          .done (x.startMem q.2 x.lanes [] (allWrites w.d w.nw ws) (0, 0))

/-- `LDSM` (R226). -/
def execLdsm (w : MWord) (s : State) : Out := fragLoad (.ldsm w) w s false

/-- `LDSMT` (R226). -/
def execLdsmt (w : MWord) (s : State) : Out := fragLoad (.ldsmt w) w s true

/-! ## Fences (R227, R228) -/

/-- The effect of a fence of a scope on the core of the threads that execute it (R84). Every earlier access has been
performed when it issues, since an access is performed at its issue. -/
def State.fence (s : State) (core scope : Nat) : State :=
  let s := s.acquireL1 core
  if 2 ≤ scope then s.dropRecords core else s

/-- The fence of each active lane's thread (R84, R100). -/
def State.fenceLanes (s : State) (x : WordCtx) (scope : Nat) : State :=
  x.lanes.foldl (fun (s : State) l => s.fenceThread l.2 scope) (s.fence x.core scope)

/-- `FENCE` (R227). -/
def execFence (w : MWord) (s : State) : Out :=
  runWord (.fence w) s fun x s => .done <|
    if x.lanes.isEmpty then s
    else x.startMem (s.fenceLanes x w.mod.toNat) x.lanes [] [] (0, 0)

/-- `FENCEX` (R228): the before-mask in IMM12, the after-mask in A. -/
def execFencex (w : MWord) (s : State) : Out :=
  runWord (.fencex w) s fun x s => .done <|
    if x.lanes.isEmpty then s
    else
      let before := bitOf w.imm.toNat 0
      let after := bitOf w.a.toNat 0
      let s := if before then s.flushIp x.core (x.ctx s) else s
      let s := if after then s.dropIp x.core (x.ctx s) else s
      let s := if before && after then s.fenceLanes x w.mod.toNat else s
      let s := x.lanes.foldl (fun (s : State) l => s.fenceOlds l.2 w.imm.toNat w.a.toNat w.mod.toNat) s
      x.startMem s x.lanes [] [] (0, 0)

/-! ## Full/empty control (R237) -/

/-- The first of the lines that a lane names, and their number. -/
def feLines (s : State) (w : MWord) (th : Nat) : Nat × Nat :=
  (((s.opnd th w.a).toNat + w.imm.toNat) / 128 * 128, w.mod.toNat + 1)

/-- A lane's lines lie in the allocation or the front bank. -/
def feFault (s : State) (x : WordCtx) (w : MWord) (th : Nat) : Option FaultInfo :=
  let f := feLines s w th
  if (s.scene x.scene).spIn f.1 (128 * f.2) then none
  else some { kind := 4, va := (s.opnd th w.a).toNat + w.imm.toNat, detail := 0 }

/-- `FESET` (R237). -/
def execFeset (w : MWord) (s : State) : Out :=
  runWord (.feset w) s fun x s => .done <|
    let outs := x.lanes.map fun l => (l.2, match feFault s x w l.2 with
      | some f => LaneOut.fault f
      | none => .data [])
    let ok := x.lanes.filter fun l => (feFault s x w l.2).isNone
    let lines := (ok.flatMap fun l =>
      let f := feLines s w l.2
      (s.scene x.scene).spLines f.1 (128 * f.2)).eraseDups
    let s := (s.modScene x.scene fun c => lines.foldl (fun c y => c.emptyLine y) c).forgetSignals (.sp x.scene) lines
    x.finish s outs (fun _ => 0xFFFF) w.d true (fun _ => []) (fun _ _ => []) (0, 0)

/-- `FEQRY` (R237). -/
def execFeqry (w : MWord) (s : State) : Out :=
  runWord (.feqry w) s fun x s => .done <|
    let c := s.scene x.scene
    let outs := x.lanes.map fun l => (l.2, match feFault s x w l.2 with
      | some f => LaneOut.fault f
      | none =>
        let f := feLines s w l.2
        .data (leBytes 4 (((c.spLines f.1 (128 * f.2)).zipIdx).foldl (fun acc y =>
          acc + b2n (!c.empty.contains y.1) * 2 ^ y.2 + b2n (c.poison.contains y.1) * 2 ^ (16 + y.2)) 0)))
    x.finish s outs (fun _ => 0xFFFF) w.d w.nw (fun bs => wordsOf 1 (leNat bs)) (fun _ _ => []) (0, 0)

/-! ## Queries, requests, prefetch and arming (R238 to R241) -/

/-- A field of a record (R238). -/
def bufqValue (ctx r mod : Nat) : Nat :=
  match mod with
  | 0 => recExtent r % 2 ^ 32
  | 1 => recExtent r / 2 ^ 32
  | 2 => recEsize r
  | 3 => recStride r
  | 4 => packFields [(3, recRights r), (2, recIcls r), (2, recSwz r), (1, b2n (recBound r))]
  | 5 => recVersion r
  | _ => b2n (ctx == supCtx || recOwner r == ctx)

/-- `BUFQ` (R238): an index out of range or an invalid record gives 0. -/
def execBufq (w : MWord) (s : State) : Out :=
  runWord (.bufq w) s fun x s => .done <|
    if x.lanes.isEmpty then s
    else
      let idx := mIndex s x w
      let give := fun (s : State) (v : Nat) =>
        x.startMem s x.lanes [] (allWrites w.d w.nw (x.lanes.map fun l => (l.2, wordsOf 1 v))) (0, 0)
      if s.bufCntOf (x.req s) ≤ idx then give s 0
      else
        let q := s.readRecord (x.req s) idx
        match q.1 with
        | .error f => x.finish q.2 (x.lanes.map fun l => (l.2, LaneOut.fault f)) (fun _ => idx % 2 ^ 16) w.d w.nw
            (fun _ => wordsOf 1 0) (fun _ _ => []) (0, 0)
        | .ok r =>
          give q.2 (if recBad r || !q.2.recAgrees (x.req s) idx r then 0 else bufqValue (x.ctx s) r w.mod.toNat)

/-- The addresses that some lanes form through a record, without the lanes that would fault there (R239, R240). -/
def formedLanes (x : WordCtx) (s : State) (w : MWord) : List (GLane × BufRef) × State :=
  let idx := mIndex s x w
  let q := s.bufRecord (x.req s) idx
  match q.1 with
  | .error _ => ([], q.2)
  | .ok bits =>
    (x.lanes.filterMap fun l => match formAddr bits (mOffset s w bits l.2) 1 with
      | .ok va => some ({ lane := l.1, th := l.2, va := va, w := 1, data := [] }, { bits := bits, index := idx })
      | .error _ => none, q.2)

/-- `PGREQ` (R239): one PAGE record for each distinct page that is not present and not asked for already. A request stays
open until the page is present. -/
def execPgreq (w : MWord) (s : State) : Out :=
  runWord (.pgreq w) s fun x s => .done <|
    if x.lanes.isEmpty then s
    else
      let f := formedLanes x s w
      let r := x.req s
      let present := fun (s : State) (page : Nat) => match s.walk r (page * 65536) with
        | .error (1, _) => false
        | _ => true
      let s := { f.2 with pageReqs := f.2.pageReqs.filter fun p => p.ctx != r.ctx || !present f.2 p.page }
      let s := f.1.foldl (fun (s : State) g =>
        let page := g.1.va / 65536
        match s.walk r g.1.va with
        | .error (1, level) =>
          if s.pageReqs.any fun p => p.ctx == r.ctx && p.page == page then s
          else
            let rec1 := s.threadRec g.1.th 1 false x.addr (g.2.index % 2 ^ 16) g.1.va (level + 2 ^ 14)
            ({ s with pageReqs := s.pageReqs ++ [{ ctx := r.ctx, page := page }] } : State).post
              (s.sceneQueue x.scene) (x.ctx s) x.core (some g.1.th) rec1
        | _ => s) s
      x.startMem s x.lanes [] [] (0, 0)

/-- Prefetch one line (R240). -/
def State.prefetch (s : State) (r : Req) (b : BufRef) (va : Nat) (l1 : Bool) (why : Reader) : State :=
  let q := s.lineCheck r b 0 va
  match q.1 with
  | .error _ => q.2
  | .ok xl =>
    let s := q.2
    if xl.pkg != s.pkgId || (xl.cm == 2 && !s.lineWr (lineOf xl.pa)) then s
    else match s.boundOf r b with
      | some i =>
        let bd := s.binding i
        let offs := ((List.range 128).map fun j => va / 128 * 128 + j).filterMap fun a =>
          if recBase b.bits ≤ a && a < recBase b.bits + recExtent b.bits then some (a - recBase b.bits) else none
        let parts := ((offs.map (· / bd.sizes.1)).eraseDups).map fun k =>
          let mine := offs.filter fun o => o / bd.sizes.1 == k
          (mine.getD 0 0, mine.length)
        if bd.stateful || parts.any fun p => (s.boundReadFault i (p.1 / bd.sizes.1)).isSome then s
        else if l1 && xl.cm == 1 then (s.boundLoad i r.core r.ctx (va / 128) xl.cm true parts why).2.2
        else (s.boundRequests i (parts.map fun p => p.1 / bd.sizes.1) why).2
      | none =>
        if l1 && xl.cm != 0 && !s.linePsn (lineOf xl.pa) then (s.threadLine r xl true).2.2
        else s.touchL2 (.phys (lineOf xl.pa)) false xl.cmpr

/-- `PRFG` (R240). -/
def execPrfg (w : MWord) (s : State) : Out :=
  runWord (.prfg w) s fun x s => .done <|
    if x.lanes.isEmpty then s
    else
      let f := formedLanes x s w
      let r := x.req s
      let s := (byLine (f.1.map Prod.fst)).foldl (fun (s : State) g => match g, f.1 with
        | l :: _, y :: _ => s.prefetch r y.2 l.va (w.mod.toNat == 1) (s.takeReader (x.lanes.map Prod.snd))
        | _, _ => s) f.2
      x.startMem s x.lanes [] [] (sectorsOf (f.1.map Prod.fst))

/-- Return a line of a WO frame to the unwritten state (R86). No copy of its old data stays in an L1. -/
def State.armLine (s : State) (line : Nat) : State :=
  ({ s.setLineBit line 9 false with l1 := s.l1.filter fun l => !(l.pkg == s.pkgId && l.line == line) } : State).forgetSignals
    .mem [line]

/-- One lane of `WOARM` (R241): its lines, or its fault. -/
def armLane (s : State) (r : Req) (b : BufRef) (off n : Nat) : Except FaultInfo (List Nat) × State :=
  let va := recBase b.bits + off
  if va % 128 != 0 then (.error { kind := 5, va := va, detail := 0 }, s)
  else if recExtent b.bits < off + 128 * n then (.error { kind := 3, va := va, detail := 0 }, s)
  else
    (List.range n).foldl (fun acc i => match acc.1 with
      | .error f => (.error f, acc.2)
      | .ok ls =>
        let q := acc.2.lineCheck r b 1 (va + 128 * i)
        match q.1 with
        | .error f => (.error { kind := f.1, va := va, detail := f.2 }, q.2)
        | .ok xl =>
          if xl.cm != 2 then (.error { kind := 2, va := va, detail := 0x0001 }, q.2)
          else (.ok (if xl.pkg == q.2.pkgId then ls ++ [lineOf xl.pa] else ls), q.2)) (.ok [], s)

/-- `WOARM` (R241): with `.rel` the arming is a release of the thread of its lane; a helper lane arms nothing (R41). -/
def execWoarm (w : MWord) (s : State) : Out :=
  runWord (.woarm w) s fun x s => .done <|
    let lanes := actingLanes x s (.store default)
    if lanes.isEmpty then (if x.lanes.isEmpty then s else x.startMem s x.lanes [] [] (0, 0))
    else
      let idx := mIndex s x w
      let r := x.req s
      let q := s.bufRecord r idx
      match q.1 with
      | .error f => x.finish q.2 (lanes.map fun l => (l.2, LaneOut.fault f)) (fun _ => idx % 2 ^ 16) w.d true (fun _ => [])
          (fun _ _ => []) (0, 0)
      | .ok bits =>
        let res := lanes.foldl (fun (acc : List (Nat × LaneOut) × List (Nat × Nat) × State) l =>
          let o := armLane acc.2.2 r { bits := bits, index := idx } (mOffset s w bits l.2) (w.mod.toNat + 1)
          match o.1 with
          | .ok ls => (acc.1 ++ [(l.2, .data [])], acc.2.1 ++ ls.map fun y => (l.2, y), o.2)
          | .error f => (acc.1 ++ [(l.2, .fault f)], acc.2.1, o.2)) ([], [], q.2)
        let s := ((res.2.1.map Prod.snd).eraseDups).foldl State.armLine res.2.2
        let s := if (mOrder w).rel then
            res.2.1.foldl (fun (s : State) y => s.releaseAt (.thread y.1) (mOrder w).scope .mem (128 * y.2) 128) s
          else s
        x.finish s res.1 (fun _ => idx % 2 ^ 16) w.d true (fun _ => []) (fun _ _ => []) (0, 0)

end Sys2Proof.Machine
end

