-- ==== Sys2Proof/Machine/Copy.lean ====
section
/-! DEFINITION. The copies `CPY`, `CPYB` and `CPYM`, line by line, and `SLOTRET` (R229 to R236). -/

namespace Sys2Proof.Machine

/-! ## The bytes that a copy moves -/

/-- One byte of a copy: its scratchpad or window address, and its global address, none where the element lies outside
the buffer (R229). -/
structure CopyByte where
  sa  : Nat
  gva : Option Nat
  deriving DecidableEq, Repr, Inhabited

/-- One element of a copy; `faulty` marks one whose offset overflows (R234). -/
structure CopyElem where
  sa   : Nat
  gva  : Option Nat
  faulty : Bool
  deriving DecidableEq, Repr, Inhabited

/-- Fields of a tile descriptor (R232). -/
def tdBuf (d : Nat) : Nat := bitsOf d 15 0
def tdDir (d : Nat) : Bool := bitOf d 16
def tdDims (d : Nat) : Nat := bitsOf d 18 17
def tdSpa (d : Nat) : Nat := bitsOf d 63 32
def tdX0 (d : Nat) : Int := sextN (bitsOf d 95 64) 32
def tdY0 (d : Nat) : Int := sextN (bitsOf d 127 96) 32
def tdZ0 (d : Nat) : Int := sextN (bitsOf d 159 128) 32
def tdNx (d : Nat) : Nat := bitsOf d 175 160
def tdNy (d : Nat) : Nat := bitsOf d 191 176
def tdNz (d : Nat) : Nat := bitsOf d 207 192
def tdPitch (d : Nat) : Nat := bitsOf d 223 208
def tdPlane (d : Nat) : Nat := bitsOf d 255 224

/-- The descriptor is invalid for a record (R232). -/
def tdBad (d r : Nat) (multicast : Bool) : Bool :=
  tdDims d == 3 || bitsOf d 31 19 != 0 || tdNx d == 0 || tdNy d == 0 || tdNz d == 0 || (multicast && tdDir d) ||
    (tdDims d == 0 && (tdY0 d != 0 || tdNy d != 1)) || (tdDims d < 2 && (tdZ0 d != 0 || tdNz d != 1)) ||
    (tdPitch d != 0 && decide (tdPitch d * 16 < tdNx d * recEsize r)) || (tdDims d != 0 && recStride r == 0)

/-- The scratchpad row pitch (R233). -/
def tdPitchBytes (d r : Nat) : Nat :=
  if tdPitch d == 0 then (tdNx d * recEsize r + 15) / 16 * 16 else tdPitch d * 16

/-- The scratchpad extent (R233). -/
def tdExtent (d r : Nat) : Nat := (tdNz d * tdNy d - 1) * tdPitchBytes d r + tdNx d * recEsize r

/-- A 64-bit signed step: none on overflow. -/
def fit64 (x : Int) : Option Int := if -(2 ^ 63) ≤ x && x < 2 ^ 63 then some x else none

/-- The global offset of an element, with every step checked (R233). -/
def tdOffset (d r : Nat) (x y z : Int) : Option Int :=
  (fit64 (z * tdPlane d)).bind fun zp => (fit64 (zp * recStride r)).bind fun a =>
    (fit64 (y * recStride r)).bind fun b => (fit64 (x * recEsize r)).bind fun c =>
      (fit64 (a + b)).bind fun ab => fit64 (ab + c)

/-- Element (i, j, k) of a tile (R233). -/
def tdElem (d r i j k : Nat) : CopyElem :=
  let x := tdX0 d + i
  let y := tdY0 d + j
  let z := tdZ0 d + k
  let e : Int := recEsize r
  let sa := tdSpa d + (k * tdNy d + j) * tdPitchBytes d r + i * recEsize r
  match tdOffset d r x y (if tdDims d == 2 then z else 0) with
  | none => { sa := sa, gva := none, faulty := true }
  | some off =>
    let inside := decide (0 ≤ x) && decide (0 ≤ y) && decide (0 ≤ z) && decide (off + e ≤ (recExtent r : Int)) &&
      (tdDims d == 0 || decide ((x + 1) * e ≤ (recStride r : Int)))
    { sa := sa, gva := if inside then some (recBase r + off.toNat) else none, faulty := false }

/-- The elements of a tile in the copy's order. -/
def tdElems (d r : Nat) : List CopyElem :=
  (List.range (tdNz d)).flatMap fun k => (List.range (tdNy d)).flatMap fun j => (List.range (tdNx d)).map fun i =>
    tdElem d r i j k

/-! ## A copy as an operation

Captured operands: the rows issued, the record, its index, whether it goes to memory, then for `CPY` the width and the
scratchpad address and offset of each lane, and for a bulk copy the descriptor and, for `CPYM`, the cast, how many cast core
numbers receive, those numbers, and the scenes whose window was found too small. -/

/-- The operation is a `CPY`, and is a multicast. -/
def Op.isCpy (o : Op) : Bool := o.instr.opcode == 0x8A
def Op.isCpym (o : Op) : Bool := o.instr.opcode == 0x8B

def Op.isBulk (o : Op) : Bool := o.instr.opcode == 0x8C

/-- `CPY`, `CPYM` or `CPYB`. -/
def Op.isCopy (o : Op) : Bool := 0x8A ≤ o.instr.opcode && o.instr.opcode ≤ 0x8C

def Op.copyRec (o : Op) : Nat := o.args.getD 1 0
def Op.copyBuf (o : Op) : BufRef := { bits := o.args.getD 1 0, index := o.args.getD 2 0 }
def Op.copyOut (o : Op) : Bool := o.args.getD 3 0 == 1

/-- Bytes of an element of a copy. -/
def Op.copyWidth (o : Op) : Nat := if o.isCpy then o.args.getD 4 0 else recEsize o.copyRec

/-- Pairs of a list. -/
def pairsOf : List Nat → List (Nat × Nat)
  | a :: b :: rest => (a, b) :: pairsOf rest
  | _ => []

/-- The elements of a copy in its order. -/
def Op.copyElems (o : Op) : List CopyElem :=
  if o.isCpy then
    (pairsOf (o.args.drop 5)).map fun p =>
      { sa := p.1, faulty := false
        gva := if p.2 + o.copyWidth ≤ recExtent o.copyRec then some (recBase o.copyRec + p.2) else none }
  else tdElems (o.args.getD 4 0) o.copyRec

/-- The elements before the first that overflows (R234). -/
def Op.copyGood (o : Op) : List CopyElem := o.copyElems.takeWhile fun e => !e.faulty

/-- The bytes of some elements: the scratchpad address of each is swizzled (R69). -/
def Op.copyBytes (o : Op) (es : List CopyElem) : List CopyByte :=
  es.flatMap fun e => (List.range o.copyWidth).map fun b =>
    { sa := swz (e.sa + b) (recSwz o.copyRec), gva := e.gva.map (· + b) }

/-- The line job of a byte: 1 and more for its global line, 0 for one that is filled with zero. -/
def CopyByte.job (b : CopyByte) : Nat := b.gva.elim 0 fun g => g / 128 + 1

/-- The jobs of a copy: one for each global line, in ascending address (R231, R309), after the zeros that it fills. A copy
to memory drops what lies outside (R229). -/
def Op.copyJobs (o : Op) : List Nat :=
  let js := ((o.copyBytes o.copyGood).map CopyByte.job).eraseDups
  (if o.copyOut then js.filter (· != 0) else js).foldl (fun l j => insertNat j l) []

/-- The bytes of a job into scratchpad. Where lanes of a `CPY` name one scratchpad byte, the highest of them writes it
(R217, R231). -/
def Op.jobBytes (o : Op) (job : Nat) : List CopyByte :=
  let all := o.copyBytes o.copyGood
  let last := fun (b : CopyByte) (n : Nat) => !(all.drop (n + 1)).any fun c => c.sa == b.sa
  (all.zipIdx.filter fun b => b.1.job == job && (!o.isCpy || last b.1 b.2)).map Prod.fst

/-- The scratchpad lines of some bytes. -/
def spLinesOf (bs : List CopyByte) : List Nat := (bs.map fun b => b.sa / 128).eraseDups

/-- The scratchpad lines that are not full once job number `n` and those before it are done: those with bytes of later jobs
or of refused ones, or with elements from the first overflow on (R71, R234). -/
def Op.copyOpen (o : Op) (n : Nat) : List Nat :=
  let later := o.copyJobs.drop (n + 1)
  spLinesOf ((o.copyBytes o.copyGood).filter (fun b => later.contains b.job || o.lost.contains b.job) ++
    o.copyBytes (o.copyElems.drop o.copyGood.length))

/-- Where an address of a copy stands in the store of a scene that receives it. -/
def Op.copyPlace (o : Op) (c : Scene) (a : Nat) : Nat := if o.isCpym then c.backPhys a else c.spPhys a

/-- The cast of a multicast, the numbers that receive it, and the scenes whose window was found too small. -/
def Op.copyCast (o : Op) : Nat := o.args.getD 5 0
def Op.copyNums (o : Op) : List Nat := (o.args.drop 7).take (o.args.getD 6 0)
def Op.copySmall (o : Op) : List Nat := o.args.drop (7 + o.args.getD 6 0)

/-- The scenes that a delivery reaches (R48, R235): those on the cores that hold the numbers now, and a window too small for
the whole extent receives nothing and has SPBOUND posted, once. -/
def State.copyReach (s : State) (i : Nat) : List Nat × State :=
  let o := s.op i
  if !o.isCpym then (if (s.scene o.scene).st == .ended then [] else [o.scene], s)
  else
    let d := o.args.getD 4 0
    let reach := (o.copyNums.flatMap fun n => ((s.numScenes o.copyCast n).getD []).map fun sc => (n, sc)).filter
      fun p => (s.scene p.2).st != .ended
    let fits := fun (p : Nat × Nat) => decide (tdSpa d + tdExtent d o.copyRec ≤ (s.scene p.2).win)
    ((reach.filter fits).map Prod.snd,
      (reach.filter fun p => !fits p && !o.copySmall.contains p.2).foldl (fun (s : State) p =>
        (s.opRecord o 4 0xFFFF (tdSpa d) p.1).modOp i fun o => { o with args := o.args ++ [p.2] }) s)

/-- Read bytes of one global line for a copy. A line that no plane reaches is lost (R424): its record is posted, and what is
written from it is poisoned, as from an uncorrectable line (R371). -/
def State.copyFetch (s : State) (i : Nat) (gs : List Nat) : EngRes × Nat × State :=
  let o := s.op i
  let lo := gs.foldl min (gs.getD 0 0)
  let hi := gs.foldl max 0
  let q := s.engineRead (s.opReq i 1) o.copyBuf lo (hi + 1 - lo)
  match q.1 with
  | .ok bs p => (.ok bs p, lo, q.2.opWatch o o.copyBuf gs false)
  | .post f =>
    if f.kind == 0x0C then
      (.ok (List.replicate (hi + 1 - lo) 0) true, lo, q.2.opRecord o f.kind o.copyBuf.index f.va f.detail)
    else (.post f, lo, q.2)
  | e => (e, lo, q.2)

/-- A scratchpad line becomes full: whether the copy writes all of it, and whether from a poisoned source (R229). -/
def Op.copyLine (o : Op) (line : Nat) : Bool × Bool :=
  let mine := (o.copyBytes o.copyGood).filter fun b => b.sa / 128 == line
  ((mine.map (·.sa)).eraseDups.length == 128, mine.any fun b => o.tainted.contains b.job)

/-- Store bytes of a copy in the scenes that receive it, and make lines of theirs full (R71, R229). A part of a word in error
is not written, and DATA is posted (R372). -/
def State.copyPut (s : State) (i : Nat) (cells : List (Nat × Byte)) (full : List Nat) : State :=
  let q := s.copyReach i
  let o := q.2.op i
  q.1.foldl (fun (s : State) sc =>
    let c := s.scene sc
    let at1 := cells.map fun x => (o.copyPlace c x.1, x.2)
    let hurt := c.bad.filter fun w =>
      let n := ((at1.filter fun x => x.1 / 4 == w).map Prod.fst).eraseDups.length
      0 < n && n < 4
    let ok := if hurt.isEmpty then at1 else at1.filter fun x => !hurt.contains (x.1 / 4)
    let s := (s.keepFilled sc (s.opReader i 1) i (ok.map Prod.fst)).modScene sc fun c =>
      full.foldl (fun (c : Scene) line =>
        c.fillLine (o.copyPlace c (128 * line) / 128) (o.copyLine line).1 (o.copyLine line).2) (c.storePhys ok)
    if hurt.isEmpty then s else s.opRecord o 0x0C 0xFFFF 0 0x0606) q.2

/-- What a job of a copy writes. A `CPYM` delivers at its end: a dump of a receiving scene holds all of it or none (R448). -/
def State.copyDeliver (s : State) (i : Nat) (cells : List (Nat × Byte)) (full : List Nat) : State :=
  if (s.op i).isCpym then s.modOp i fun o => { o with staged := o.staged ++ cells, filled := o.filled ++ full }
  else s.copyPut i cells full

/-- The delivery of a `CPYM`: what its jobs have written so far. -/
def State.copyFlush (s : State) (i : Nat) : State :=
  let o := s.op i
  if o.staged.isEmpty && o.filled.isEmpty then s
  else (s.copyPut i o.staged o.filled).modOp i fun o => { o with staged := [], filled := [] }

/-- Make scratchpad lines of a copy full and poisoned, as they are (R230, R234). -/
def State.copyPoison (s : State) (i : Nat) (lines : List Nat) : State :=
  let q := s.copyReach i
  q.1.foldl (fun (s : State) sc => lines.foldl (fun (s : State) line =>
    s.modScene sc fun c => c.fillLine ((q.2.op i).copyPlace c (128 * line) / 128) false true) s) q.2

/-- A fault refuses the job of a line: its record, and the copy goes on. -/
def State.copyLost (s : State) (i job : Nat) (f : FaultInfo) : State :=
  (s.opRecord (s.op i) f.kind (s.op i).copyBuf.index f.va f.detail).modOp i fun o =>
    { o with progress := o.progress + 1, lost := o.lost ++ [job] }

/-- A job whose scratchpad lines it writes alone, and whole. -/
def Op.copyWhole (o : Op) (job : Nat) : Bool :=
  (spLinesOf (o.jobBytes job)).all fun l => (((o.jobBytes job).filter fun b => b.sa / 128 == l).map (·.sa)).eraseDups.length == 128

/-- Scratchpad lines of a copy become empty. -/
def State.copyEmpty (s : State) (i : Nat) (lines : List Nat) : State :=
  let o := s.op i
  s.modScene o.scene fun c =>
    { c with empty := lines.foldl (fun l x => insertNat (o.copyPlace c (128 * x) / 128) l) c.empty }

/-- A job into scratchpad: the bytes of one global line, or the zeros; the lines of which it writes the last become full
(R71, R229). None when it must wait. DEDUCED (log 63): to a copy of the supervisor an unwritten WO line does not mean a wait; it
moves with its state (R376), as an empty line of the scratchpad. -/
def State.copyIn (s : State) (i job : Nat) : Option State :=
  let o := s.op i
  let bs := (o.copyBytes o.copyGood).filter fun b => b.job == job
  let gs := (bs.filterMap (·.gva)).eraseDups
  let q := if job == 0 then (.ok [] false, 0, s) else s.copyFetch i gs
  match q.1 with
  | .ok got psn =>
    let cells := (o.jobBytes job).map fun b => (b.sa, b.gva.elim (0 : Byte) fun g => got.getD (g - q.2.1) 0)
    let notYet := o.copyOpen o.progress
    let s := q.2.2.modOp i fun o => { o with tainted := if psn then o.tainted ++ [job] else o.tainted }
    some ((s.copyDeliver i cells ((spLinesOf bs).filter fun l => !notYet.contains l)).modOp i fun o =>
      { o with progress := o.progress + 1 })
  | .held f => some (q.2.2.holdOp i o.copyBuf.index f)
  | .post f => some (q.2.2.copyLost i job f)
  | .wait w =>
    if o.ctx == supCtx && o.isBulk && o.copyWhole job then
      some ((q.2.2.copyEmpty i (spLinesOf bs)).modOp i fun o => { o with progress := o.progress + 1 })
    else some (q.2.2.modOp i fun o => { o with wo := some w })

/-- An empty line of the scratchpad moves to a WO page as an unwritten line (R376): the copy is the supervisor's, and no other
operation of the scene will fill the line. -/
def State.copyUnwritten (s : State) (i : Nat) (bs : List CopyByte) : Bool :=
  let o := s.op i
  o.ctx == supCtx && o.isBulk && bs.length == 128 &&
    (indices s.ops fun p => !p.done && p.scene == o.scene && p.byEngine) == [i] &&
    (match (s.engineXlat (s.opReq i 1) o.copyBuf ((bs.headD default).gva.getD 0) true).1 with
      | .ok xl => xl.cm == 2
      | .error _ => false)

/-- A job into memory: one line of it. It waits on empty source lines (R71). -/
def State.copyOutLine (s : State) (i job : Nat) : Option State :=
  let o := s.op i
  let c := s.scene o.scene
  let bs := (o.copyBytes o.copyGood).filter fun b => b.job == job
  if bs.any fun b => c.empty.contains (c.spPhys b.sa / 128) then
    if s.copyUnwritten i bs then some (s.modOp i fun o => { o with progress := o.progress + 1 }) else none
  else
    let psn := bs.any fun b => c.poison.contains (c.spPhys b.sa / 128) || c.bad.contains (c.spPhys b.sa / 4)
    let v := s.seeScene (s.opReader i 1) o.scene (bs.map fun b => c.spPhys b.sa)
    let cells := bs.map fun b => (b.gva.getD 0, v.1.sp.read (c.spPhys b.sa))
    let q := v.2.engineWrite (s.opReq i 1) o.copyBuf cells psn
    match q.1 with
    | .ok _ _ => some ((q.2.opWatch o o.copyBuf (cells.map Prod.fst) true).modOp i fun o => { o with progress := o.progress + 1 })
    | .held f => some (q.2.holdOp i o.copyBuf.index f)
    | .post f => some (q.2.copyLost i job f)
    | .wait _ => none

/-- Poison a destination line of a copy in memory: of a binding, its requester lines, in the L2 or through the write formula
(R234, R371). -/
def State.poisonLine (s : State) (r : Req) (b : BufRef) (va : Nat) : State :=
  let q := s.engineXlat r b va true
  match q.1 with
  | .error _ => q.2
  | .ok xl => match q.2.boundOf r b with
    | none => if xl.pkg == q.2.pkgId then q.2.setLineBit (lineOf xl.pa) 10 true else q.2
    | some i =>
      let bd := q.2.binding i
      let rb := bd.sizes.1
      let offs := ((List.range 128).map fun k => va / 128 * 128 + k).filterMap fun a =>
        if bd.base ≤ a && a - bd.base < bd.extent then some (a - bd.base) else none
      ((offs.map (· / rb)).eraseDups).foldl (fun (s : State) k =>
        let f := s.boundBeat i k r.by
        match f.1 with
        | .ok beat => f.2.boundPut i k ((offs.filter fun o => o / rb == k).map fun o => (o, beat.1.getD (o - k * rb) 0)) beat
            true xl.cm r.by
        | .error _ => f.2) q.2

/-- The line requests and the 32-byte sectors of a copy in memory (R442). -/
def Op.copySize (o : Op) : Nat × Nat :=
  ((o.copyJobs.filter (· != 0)).length, (((o.copyBytes o.copyGood).filterMap (·.gva)).map (· / 32)).eraseDups.length)

/-- The scratchpad lines of a copy that it has not filled: those of the jobs that are left or were refused, and of the
elements from the first overflow on. -/
def Op.copyUnfilled (o : Op) : List Nat :=
  let left := o.copyJobs.drop o.progress
  spLinesOf ((o.copyBytes o.copyGood).filter (fun b => left.contains b.job || o.lost.contains b.job) ++
    o.copyBytes (o.copyElems.drop o.copyGood.length))

/-- The end of a copy that met an overflow (R234). -/
def State.copyOverflow (s : State) (i : Nat) : State :=
  let o := s.op i
  let all := o.copyElems
  let n := o.copyGood.length
  match all[n]? with
  | none => s
  | some _ =>
    let s : State :=
      if o.copyOut then
        (((o.copyBytes (all.drop n)).filterMap (·.gva)).map (· / 128)).eraseDups.foldl (fun (s : State) line =>
          s.poisonLine (s.opReq i 1) o.copyBuf (128 * line)) s
      else s.copyPoison i o.copyUnfilled
    s.opRecord o 0x0F o.copyBuf.index (recBase o.copyRec) (n % 2 ^ 32)

/-- The copy is issued in full, is not held and does not wait, and its first job not yet done is given. -/
def State.copyNext (s : State) (i : Nat) : Option Nat :=
  let o := s.op i
  let rows := if o.isCpy then 0 else tdNz (o.args.getD 4 0) * tdNy (o.args.getD 4 0)
  if o.done || o.held.isSome || o.wo.isSome || o.args.getD 0 0 < rows then none else o.copyJobs[o.progress]?

/-- One line of a copy. -/
def State.copyStep (s : State) (i : Nat) : Option State :=
  (s.copyNext i).bind fun job => if (s.op i).copyOut then s.copyOutLine i job else s.copyIn i job

/-- Lines of a copy while it can go on. -/
def State.copyRun (s : State) (i : Nat) : Nat → State
  | 0 => s
  | fuel + 1 => match s.copyStep i with
    | some s => s.copyRun i fuel
    | none => s

/-- Every line of a copy is done. -/
def State.copyDone (s : State) (i : Nat) : Bool :=
  let o := s.op i
  let rows := if o.isCpy then 0 else tdNz (o.args.getD 4 0) * tdNy (o.args.getD 4 0)
  rows ≤ o.args.getD 0 0 && o.copyJobs.length ≤ o.progress

/-- The completion of a copy: its remaining lines, and its end when nothing holds it. -/
def State.copyComplete (s : State) (i : Nat) : State :=
  let s := s.copyRun i ((s.op i).copyJobs.length + 1)
  if s.copyDone i && (s.op i).held.isNone && (s.op i).wo.isNone then ((s.copyFlush i).copyOverflow i).completeOp i else s

/-- A copy is abandoned: what it had not filled becomes full and poisoned, what it had not written stays, and its cue
flag falls (R230). -/
def State.copyAbandon (s : State) (i : Nat) : State :=
  let o := s.op i
  (if o.copyOut then s else (s.copyFlush i).copyPoison i o.copyUnfilled).completeOp i

/-! ## Issue -/

/-- A fault of a whole copy, found before any effect (R67, R229). -/
def copyFault (x : WordCtx) (s : State) (kind buf va detail : Nat) : WordRes := .done (x.faultOnce s kind buf va detail)

/-- The scratchpad address of a lane of `CPY`. -/
def cpySa (s : State) (w : MWord) (th : Nat) : Nat := (s.opnd th w.d).toNat

/-- The fault of a lane of `CPY` at its addresses (R231). -/
def cpyLaneFault (c : Scene) (r sa off n : Nat) : Option FaultInfo :=
  match spAddrFault c sa n with
  | some f => some f
  | none => if off % n != 0 then some { kind := 5, va := recBase r + off, detail := 0 } else none

/-- `CPY` (R231). Step 5 of R67 is checked for the lanes of each line at issue. A fault of the record's read is raised in the
reporting lane, with the other lanes as companions (R67). -/
def execCpy (w : MWord) (s : State) : Out :=
  runWord (.cpy w) s fun x s => .done <|
    let lanes := actingLanes x s (.store default)
    if lanes.isEmpty then s
    else
      let n := 4 * 2 ^ (w.mod.toNat % 4)
      let out := bitOf w.mod.toNat 2
      let idx := mIndex s x w
      let r := x.req s
      let c := s.scene x.scene
      let q := s.bufRecord r idx
      match q.1 with
      | .error f =>
        if f.kind == 2 && f.detail == 0 then
          x.faults q.2 (lanes.map fun l => { thread := l.2, info := f, buf := idx % 2 ^ 16 })
        else x.faultOnce q.2 f.kind (idx % 2 ^ 16) f.va f.detail
      | .ok bits =>
        let lf := fun (th : Nat) => (cpyLaneFault c bits (cpySa s w th) (mOffset s w bits th) n).or
          (if recAllows r.ctx bits (b2n out) then none
           else some { kind := 2, va := recBase bits + mOffset s w bits th, detail := 0 })
        let bad := lanes.filterMap fun l => (lf l.2).map fun f =>
          ({ thread := l.2, info := f, buf := idx % 2 ^ 16 } : LaneFault)
        let ok := lanes.filter fun l => (lf l.2).isNone
        let s := x.faults q.2 bad
        let go := x.lanes.filter fun l => !(bad.any fun b => b.thread == l.2)
        if ok.isEmpty then s
        else x.startMem s go ([0, bits, idx % 2 ^ 16, b2n out, n] ++
            ok.flatMap fun l => [cpySa s w l.2, mOffset s w bits l.2]) []
          (sectorsOf (ok.filterMap fun l => if mOffset s w bits l.2 + n ≤ recExtent bits then
            some { lane := l.1, th := l.2, va := recBase bits + mOffset s w bits l.2, w := n, data := [] } else none))

/-- The 256 bits of the descriptor in uniform registers K to K + 7 (R232). -/
def descOf (c : Scene) (k : Nat) : Nat :=
  (List.range 8).foldl (fun acc i => acc + (c.uniReg (k + i)).toNat * 2 ^ (32 * i)) 0

/-- The issue of 16 more tile rows (R233). -/
def bulkIssue (s : State) (op : Nat) : WordRes :=
  let o := s.op op
  let d := o.args.getD 4 0
  let n := o.args.getD 0 0 + 16
  let s := s.modOp op fun o => { o with args := o.args.set 0 n }
  if tdNz d * tdNy d ≤ n then .done s else .more s

/-- The checks that `CPYB` and `CPYM` share: the record and the descriptor, or the fault (R67, R232). -/
def bulkCheck (x : WordCtx) (s : State) (d : Nat) (multicast : Bool) : Except FaultInfo Nat × State :=
  let q := s.bufRecord (x.req s) (tdBuf d)
  match q.1 with
  | .error f => (.error f, q.2)
  | .ok r =>
    if tdBad d r multicast then (.error { kind := 2, va := 0, detail := 0x0100 }, q.2)
    else if !recAllows (x.ctx s) r (b2n (tdDir d)) then (.error { kind := 2, va := recBase r, detail := 0 }, q.2)
    else (.ok r, q.2)

/-- `CPYB` (R233). -/
def execCpyb (w : MWord) (s : State) : Out :=
  runWord (.cpyb w) s fun x s =>
    match macroOp x s with
    | some op => bulkIssue s op
    | none =>
      if (x.reporter s).isNone then .done s
      else
        let c := s.scene x.scene
        let d := descOf c w.s.toNat
        let q := bulkCheck x s d false
        match q.1 with
        | .error f => copyFault x q.2 f.kind (tdBuf d) f.va f.detail
        | .ok r =>
          if !c.spIn (tdSpa d) (tdExtent d r) then copyFault x q.2 4 0xFFFF (tdSpa d) 0
          else
            let args := [0, r, tdBuf d, b2n (tdDir d), d]
            let t := q.2.dailyTick x.core (x.ctx q.2)
            let op := t.2.ops.length
            let s := (beginMacro x t.2 args).modOp op fun o => { o with daily := if t.1 then some (x.sample o.copySize) else none }
            bulkIssue s op

/-- The cast of the take's acting thread, and the cast core numbers in a mask. -/
def maskNums (mask : Nat) : List Nat := (List.range 16).filter (bitOf mask)

/-- `CPYM` (R235, R236). -/
def execCpym (w : MWord) (s : State) : Out :=
  runWord (.cpym w) s fun x s =>
    match macroOp x s, x.reporter s with
    | some op, _ => bulkIssue s op
    | none, none => .done s
    | none, some rep =>
      let c := s.scene x.scene
      let d := descOf c w.s.toNat
      let nums := maskNums (s.opnd rep.2 w.a).toNat
      if (s.opnd rep.2 w.a).toNat % 2 ^ 16 == 0 then .done (x.startMem s x.lanes [16, 0, 0, 0, 0] [] (0, 0))
      else match s.castOf rep.2 with
        | none => copyFault x s 2 0xFFFF 0 0
        | some i =>
          let k := s.cast i
          match k.numOf x.core with
          | none => copyFault x s 2 0xFFFF 0 0
          | some own =>
            if nums.any fun r => (k.coreOf r).isNone then copyFault x s 2 0xFFFF 0 0
            else
              let q := bulkCheck x s d true
              match q.1 with
              | .error f => copyFault x q.2 f.kind (tdBuf d) f.va f.detail
              | .ok r =>
                if nums.any fun n => k.freeOf own n == 0 then .hold (.counters i own nums)
                else
                  let s := q.2.modCast i fun k => nums.foldl (fun k n => k.setFree own n (k.freeOf own n - 1)) k
                  let args := [0, r, tdBuf d, 0, d, i, nums.length] ++ nums
                  let t := s.dailyTick x.core (x.ctx s)
                  let op := t.2.ops.length
                  let s := (beginMacro x t.2 args).modOp op fun o =>
                    { o with daily := if t.1 then some (x.sample o.copySize) else none }
                  bulkIssue s op

/-- `SLOTRET` (R236). -/
def execSlotret (w : MWord) (s : State) : Out :=
  runWord (.slotret w) s fun x s => .done <|
    match x.lanes with
    | [] => s
    | l :: _ =>
      if (s.thread l.2).helper then s
      else match s.castOf l.2 with
        | none => x.fault s l.2 2 0xFFFF 0 0
        | some i =>
          let k := s.cast i
          let from1 := (s.opnd l.2 w.a).toNat % 16
          match k.coreOf from1, k.numOf x.core with
          | some _, some own =>
            x.startMem (s.modCast i fun k => k.setFree from1 own (min 15 (k.freeOf from1 own + 1))) x.lanes [] [] (0, 0)
          | _, _ => x.fault s l.2 2 0xFFFF 0 0

end Sys2Proof.Machine
end

