-- ==== Sys2Proof/Machine/SupRegs.lean ====
section
/-! DEFINITION. The supervisor registers and their one read and one write operation (R400, R401, R437, R438), and `RDSYS`
and `WRSYS`. -/

namespace Sys2Proof.Machine

/-! ## What a register number names -/

/-- How a qualifier names an object (R401, R437). -/
inductive QKind where
  | die
  | ctx
  | bpt
  | wp
  | lease
  | core
  | frame
  | bank
  | stack
  | group
  deriving DecidableEq, Repr

/-- Qualifier kind and width of a register; none for an unknown number. -/
def sysReg (n : Nat) : Option (QKind × Nat) :=
  if [0x000, 0x001, 0x002, 0x003, 0x004, 0x005, 0x006, 0x007, 0x008, 0x00A, 0x00B, 0x00C, 0x00E, 0x012, 0x01F, 0x013, 0x015,
      0x016, 0x018, 0x01A, 0x01B, 0x01C, 0x01D].contains n then some (.die, 32)
  else if [0x009, 0x00D, 0x010, 0x011, 0x017, 0x014, 0x019, 0x01E].contains n then some (.die, 64)
  else if [0x100, 0x102, 0x104, 0x106, 0x108, 0x109, 0x10A, 0x112, 0x10C].contains n then some (.ctx, 32)
  else if [0x101, 0x103, 0x105, 0x107, 0x10B].contains n then some (.ctx, 64)
  else if n == 0x10D then some (.bpt, 64)
  else if n == 0x10E || n == 0x10F || n == 0x110 then some (.wp, 64)
  else if n == 0x200 then some (.lease, 64)
  else if n == 0x201 then some (.core, 32)
  else if n == 0x300 then some (.frame, 64)
  else if n == 0x301 then some (.bank, 32)
  else if n == 0x302 then some (.stack, 32)
  else if n == 0x303 then some (.group, 32)
  else none

/-- The qualifier names an object of its kind. -/
def qualOk (k : QKind) (q : Nat) : Bool :=
  match k with
  | .die => q == 0
  | .ctx => q < 1024
  | .bpt => q / 2 ^ 19 == 0 && bitsOf q 15 10 == 0
  | .wp => q / 2 ^ 20 == 0 && bitsOf q 15 10 == 0
  | .lease => q / 2 ^ 22 == 0 && isCore (q % 2 ^ 16)
  | .core => q < 2 ^ 16 && isCore q
  | .frame => populated (q * 65536)
  | .bank => q < 2 ^ 13
  | .stack => q < 8
  | .group => q < 128

/-! ## Reading -/

/-- µs that are left of TIMER (R401). -/
def State.timerLeft (s : State) (d : Nat) : Nat :=
  let r := s.die d
  r.timer - (s.clock - r.timerAt) / Config.cyclesPerMicro

/-- The lease entry of a row of a core's instruction memory (R396). -/
def State.leaseEntry (s : State) (core row : Nat) : Nat :=
  match s.codeRows.find? fun r => r.core == core && r.row == row with
  | none => 0
  | some r => packFields [(10, r.ctx), (6, r.code), (12, s.leases core r.ctx r.kernel r.code), (2, r.state), (2, 0), (32, r.kernel)]

/-- The value of a die's register. -/
def State.dieReg (s : State) (d n : Nat) : Nat :=
  let r := s.die d
  match n with
  | 0x000 => d
  | 0x001 => r.ageMax
  | 0x002 => r.parkFrac
  | 0x003 => r.parkT
  | 0x004 => r.quantum
  | 0x005 => r.woTimeout
  | 0x006 => r.evPend.toNat
  | 0x007 => r.evMask.toNat
  | 0x008 => r.evSvc.toNat
  | 0x009 => r.evEntry.toNat
  | 0x00A => s.timerLeft d
  | 0x00B => r.conflTh
  | 0x00C => s.hashVer + (if s.migrating then 16 else 0)
  | 0x00D => r.supQBase
  | 0x00E => r.supQLog2
  | 0x010 => r.sPtRoot
  | 0x011 => r.sBufBase
  | 0x012 => r.sBufCnt
  | 0x017 => r.skTab
  | 0x01F => r.skTCnt
  | 0x013 => r.dailyCfg.toNat
  | 0x014 => r.dailyBase
  | 0x015 => r.dailyLog2
  | 0x016 => r.dailyHead
  | 0x018 => r.silCfg.toNat
  | 0x019 => r.silBase
  | 0x01A => r.silLog2
  | 0x01B => r.silHead
  | 0x01C => r.silStart
  | 0x01D => r.silStop
  | 0x01E => r.silLabel.toNat
  | _ => 0

/-- The value of a context's register; one of a context that is not registered reads its reset value (R400). -/
def ctxReg (c : Ctx) (n e : Nat) : Nat :=
  match n with
  | 0x100 => packFields [(1, b2n c.registered), (2, c.homeDie), (6, c.part)]
  | 0x101 => c.ptRoot
  | 0x102 => c.policy.toNat
  | 0x103 => c.bufBase
  | 0x104 => c.bufCnt
  | 0x105 => c.taskBase
  | 0x106 => c.taskCnt
  | 0x107 => c.fqBase
  | 0x108 => c.fqLog2
  | 0x109 => c.fqHead % 2 ^ 32
  | 0x10A => c.fqTail % 2 ^ 32
  | 0x10B => c.kTab
  | 0x112 => c.ktCnt
  | 0x10C => c.step.toNat
  | 0x10D => (c.bpt.toList.getD e 0).toNat
  | 0x10E => (c.wpLine.toList.getD e 0).toNat
  | 0x10F => (c.wpMask0.toList.getD e 0).toNat
  | 0x110 => (c.wpMask1.toList.getD e 0).toNat
  | _ => 0

/-- READING A SUPERVISOR REGISTER (R400): the register's number and the qualifier, on a die. -/
def State.readSys (s : State) (d n q : Nat) : Nat :=
  match sysReg n with
  | some (.die, _) => s.dieReg d n
  | some (.ctx, _) => ctxReg (s.ctx q) n 0
  | some (.bpt, _) => ctxReg (s.ctx (q % 1024)) n (q / 2 ^ 16)
  | some (.wp, _) => ctxReg (s.ctx (q % 1024)) n (q / 2 ^ 16)
  | some (.lease, _) => s.leaseEntry (q % 2 ^ 16) (q / 2 ^ 16)
  | some (.core, _) => if s.shadow.get q == 0 then 0xFFFFFFFF else s.shadow.get q - 1
  | some (.frame, _) => s.frameTag q
  | some (.bank, _) => s.bankCnt.get q
  | some (.stack, _) => s.errCnt.get q
  | some (.group, _) => s.groupMode.get q
  | none => 0

/-! ## Writing -/

/-- A number lies in a range. -/
def within (lo hi v : Nat) : Bool := lo ≤ v && v ≤ hi

/-- The value lies in the range that the table gives the register (R400); any value of an RO register does. -/
def valueOk (n v : Nat) : Bool :=
  match n with
  | 0x001 => v ≤ 63
  | 0x002 => within 1 64 v
  | 0x003 => within 1 65535 v
  | 0x004 => within 100 100000 v
  | 0x005 => within 1 65535 v
  | 0x00B => within 1 65535 v
  | 0x00D => v % 32 == 0
  | 0x00E => within 4 16 v
  | 0x012 => v ≤ 65536
  | 0x01F => v ≤ 65536
  | 0x013 => within 4 20 (bitsOf v 5 1)
  | 0x014 => v % 4096 == 0
  | 0x015 => within 8 20 v
  | 0x018 => v % 4 != 3
  | 0x019 => v % 4096 == 0
  | 0x01A => within 8 24 v
  | 0x104 => v ≤ 65536
  | 0x105 => v % 64 == 0
  | 0x106 => v ≤ 2 ^ 24
  | 0x107 => v % 32 == 0
  | 0x108 => within 4 16 v
  | 0x10B => v % 64 == 0
  | 0x112 => v ≤ 65536
  | 0x10D => bitsOf v 49 32 % 8 == 0
  | _ => true

/-- Task area of a context with host submission lies in the window that BAR2 reaches (R422). -/
def hostAreaOk (c : Ctx) (base cnt : Nat) : Bool :=
  !c.hostSub || cnt == 0 || (c.hwBase ≤ base && base + 64 * cnt ≤ c.hwBase + 2 ^ 32)

/-- Every frame of a ring carries ALLOC 1 and the OWNER of a context (R438). -/
def State.ringOwned (s : State) (base bytes ctx : Nat) : Bool :=
  (List.range ((base + bytes + 65535) / 65536 - base / 65536)).all fun i =>
    let t := s.frameTag (base / 65536 + i)
    tagAlloc t && tagOwner t == ctx

/-- The dailies ring of a die meets R438 while its configuration is enabled, and the Sillage ring while its mode is on. DEDUCED
(log 81): a ring that takes no record is none yet, so that its base, its size and its context can be written one after another. -/
def State.dailyRingOk (s : State) (r : DieRegs) : Bool :=
  s.lcs != 1 || !bitOf r.dailyCfg.toNat 0 ||
    s.ringOwned r.dailyBase (32 * 2 ^ r.dailyLog2) (bitsOf r.dailyCfg.toNat 25 16)
def State.silRingOk (s : State) (r : DieRegs) : Bool :=
  s.lcs != 1 || r.silCfg.toNat % 4 == 0 ||
    s.ringOwned r.silBase (16 * 2 ^ r.silLog2) (bitsOf r.silCfg.toNat 25 16)

/-- A write of a die register leaves the ring that the register configures as R438 asks. -/
def State.ringsOk (s : State) (n : Nat) (r : DieRegs) : Bool :=
  match n with
  | 0x013 | 0x014 | 0x015 => s.dailyRingOk r
  | 0x018 | 0x019 | 0x01A => s.silRingOk r
  | _ => true

/-- The registers of a die with one written (R401, R437): reserved bits are dropped (R4), RO registers stay. -/
def DieRegs.put (r : DieRegs) (clock n v : Nat) : DieRegs :=
  match n with
  | 0x001 => { r with ageMax := v }
  | 0x002 => { r with parkFrac := v }
  | 0x003 => { r with parkT := v }
  | 0x004 => { r with quantum := v }
  | 0x005 => { r with woTimeout := v }
  | 0x006 => { r with evPend := r.evPend &&& ~~~(BitVec.ofNat 32 v) }
  | 0x007 => { r with evMask := BitVec.ofNat 32 v }
  | 0x009 => { r with evEntry := BitVec.ofNat 64 v, noDispatch := false }
  | 0x00A => { r with timer := v, timerAt := clock }
  | 0x00B => { r with conflTh := v }
  | 0x00D => { r with supQBase := v }
  | 0x00E => { r with supQLog2 := v }
  | 0x010 => { r with sPtRoot := v }
  | 0x011 => { r with sBufBase := v }
  | 0x012 => { r with sBufCnt := v }
  | 0x017 => { r with skTab := v }
  | 0x01F => { r with skTCnt := v }
  | 0x013 => { r with dailyCfg := BitVec.ofNat 32 (v &&& 0x07FF003F) }
  | 0x014 => { r with dailyBase := v }
  | 0x015 => { r with dailyLog2 := v }
  | 0x018 => { r with silCfg := BitVec.ofNat 32 (v &&& 0x03FF0007), silOpen := false, silFull := false, silLost := 0 }
  | 0x019 => { r with silBase := v }
  | 0x01A => { r with silLog2 := v }
  | 0x01C => { r with silStart := v }
  | 0x01D => { r with silStop := v }
  | 0x01E => { r with silLabel := BitVec.ofNat 64 v }
  | _ => r

/-- Set an entry of a register file. -/
def setEntry {n : Nat} (xs : Vector DWord n) (e v : Nat) : Vector DWord n :=
  xs.mapFinIdx fun i x _ => if i == e then BitVec.ofNat 64 v else x

/-- The registers of a context with one written. -/
def Ctx.put (c : Ctx) (n e v : Nat) : Ctx :=
  match n with
  | 0x101 => { c with ptRoot := v }
  | 0x102 => { c with policy := BitVec.ofNat 32 v }
  | 0x103 => { c with bufBase := v }
  | 0x104 => { c with bufCnt := v }
  | 0x105 => { c with taskBase := v }
  | 0x106 => { c with taskCnt := v }
  | 0x107 => if c.fqTail == c.fqHead then { c with fqBase := v } else c
  | 0x108 => if c.fqTail == c.fqHead then { c with fqLog2 := v } else c
  | 0x10B => { c with kTab := v }
  | 0x112 => { c with ktCnt := v }
  | 0x10C => { c with step := BitVec.ofNat 32 (v % 2) }
  | 0x10D => { c with bpt := setEntry c.bpt e (v % 2 ^ 51) }
  | 0x10E => { c with wpLine := setEntry c.wpLine e (v % 2 ^ 53) }
  | 0x10F => { c with wpMask0 := setEntry c.wpMask0 e v }
  | 0x110 => { c with wpMask1 := setEntry c.wpMask1 e v }
  | _ => c

/-- A write is ignored: it names a register of a context that is not registered (R400). -/
def State.sysIgnored (s : State) (n q : Nat) : Bool :=
  match sysReg n with
  | some (.ctx, _) | some (.bpt, _) | some (.wp, _) => !(s.ctx (q % 1024)).registered
  | _ => false

/-- The fault of a write, or none (R400, R422, R438). -/
def State.sysFault (s : State) (d n q v : Nat) : Option Nat :=
  let c := s.ctx (q % 1024)
  if s.sysIgnored n q then none
  else if !valueOk n v then some 0x0703
  else if n == 0x105 && !hostAreaOk c v c.taskCnt then some 0x0703
  else if n == 0x106 && !hostAreaOk c c.taskBase v then some 0x0703
  else if !s.ringsOk n ((s.die d).put s.clock n v) then some 0x0900
  else none

/-- Put every frame of a group into scrubbing (R365, R366). -/
def State.scrubGroup (s : State) (g : Nat) : State :=
  let lo := g * 65536
  { s with
    mem := s.mem.dropRange (lo * 65536) (65536 * 65536)
    lineTags := s.lineTags.filter fun x => x.1 / 512 / 65536 != g
    frameTags := s.frameTags.setRun lo ((List.range 65536).map fun f => setBitN (s.frameTag (lo + f)) 2 true ^^^ s.baseTag lo)
    scrubs := s.scrubs.filter fun x => x.frame / 65536 != g
    l2 := s.l2.filter fun x => match x.key with
      | .phys l => l / 512 / 65536 != g
      | .bound _ _ => true }

/-- A frame of the group is assigned. -/
def State.groupAssigned (s : State) (g : Nat) : Bool :=
  s.frameTags.any fun t => t.1 / 65536 == g && tagAlloc (s.frameTag t.1)

/-- WRITING A SUPERVISOR REGISTER (R400), the one operation that does: what governs later decisions follows at once. -/
def State.writeSys (s : State) (d n q v : Nat) : State :=
  match sysReg n with
  | some (.die, w) =>
    let s := s.modDie d fun r => r.put s.clock n (v % 2 ^ w)
    if n == 0x00D then s.postHeld else s
  | some (.ctx, w) =>
    let s := s.modCtx q fun c => c.put n 0 (v % 2 ^ w)
    if n == 0x107 then s.postHeld else s
  | some (.bpt, _) => s.modCtx (q % 1024) fun c => c.put n (q / 2 ^ 16) v
  | some (.wp, _) => s.modCtx (q % 1024) fun c => c.put n (q / 2 ^ 16) v
  | some (.group, _) =>
    if s.groupAssigned q || s.groupMode.get q == v % 4 then s
    else ({ s with groupMode := s.groupMode.set q (v % 4) } : State).scrubGroup q
  | _ => s

/-! ## The privileged instructions' common form (R397) -/

/-- A privileged instruction: once for the take, its operands uniform. -/
def sysWord (i : Instr) (s : State) (ops : List (Sel × Nat)) (body : WordCtx → State → Nat → WordRes) : Out := onceWord i s ops body

/-- A fault of a privileged instruction. -/
def sysProt (x : WordCtx) (s : State) (detail : Nat) : WordRes := onceFault x s 2 0xFFFF 0 detail

/-- A privileged instruction completes with a value of one or two words for D. -/
def State.sysDone (s : State) (i : Nat) (w : TWord) (ws : List Word) : State :=
  (s.modOp i fun o => { o with writes := sameWrites w.d w.nw o.lanes ws }).completeOp i

/-- The checks of `RDSYS` and `WRSYS` on number, width and qualifier: a detail, or none. -/
def sysCheck (n q width : Nat) : Option Nat :=
  match sysReg n with
  | none => some 0x0702
  | some (k, w) => if w != width then some 0x0702 else if !qualOk k q then some 0x0700 else none

/-- `RDSYS` (R400). -/
def execRdsys (w : TWord) (s : State) : Out :=
  sysWord (.rdsys w) s [(w.a, 1), (w.b, 1)] fun x s th =>
    let n := (s.opnd th w.a).toNat
    let q := (s.opnd th w.b).toNat
    match sysCheck n q (if w.mod.toNat == 1 then 64 else 32) with
    | some d => sysProt x s d
    | none => .done (x.start s [n, q])

/-- `RDSYS` completes: the register is read. -/
def State.rdsysDo (s : State) (i : Nat) (w : TWord) : State :=
  let o := s.op i
  s.sysDone i w (wordsOf (if w.mod.toNat == 1 then 2 else 1) (s.readSys (coreDie o.core) (o.args.getD 0 0) (o.args.getD 1 0)))

/-- `WRSYS` (R400). -/
def execWrsys (w : TWord) (s : State) : Out :=
  let k := if w.mod.toNat == 1 then 2 else 1
  sysWord (.wrsys w) s [(w.a, 1), (w.b, 1), (w.c, k)] fun x s th =>
    let n := (s.opnd th w.a).toNat
    let q := (s.opnd th w.b).toNat
    let v := s.opndN th w.c k
    match (sysCheck n q (32 * k)).or (s.sysFault (coreDie x.core) n q v) with
    | some d => sysProt x s d
    | none => .done (x.start s [n, q, v])

/-- `WRSYS` completes: the write takes effect. -/
def State.wrsysDo (s : State) (i : Nat) : State :=
  let o := s.op i
  (s.writeSys (coreDie o.core) (o.args.getD 0 0) (o.args.getD 1 0) (o.args.getD 2 0)).completeOp i

/-- A supervisor write that is performed as an event of its own: a value out of range writes nothing. -/
def sysWrite (s : State) (d n q v : Nat) : Out :=
  .next (if (sysReg n).any (fun k => qualOk k.1 q) && (s.sysFault d n q v).isNone then s.writeSys d n q v else s)

end Sys2Proof.Machine
end

