-- ==== Sys2Proof/Machine/SceneCtl.lean ====
section
/-! DEFINITION. Halting and resuming threads (R384, R385, R406, R408), swapping scenes (R389 to R392, R407), ending them
(R410) and draining their operations (R409), with the privileged instructions that do so. -/

namespace Sys2Proof.Machine

/-- The live scene of a context with an identifier (R399). -/
def State.sceneById (s : State) (ctx sid : Nat) : Option Nat :=
  (indices s.scenes fun c => c.ctx == ctx && c.sid.toNat == sid && c.st != .ended).head?

/-- The live scenes that a scene operand names: one, or all of the context for all ones. -/
def State.scenesNamed (s : State) (ctx sid : Nat) : List Nat :=
  if sid == 2 ^ 32 - 1 then indices s.scenes fun c => c.ctx == ctx && c.st != .ended else (s.sceneById ctx sid).toList

/-- Status 1 or 2 of the operands of a scene instruction (R399). -/
def State.sceneStatus (s : State) (ctx sid : Nat) (all : Bool) : Option Nat :=
  if 1024 ≤ ctx || !(s.ctx ctx).registered then some 1
  else if !(all && sid == 2 ^ 32 - 1) && (s.sceneById ctx sid).isNone then some 2
  else none

/-- The live threads of a scene. -/
def State.liveThreads (s : State) (sc : Nat) : List Nat := (s.scene sc).threads.filter fun th => (s.thread th).live

/-- The takes of a scene that still have lanes. -/
def State.takesOf (s : State) (sc : Nat) : List Nat := indices s.takes fun t => t.scene == sc && t.st != .ended

/-- The reels of a scene. -/
def State.reelsOf (s : State) (sc : Nat) : List Nat := indices s.reels fun r => r.live && r.scene == sc

/-- A take stands at a point where it can be stopped: at a clause boundary, between steps of a stepped word, or suspended
(R32, R34). -/
def Take.atPoint (t : Take) : Bool :=
  match t.st with
  | .issuing _ => t.betweenSteps
  | _ => true

/-- Every take of a scene can be stopped now. -/
def State.stoppable (s : State) (sc : Nat) : Bool := (s.takesOf sc).all fun k => (s.take k).atPoint

/-! ## Halting (R408) -/

/-- The address of the word at which a take stands inside its clause. -/
def Take.wordPc (t : Take) : DWord := t.pc + BitVec.ofNat 64 (8 * (t.pos + 1))

/-- A thread halts at a slate: its region starts there. -/
def State.haltAtSlate (s : State) (th : Nat) (pc : DWord) : State :=
  (s.leaveTake th).modThread th fun t =>
    { t with pc := pc, rgnPc := pc, mid := false, wpos := 0, halted := true, stays := false, resumed := none
             stopped := s.clock, stepping := 0 }

/-- A take is kept whole inside its clause, with its threads halted (R408). -/
def State.keepTake (s : State) (tk : Nat) : State :=
  let t := s.take tk
  t.lanes.foldl (fun (s : State) l => s.modThread l.2 fun x =>
    { x with pc := t.wordPc, mid := true, wpos := t.pos, halted := true, stays := false, stopped := s.clock })
    (s.modTake tk fun t => { t with st := .kept })

/-- Halt the threads of a take. -/
def State.haltTake (s : State) (tk : Nat) : State :=
  let t := s.take tk
  match t.st with
  | .waiting | .saved false => t.lanes.foldl (fun (s : State) l => s.haltAtSlate l.2 t.pc) s
  | .issuing _ | .suspended | .saved true => s.keepTake tk
  | .kept | .ended => s

/-- Halt the threads of a reel: those of a continuation reel stand inside their clause. -/
def State.haltReel (s : State) (rl : Nat) : State :=
  let r := s.reel rl
  if r.cont then
    let w := ((r.lanes.head?).map fun l => (s.thread l.2).wpos).getD 0
    let s := s.modReel rl fun r => { r with live := false, lanes := [] }
    let tk := s.takes.length
    let s := s.newTake r.core r.scene (s.freeBay r.core) r.age (r.pc - BitVec.ofNat 64 (8 * (w + 1))) r.lanes 0
    (s.modTake tk fun t => { t with pos := w, cont := true }).keepTake tk
  else r.lanes.foldl (fun (s : State) l => s.haltAtSlate l.2 r.pc) s

/-- Halt a thread that stands in no take and no reel: stopped, waiting, or saved. -/
def State.haltLoose (s : State) (th : Nat) : State :=
  let t := s.thread th
  if t.parked || t.halted then s.modThread th fun t => { t with halted := true }
  else if t.wo.isSome || s.atBarrier th then
    s.modThread th fun t => { t with halted := true, stays := true, stopped := if t.wo.isSome then t.stopped else s.clock }
  else if t.mid then
    let c := s.scene t.scene
    let tk := s.takes.length
    let s := s.newTake c.core t.scene (s.freeBay c.core) 0 (t.pc - BitVec.ofNat 64 (8 * (t.wpos + 1))) [(t.colour, th)] 0
    (s.modTake tk fun k => { k with pos := t.wpos, cont := true }).keepTake tk
  else s.haltAtSlate th t.pc

/-- Halt every live thread of a scene (R408). -/
def State.haltScene (s : State) (sc : Nat) : State :=
  let s := (s.takesOf sc).foldl State.haltTake s
  let s := (s.reelsOf sc).foldl State.haltReel s
  let s := ((s.liveThreads sc).filter fun th => (s.thread th).place == .nowhere).foldl State.haltLoose s
  s.evalReady sc

/-! ## Forming takes (R385, R392) -/

/-- Put a thread into the first group of its scene and PC that has its colour free, or into a new one (R385). -/
def groupThread (s : State) (gs : List (Nat × DWord × List (Nat × Nat))) (th : Nat) :
    List (Nat × DWord × List (Nat × Nat)) :=
  let t := s.thread th
  let fits := fun (g : Nat × DWord × List (Nat × Nat)) =>
    g.1 == t.scene && g.2.1 == t.pc && !(g.2.2.any fun l => l.1 == t.colour)
  match gs.findIdx? fits with
  | some i => gs.modify i fun g => (g.1, g.2.1, insertLane (t.colour, th) g.2.2)
  | none => gs ++ [(t.scene, t.pc, [(t.colour, th)])]

/-- Form takes of age 0 from threads, in the order given (R385). -/
def State.formTakes (s : State) (ths : List Nat) : State :=
  (ths.foldl (groupThread s) []).foldl (fun (s : State) g =>
    let core := (s.scene g.1).core
    s.newTake core g.1 (s.freeBay core) 0 g.2.1 g.2.2 0) s

/-- The loose threads of a scene that are not stopped and do not wait. -/
def State.looseThreads (s : State) (sc : Nat) : List Nat :=
  (s.liveThreads sc).filter fun th =>
    let t := s.thread th
    t.place == .nowhere && !t.isStopped && !s.atBarrier th

/-- The threads of a list that one `RESUME` has resumed, in record order (R385). -/
def State.resumedBy (s : State) (ths : List Nat) (k : Nat) : List Nat :=
  (ths.foldl (fun (l : List (Nat × Nat)) th => match (s.thread th).resumed with
    | some (j, p) => if j == k then insertLane (p, th) l else l
    | none => l) []).map Prod.snd

/-- File what a scene that comes back holds outside its takes (R392): the threads of each `RESUME` form takes (R385), every
other thread goes into a reel of its address. -/
def State.fileLoose (s : State) (sc : Nat) : State :=
  let ths := s.looseThreads sc
  let runs := (ths.filterMap fun th => (s.thread th).resumed.map Prod.fst).eraseDups
  let s := runs.foldl (fun (s : State) k => s.formTakes (s.resumedBy ths k)) s
  let s := ths.foldl (fun (s : State) th => s.modThread th fun t => { t with resumed := none }) s
  (s.looseThreads sc).foldl (fun (s : State) th => s.fileThread th (s.thread th).pc (s.thread th).mid) s

/-! ## Resuming (R384, R385, R406, R408) -/

/-- The marks of debugging that a resumption leaves on a thread (R439, R441): `mid` when it continues inside a clause. -/
def State.markResumed (s : State) (step mid : Bool) (th : Nat) (exempt : Option DWord) : State :=
  s.modThread th fun t =>
    { t with parked := false, halted := false, stays := false, comp := none, haltNext := false
             unbroken := !mid, stepping := if !step then 0 else if mid then 2 else 1, exempt := exempt.or t.exempt }

/-- A thread that was halted at a barrier or in a WO wait (R408). -/
def State.resumeStays (s : State) (step : Bool) (th : Nat) : State :=
  let t := s.thread th
  let s := s.markResumed step t.mid th none
  let s := s.modThread th fun t => { t with wo := t.wo.map fun w => { w with since := s.clock }, stopped := s.clock }
  if t.wo.isSome || s.atBarrier th || (s.scene t.scene).st != .resident then s else s.fileThread th t.pc t.mid

/-- A take kept whole whose every thread is named continues at its saved position (R408). -/
def State.resumeKept (s : State) (step : Bool) (tk : Nat) : State :=
  let t := s.take tk
  let home := (s.scene t.scene).st == .resident || (s.scene t.scene).st == .suspended
  let s := t.lanes.foldl (fun (s : State) l => (s.markResumed step true l.2 none).modThread l.2 fun x =>
    { x with mid := false, wpos := 0 }) s
  s.modTake tk fun t => { t with st := if home then .suspended else .saved true }

/-- A thread goes back to its region start (R384); `run` and `place` are the `RESUME` and its place in record order. -/
def State.toRegion (s : State) (step : Bool) (th : Nat) (exempt : Option DWord) (run place : Nat) : State :=
  ((s.leaveTake th).markResumed step false th exempt).modThread th fun t =>
    { t with pc := t.rgnPc, mid := false, wpos := 0, resumed := some (run, place) }

/-- RESUMING THREADS (R384, R385, R408): those named, each with the address of its record where it is of kind WATCH. -/
def State.resume (s : State) (step : Bool) (named : List (Nat × Option DWord)) : State :=
  let ths := named.map Prod.fst
  let kept := (ths.filterMap fun th => match (s.thread th).place with
    | .take k => if (s.take k).st == .kept && (s.take k).lanes.all fun l => ths.contains l.2 then some k else none
    | _ => none).eraseDups
  let whole := kept.flatMap fun k => (s.take k).lanes.map Prod.snd
  let stay := ths.filter fun th => !whole.contains th && (s.thread th).stays
  let back := named.filter fun x => !whole.contains x.1 && !stay.contains x.1
  let s := kept.foldl (fun (s : State) k => s.resumeKept step k) s
  let s := stay.foldl (fun (s : State) th => s.resumeStays step th) s
  let run := s.seqCtr
  let s := back.zipIdx.foldl (fun (s : State) x => s.toRegion step x.1.1 x.1.2 run x.2) { s with seqCtr := run + 1 }
  let here := (back.map Prod.fst).filter fun th => (s.scene (s.thread th).scene).st == .resident
  let s := s.formTakes here
  let s := here.foldl (fun (s : State) th => s.modThread th fun t => { t with resumed := none }) s
  ((ths.map fun th => (s.thread th).scene).eraseDups).foldl State.evalReady s

/-- The threads that a RESUME may name: parked or halted (R406). -/
def Thread.resumable (t : Thread) : Bool := t.live && (t.parked || t.halted)

/-- The companions of a thread's record (R379). -/
def State.companions (s : State) (th : Nat) : List Nat := indices s.threads fun t => t.comp == some th && t.resumable

/-- The thread that a record names, when the record is not stale (R406), with its companions. -/
def State.recordThreads (s : State) (ctx rec1 : Nat) : List (Nat × Option DWord) :=
  let tid := bitsOf rec1 43 32
  match s.sceneById ctx (bitsOf rec1 95 64) with
  | none => []
  | some sc =>
    let c := s.scene sc
    match c.threads.find? fun th => (s.thread th).tid == tid with
    | none => []
    | some th =>
      let t := s.thread th
      if tid == 0xFFF || !t.resumable || t.rgnCnt.toNat % 4096 != bitsOf rec1 127 116 ||
          (t.rgnPc.toNat - c.code) % 2 ^ 20 != bitsOf rec1 115 96 then []
      else
        let ex := if bitsOf rec1 7 0 == 0x15 then some (BitVec.ofNat 64 (c.code + bitsOf rec1 63 44)) else none
        (th, ex) :: (s.companions th).map fun k => (k, none)

/-- Threads named twice count once. -/
def onceEach (xs : List (Nat × Option DWord)) : List (Nat × Option DWord) :=
  xs.foldl (fun acc x => if acc.any fun y => y.1 == x.1 then acc else acc ++ [x]) []

/-- The checks of an instruction on a run of records in scratchpad: ALIGN, the count, SPBOUND (R405, R406). No
rule names an address for their records (R271). -/
def recordFault (c : Scene) (a n : Nat) : Option FaultInfo :=
  if a % 32 != 0 then some { kind := 5, va := 0, detail := 0 }
  else if !within 1 64 n then some { kind := 2, va := 0, detail := 0x0703 }
  else if c.alloc < a + 32 * n then some { kind := 4, va := 0, detail := 0 }
  else none

/-- `RESUME.rec` (R406). Its reads are thread reads of the scratchpad: they wait on empty lines. -/
def execResumeRec (w : TWord) (s : State) : Out :=
  sysWord (.resumeRec w) s [(w.a, 1), (w.b, 1), (w.c, 1)] fun x s th =>
    let a := (s.opnd th w.b).toNat
    let n := (s.opnd th w.c).toNat
    let c := s.scene x.scene
    match recordFault c a n with
    | some f => onceFault x s f.kind 0xFFFF f.va f.detail
    | none =>
      if c.spEmpty a (32 * n) then .hold (.lines (c.spLines a (32 * n)))
      else if c.spPoisoned a (32 * n) then onceFault x s 0x0C 0xFFFF 0 0
      else if c.spBad a (32 * n) then onceFault x s 0x0C 0xFFFF 0 0x0606
      else
        let v := s.seeScene (s.threadReader th) x.scene ((List.range (32 * n)).map fun k => c.spPhys (a + k))
        .done (x.start v.2 ((s.opnd th w.a).toNat :: (List.range n).map fun i => v.1.spNum (a + 32 * i) 32))

/-- `RESUME.rec` completes. -/
def State.resumeRecDo (s : State) (i : Nat) (w : TWord) : State :=
  let o := s.op i
  let ctx := o.args.getD 0 0
  let named := if 1024 ≤ ctx || !(s.ctx ctx).registered then [] else onceEach ((o.args.drop 1).flatMap (s.recordThreads ctx))
  (s.resume (bitOf (s.ctx ctx).step.toNat 0) named).sysDone i w [BitVec.ofNat 32 named.length]

/-- `RESUME.scn` (R406). -/
def execResumeScn (w : TWord) (s : State) : Out :=
  sysWord (.resumeScn w) s [(w.a, 1), (w.b, 1)] fun x s th =>
    .done (x.start s [(s.opnd th w.a).toNat, (s.opnd th w.b).toNat])

/-- `RESUME.scn` completes. -/
def State.resumeScnDo (s : State) (i : Nat) (w : TWord) : State :=
  let o := s.op i
  let ctx := o.args.getD 0 0
  let named : List (Nat × Option DWord) := match s.sceneStatus ctx (o.args.getD 1 0) false, s.sceneById ctx (o.args.getD 1 0) with
    | none, some sc => ((s.scene sc).threads.filter fun th => (s.thread th).resumable).map fun th => (th, none)
    | _, _ => []
  (s.resume (bitOf (s.ctx ctx).step.toNat 0) named).sysDone i w [BitVec.ofNat 32 named.length]

/-! ## Abandoning operations (R230, R409, R410) -/

/-- Abandon an operation that is held at a translation fault, as under the halt policy (R230). DESIGN CHOICE (log 74): an
`ACBIND` or a `HASHVER` whose read is given up completes with the status of an image or a mask set that is not valid. -/
def State.abandonHeld (s : State) (i : Nat) : State :=
  let o := s.op i
  match o.instr with
  | .acbind w => s.accordStatus i w 1
  | .hashver w => s.accordStatus i w 6
  | _ => if o.isCopy then s.copyAbandon i else s.completeOp i

/-- End the WO wait of an engine read at once (R89): the lines it would have written become full and poisoned, and WOWAIT
is posted. -/
def State.endEngineWait (s : State) (i : Nat) : State :=
  let o := s.op i
  match o.wo with
  | none => s
  | some v => (s.opRecord o 9 v.buf v.va 0).abandonHeld i

/-- Abandon what holds the operations of a list (R409). -/
def State.abandonOps (s : State) (is : List Nat) : State :=
  is.foldl (fun (s : State) i =>
    let o := s.op i
    if o.done then s else if o.held.isSome then s.abandonHeld i else if o.wo.isSome then s.endEngineWait i else s) s

/-- Stop the operations of a scene where they stand (R410): they write nothing more. -/
def State.dropOps (s : State) (sc : Nat) : State :=
  let mine := indices s.ops fun o => o.scene == sc && !o.done
  { s with
    ops := s.ops.map fun o => if o.scene == sc then
      { o with done := true, held := none, wo := none, writes := [], flags := [] } else o
    mveReqs := s.mveReqs.map fun r => if (r.issuer.map mine.contains).getD false && r.state < 3 then { r with state := 4 } else r
    seals := s.seals.map fun j => if (j.issuer.map mine.contains).getD false then { j with done := true } else j }

/-- The engine operations of scenes that are under way. -/
def State.opsOf (s : State) (scs : List Nat) : List Nat :=
  indices s.ops fun o => scs.contains o.scene && !o.done && o.byEngine

/-! ## Ending a scene (R410) -/

/-- A node becomes FAILED (R280, R286): the transition at its home slice. -/
def State.failNode (s : State) (ctx index die : Nat) : State :=
  (s.taskAtomic (unitReq ctx die) index fun h =>
    if taskState h == tsLaunched || taskState h == tsArmed then some (withTaskState h tsFailed) else none).2

/-- END A SCENE IN ANY STATE (R410). -/
def State.killScene (s : State) (sc : Nat) : State :=
  let c := s.scene sc
  let s := s.dropOps sc
  let s := (s.liveThreads sc).foldl (fun (s : State) th =>
    ((s.leaveTake th).modThread th fun t => { t with exited := true, gone := true, wo := none }).leaveCast th) s
  let s := s.endScene sc
  match c.node with
  | some n => ((s.failNode c.ctx n c.unit).nodeEnded c.ctx n tsFailed).modScene sc fun c => { c with node := none }
  | none => s

/-- The common issue of an instruction on a context and a scene. -/
def sceneWord (i : Instr) (w : TWord) (s : State) (extra : List (Sel × Nat)) : Out :=
  sysWord i s ([(w.a, 1), (w.b, 1)] ++ extra) fun x s th =>
    .done (x.start s ([(s.opnd th w.a).toNat, (s.opnd th w.b).toNat] ++ extra.map fun e => s.opndN th e.1 e.2))

/-- `SCENEKILL` (R410). -/
def execScenekill (w : TWord) (s : State) : Out := sceneWord (.scenekill w) w s []

/-- `SCENEKILL` completes when no thread of the scene issues. -/
def State.scenekillDo (s : State) (i : Nat) (w : TWord) : State :=
  let o := s.op i
  match s.sceneStatus (o.args.getD 0 0) (o.args.getD 1 0) false, s.sceneById (o.args.getD 0 0) (o.args.getD 1 0) with
  | some st, _ => s.sysDone i w [BitVec.ofNat 32 st]
  | none, none => s.sysDone i w [2]
  | none, some sc =>
    if s.stoppable sc then
      ((s.abandonOps (s.opsOf [sc])).killScene sc).sysDone i w [0]
    else s

/-- `HALTB` (R408). -/
def execHaltb (w : TWord) (s : State) : Out := sceneWord (.haltb w) w s []

/-- `HALTB` completes when no named thread issues. -/
def State.haltbDo (s : State) (i : Nat) (w : TWord) : State :=
  let o := s.op i
  match s.sceneStatus (o.args.getD 0 0) (o.args.getD 1 0) true with
  | some st => s.sysDone i w [BitVec.ofNat 32 st]
  | none =>
    let scs := s.scenesNamed (o.args.getD 0 0) (o.args.getD 1 0)
    if scs.all s.stoppable then (scs.foldl State.haltScene s).sysDone i w [0] else s

/-! ## Draining (R409) -/

/-- An instruction that waits for the operations that the named scenes have under way as it issues. -/
def drainWord (i : Instr) (w : TWord) (s : State) : Out :=
  sysWord i s [(w.a, 1), (w.b, 1)] fun x s th =>
    let ctx := (s.opnd th w.a).toNat
    let sid := (s.opnd th w.b).toNat
    .done (x.start s (ctx :: sid :: if 1024 ≤ ctx then [] else s.opsOf (s.scenesNamed ctx sid)))

/-- `DRAIN` (R409). -/
def execDrain (w : TWord) (s : State) : Out := drainWord (.drain w) w s

/-- `DRAIN.abandon` (R409). -/
def execDrainAbandon (w : TWord) (s : State) : Out := drainWord (.drainAbandon w) w s

/-- `DRAIN` completes when the operations it waits for have. -/
def State.drainDo (s : State) (i : Nat) (w : TWord) (abandon : Bool) : State :=
  let o := s.op i
  match s.sceneStatus (o.args.getD 0 0) (o.args.getD 1 0) true with
  | some st => if (o.args.drop 2).isEmpty then s.sysDone i w [BitVec.ofNat 32 st] else
      if (o.args.drop 2).all fun k => (s.op k).done then s.sysDone i w [0] else s
  | none =>
    let s := if abandon then s.abandonOps (o.args.drop 2) else s
    if (o.args.drop 2).all fun k => (s.op k).done then s.sysDone i w [0] else s

/-! ## Swapping (R389 to R392, R407) -/

/-- Swap-out begins (R389): a resident scene becomes SAVING. -/
def State.startSwap (s : State) (sc : Nat) : State :=
  if (s.scene sc).st == .resident then s.modScene sc fun c => { c with st := .saving } else s

/-- The saved form of a take (R389): a sleeping take and one inside a clause are saved whole, any other gives up its
threads, which keep its address. -/
def State.saveTake (s : State) (tk : Nat) : State :=
  let t := s.take tk
  match t.st with
  | .waiting | .saved false =>
    if t.sleep != 0 then
      s.modTake tk fun t => { t with st := .saved false, sleep := t.last + t.sleep - s.clock }
    else
      t.lanes.foldl (fun (s : State) l => (s.leaveTake l.2).modThread l.2 fun x =>
        { x with pc := t.pc, mid := false, wpos := 0 }) s
  | .issuing _ | .suspended | .saved true => s.modTake tk fun t => { t with st := .saved true }
  | .kept | .ended => s

/-- The saved form of a reel: its threads keep their addresses. -/
def State.saveReel (s : State) (rl : Nat) : State :=
  let r := s.reel rl
  (s.modReel rl fun r => { r with live := false, lanes := [] }).placeAll r.lanes .nowhere

/-- The image of a scene is complete (R389, steps 2 to 4): it is SWAPPED, and its core's resources are free. What its
threads have written to IP lines goes to memory, where they find it on another core (R93). -/
def State.saveScene (s : State) (sc : Nat) : State :=
  let c := s.scene sc
  let s := (s.takesOf sc).foldl State.saveTake s
  let s := (s.reelsOf sc).foldl State.saveReel s
  let s := c.threads.foldl (fun (s : State) th => s.modThread th fun t => { t with cached := [], used := [] }) s
  let s := (s.modScene sc fun c => { c with st := .swapped }).flushIp c.core c.ctx
  (s.sillage c.ctx 4 c.core c.sid.toNat 0 none none).evalReady sc

/-- Restoration begins on a core (R391, R48): a READY scene becomes RESTORING, and its casts take its new core. -/
def State.startRestore (s : State) (sc core : Nat) : State :=
  let s := (s.castsOf sc).foldl (fun (s : State) i => match s.renumber i sc core with
    | some c => s.modCast i fun _ => c
    | none => s) s
  (s.modScene sc fun c => { c with st := .restoring, core := core }).sillage (s.scene sc).ctx 3 core
    (s.scene sc).sid.toNat core none none

/-- What a scene still has in the array, the operand slots and the task sequencer comes with it to its core (R267, R270). -/
def State.moveOps (s : State) (sc core : Nat) : State :=
  { s with ops := s.ops.map fun o =>
      if o.scene == sc && !o.done && 0x98 ≤ o.instr.opcode && o.instr.opcode ≤ 0xA3 then { o with core := core } else o }

/-- Every part of a scene is restored (R392); a take counts for its bay from when it is rebuilt (R25). No copy in the new core's L1 is older than what its threads saw (R82,
R216). -/
def State.restoreScene (s : State) (sc : Nat) : State :=
  let core := (s.scene sc).core
  let s := (s.modScene sc fun c => { c with st := .resident }).moveOps sc core
  let s := (s.dropRecords core).enterCore core (s.scene sc).ctx
  let s := (s.takesOf sc).foldl (fun (s : State) k => s.modTake k fun t => { t with bay := 4 }) s
  let s := (s.takesOf sc).foldl (fun (s : State) k => match (s.take k).st with
    | .saved mid => s.modTake k fun t => { t with core := core, bay := s.freeBay core, age := 0, last := s.clock, holds := 0
                                                  st := if mid then .suspended else .waiting }
    | .kept => s.modTake k fun t => { t with core := core, bay := s.freeBay core, age := 0 }
    | _ => s) s
  s.fileLoose sc

/-- `SWAPOUT` (R407). -/
def execSwapout (w : TWord) (s : State) : Out := sceneWord (.swapout w) w s []

/-- `SWAPOUT` completes: swap-out has begun. -/
def State.swapoutDo (s : State) (i : Nat) (w : TWord) : State :=
  let o := s.op i
  match s.sceneStatus (o.args.getD 0 0) (o.args.getD 1 0) false, s.sceneById (o.args.getD 0 0) (o.args.getD 1 0) with
  | some st, _ => s.sysDone i w [BitVec.ofNat 32 st]
  | none, none => s.sysDone i w [2]
  | none, some sc =>
    if (s.scene sc).st == .resident then (s.startSwap sc).sysDone i w [0] else s.sysDone i w [3]

/-- `SWAPIN` (R407). -/
def execSwapin (w : TWord) (s : State) : Out := sceneWord (.swapin w) w s [(w.c, 1)]

/-- `SWAPIN` completes: the scene is RESTORING. -/
def State.swapinDo (s : State) (i : Nat) (w : TWord) : State :=
  let o := s.op i
  let want := o.args.getD 2 0
  match s.sceneStatus (o.args.getD 0 0) (o.args.getD 1 0) false, s.sceneById (o.args.getD 0 0) (o.args.getD 1 0) with
  | some st, _ => s.sysDone i w [BitVec.ofNat 32 st]
  | none, none => s.sysDone i w [2]
  | none, some sc =>
    if (s.scene sc).st != .ready then s.sysDone i w [3]
    else
      let core := if want == 2 ^ 32 - 1 then s.bestCore (s.readmissible sc)
        else if s.readmissible sc want then some want else none
      match core with
      | some k => (s.startRestore sc k).sysDone i w [0]
      | none => s.sysDone i w [4]

end Sys2Proof.Machine
end

