-- ==== Sys2Proof/Machine/Super.lean ====
section
/-! DEFINITION. The supervisor's other instructions: waiting for events (R403), popping fault records (R405), the return
from a handler (R404), page tables and TLBs (R361, R362, R412), frames (R102, R364, R413) and the hash version (R367,
R413). -/

namespace Sys2Proof.Machine

/-! ## Events (R402 to R404) -/

/-- `WAITEV` (R403): it does not hold its pipe. Events that it waits for may be pending already. -/
def execWaitev (w : TWord) (s : State) : Out :=
  sysWord (.waitev w) s [(w.a, 1), (w.b, 1)] fun x s th =>
    let now := (s.die (coreDie x.core)).evPend.toNat &&& (s.opnd th w.a).toNat
    .done (x.start s ([(s.opnd th w.a).toNat, (s.opnd th w.b).toNat] ++ if now == 0 then [] else [now]))

/-- A `WAITEV` wakes: an event it waits for has been pending, or its timeout has passed (R403). -/
def State.waitOver (s : State) (o : Op) : Bool := 2 < o.args.length || o.issued + o.args.getD 1 0 ≤ s.clock

/-- The wake of a `WAITEV`. -/
def State.waitevDo (s : State) (i : Nat) (w : TWord) : State :=
  if s.waitOver (s.op i) then s.sysDone i w [BitVec.ofNat 32 ((s.op i).args.getD 2 (s.waitedEvents (s.op i)))] else s

/-- `RETI` (R404): the event's bits clear, and the handler thread exits. -/
def execReti (w : TWord) (s : State) : Out :=
  sysWord (.reti w) s [(w.a, 1)] fun x s th =>
    if (s.scene x.scene).handler.isNone then sysProt x s 0x0701
    else
      let bits := s.opnd th w.a
      let s := s.modDie (coreDie x.core) fun r => { r with evSvc := r.evSvc &&& ~~~bits, evPend := r.evPend &&& ~~~bits }
      .done (x.lanes.foldl (fun (s : State) l => s.exitThread l.2) s)

/-! ## The fault queues (R405) -/

/-- The queue that a selector names on a die: a context, or 0x400 + die; none where no queue of the die's contexts holds
a record. -/
def State.queueNamed (s : State) (die sel : Nat) : Option Nat :=
  if sel < 1024 then some sel
  else if sel == 0x400 then some (0x400 + die)
  else ((List.range 1024).find? fun c => (s.ctx c).registered && (s.ctx c).homeDie == die && (s.ctx c).fqTail != (s.ctx c).fqHead)

/-- Records that a queue holds, and the address of its head record. -/
def State.queueHead (s : State) (q : Nat) : Nat × Nat :=
  if q < 1024 then
    let c := s.ctx q
    (c.fqTail - c.fqHead, c.fqBase + 32 * (c.fqHead % 2 ^ c.fqLog2))
  else
    let d := s.die (q - 0x400)
    (d.supQTail - d.supQHead, d.supQBase + 32 * (d.supQHead % 2 ^ d.supQLog2))

/-- Take one record from the head of a queue. -/
def State.popOne (s : State) (q : Nat) : State :=
  if q < 1024 then s.modCtx q fun c => { c with fqHead := c.fqHead + 1 }
  else s.modDie (q - 0x400) fun d => { d with supQHead := d.supQHead + 1 }

/-- Move up to n records from the head of a queue to a scene's scratchpad, as writes of a thread: the number moved. -/
def State.popRecords (s : State) (q sc th a : Nat) : Nat → Nat → Nat × State
  | 0, k => (k, s)
  | n + 1, k =>
    let h := s.queueHead q
    if h.1 == 0 then (k, s)
    else
      let bs := s.mem.readN h.2 32
      let s := s.keepSp sc (s.threadReader th) ((List.range 32).map fun j => (s.scene sc).spPhys (a + 32 * k + j))
      ((s.modScene sc fun c => c.spWrite (a + 32 * k) bs).popOne q).popRecords q sc th a n (k + 1)

/-- `FRPOP` (R405). -/
def execFrpop (w : TWord) (s : State) : Out :=
  sysWord (.frpop w) s [(w.a, 1), (w.b, 1), (w.c, 1)] fun x s th =>
    let sel := (s.opnd th w.a).toNat
    let a := (s.opnd th w.b).toNat
    let n := (s.opnd th w.c).toNat
    if 0x401 < sel then sysProt x s 0x0700
    else match recordFault (s.scene x.scene) a n with
      | some f => onceFault x s f.kind 0xFFFF f.va f.detail
      | none => .done (x.start s [sel, a, n])

/-- `FRPOP` completes: the records move, and the space they leave admits held records (R383). -/
def State.frpopDo (s : State) (i : Nat) (w : TWord) : State :=
  let o := s.op i
  match s.queueNamed (coreDie o.core) (o.args.getD 0 0) with
  | none => s.sysDone i w [0, 0xFFFFFFFF]
  | some q =>
    let r := s.popRecords q o.scene ((s.opThread o).getD 0) (o.args.getD 1 0) (o.args.getD 2 0) 0
    (r.2.sysDone i w [BitVec.ofNat 32 r.1, BitVec.ofNat 32 (min q 0x400)]).postHeld

/-! ## Page tables and TLBs (R361, R362, R412) -/

/-- `PTWR` (R412). -/
def execPtwr (w : TWord) (s : State) : Out :=
  sysWord (.ptwr w) s [(w.a, 2), (w.b, 2)] fun x s th =>
    let pa := s.opndN th w.a 2
    if pa % 8 != 0 || !isHbm pa || tagType (s.frameTag (frameOf pa)) != 0 then sysProt x s 0x0600
    else .done (x.start s [pa, s.opndN th w.b 2])

/-- A leaf names a frame of this package: whoever walks it from now on sees what its writer knows to stand there (R376). -/
def State.publish (s : State) (th leaf : Nat) : State :=
  if bitOf leaf 0 && bitsOf leaf 15 8 == s.pkgId then
    { s with olds := s.olds.filter fun y =>
        !(y.space == .mem && y.gran / 4096 == bitsOf leaf 47 16 && s.armCovers th y) }
  else s

/-- `PTWR` completes: one SC store at the home slice, which is a release (R81). -/
def State.ptwrDo (s : State) (i : Nat) : State :=
  let o := s.op i
  let pa := o.args.getD 0 0
  let s := s.storeLine (lineOf pa) ((leBytes 8 (o.args.getD 1 0)).zipIdx.map fun b => (pa % 128 + b.2, b.1)) false
  let s : State := match s.opThread o with
    | some th => (s.publish th (o.args.getD 1 0)).releaseAt (.thread th) 4 .mem pa 8
    | none => s
  s.completeOp i

/-- Drop the cached translations of a context that could translate an address of a range, leaves and non-leaf entries, and
perform what was written through them (R362): dirty IP lines go to memory. -/
def State.dropTlb (s : State) (ctx lo n : Nat) : State :=
  let s := ((s.l1.filter fun l => l.ctx == ctx).map (·.core)).eraseDups.foldl (fun (s : State) k => s.flushIp k ctx) s
  let meets := fun (c va size : Nat) => c == ctx && decide (va < lo + n) && decide (lo < va + size)
  { s with tlb := s.tlb.filter fun t => !meets t.ctx t.va (leafSize t.level)
           walks := s.walks.filter fun w => !meets w.ctx w.va (levelSize w.level) }

/-- `TLBINV` (R362): first the copies are dropped; it completes when the reads that were translated before that have been
delivered or discarded. The operations that it waits for stand after its `n` operands. -/
def State.tlbinvDo (s : State) (i n ctx lo size : Nat) : State :=
  let o := s.op i
  let s : State := if o.progress != 0 then s
    else
      let reads := indices s.ops fun q => q.ctx == ctx && !q.done && !q.writes.isEmpty
      (s.dropTlb ctx lo size).modOp i fun o => { o with progress := 1, args := o.args ++ reads }
  if ((s.op i).args.drop n).all fun k => (s.op k).done then s.completeOp i else s

/-- `TLBINV.range` (R412). -/
def execTlbinvRange (w : TWord) (s : State) : Out :=
  sysWord (.tlbinvRange w) s [(w.a, 1), (w.b, 2), (w.c, 1)] fun x s th =>
    let ctx := (s.opnd th w.a).toNat
    let va := s.opndN th w.b 2
    let n := (s.opnd th w.c).toNat
    if 1023 < ctx || va % 65536 != 0 || 2 ^ 57 ≤ va || n == 0 then sysProt x s 0x0700
    else .done (x.start s [ctx, va, n])

/-- `TLBINV.range` completes. -/
def State.tlbinvRangeDo (s : State) (i : Nat) : State :=
  let o := s.op i
  s.tlbinvDo i 3 (o.args.getD 0 0) (o.args.getD 1 0) (65536 * o.args.getD 2 0)

/-- `TLBINV.ctx` (R412). -/
def execTlbinvCtx (w : TWord) (s : State) : Out :=
  sysWord (.tlbinvCtx w) s [(w.a, 1)] fun x s th =>
    if 1023 < (s.opnd th w.a).toNat then sysProt x s 0x0700 else .done (x.start s [(s.opnd th w.a).toNat])

/-- `TLBINV.ctx` completes. -/
def State.tlbinvCtxDo (s : State) (i : Nat) : State := s.tlbinvDo i 1 ((s.op i).args.getD 0 0) 0 (2 ^ 57)

/-! ## Frames (R102, R311, R363, R364, R413) -/

/-- A frame lies in a binding's footprint. -/
def Binding.hasFrame (b : Binding) (frame : Nat) : Bool := b.frames.any fun r => r.1 ≤ frame && frame < r.1 + r.2

/-- Write back the dirty IP lines of a frame and drop every L1 copy of its lines (R102). -/
def State.clearFrame (s : State) (frame : Nat) : State :=
  let mine := fun (l : L1Line) => l.pkg == s.pkgId && l.line / 512 == frame
  let s := s.writeBack (s.l1.filter mine)
  { s with l1 := s.l1.filter fun l => !mine l }

/-- Clear the written state of every line of a frame (R102). -/
def State.clearWritten (s : State) (frame : Nat) : State :=
  { s with lineTags := s.lineTags.filterMap fun x =>
      if x.1 / 512 == frame then (if setBitN x.2 9 false == 0 then none else some (x.1, setBitN x.2 9 false)) else some x }

/-- A NEW TAG FOR A FRAME (R102, R364). -/
def State.retag (s : State) (frame tag : Nat) : State :=
  let old := s.frameTag frame
  let s := s.clearFrame frame
  let moves := tagAlloc old != tagAlloc tag || tagOwner old != tagOwner tag
  let s := s.setFrameTag frame (mkTag (tagType tag) (tagScrub old) (tagAlloc tag) (tagOwner tag) (tagRetired tag))
  let s := if tagType tag == 2 || tagType old == 2 then s.clearWritten frame else s
  let bar := fun (b : Binding) =>
    if b.hasFrame frame && b.forbids (tagType tag) then { b with barred := true } else b
  let s := { s with
    bindings := s.bindings.map bar
    olds := s.olds.filter fun y => y.space != .mem || y.gran / 4096 != frame || tagType tag == tagType old }
  if moves then s.startScrub frame else s

/-- `RETYPE` (R413). -/
def execRetype (w : TWord) (s : State) : Out :=
  sysWord (.retype w) s [(w.a, 2), (w.b, 1)] fun x s th => .done (x.start s [s.opndN th w.a 2, (s.opnd th w.b).toNat])

/-- `RETYPE` completes: the tag has changed. A reassignment waits for a scrub map (R365). -/
def State.retypeDo (s : State) (i : Nat) (w : TWord) : State :=
  let pa := (s.op i).args.getD 0 0
  let tag := (s.op i).args.getD 1 0
  let old := s.frameTag (frameOf pa)
  if pa % 65536 != 0 || !populated pa || tagRetired old then s.sysDone i w [5]
  else if bitOf tag 2 || tag / 2 ^ 15 != 0 then s.sysDone i w [6]
  else if (tagAlloc old != tagAlloc tag || tagOwner old != tagOwner tag) && s.mapsFull (frameOf pa) then s
  else (s.retag (frameOf pa) tag).sysDone i w [0]

/-! ## The hash version (R367, R369, R413) -/

/-- The outputs of a mode that are fixed (R366). -/
def fixedOutput (mode j : Nat) : Bool := (mode == 1 && j < 3) || (mode == 2 && j < 8)

/-- A mask set is valid (R367). -/
def masksValid (ms : List Nat) : Bool :=
  (List.range 4).all fun k =>
    let ds := (List.range 13).map fun j => resetMasks.getD (13 * k + j) 0
    (List.range 13).all fun j =>
      let m := ms.getD (13 * k + j) 0
      let d := ds.getD j 0
      m % 128 == 0 && m < 2 ^ 32 && (m &&& ds.foldl (· + ·) 0) == d && (!fixedOutput k j || m == d) &&
        !(k == 3 && j < 8 && m % 2 ^ 21 != 0)

/-- Read a mask set at an offset of a record, under the checks of R359 for its buffer; the records of the checks that R413
makes carry VA 0 (R271). -/
def State.readMasks (s : State) (r : Req) (b : BufRef) (off : Nat) : EngRes × State :=
  let plain := fun (kind : Nat) => EngRes.post { kind := kind, va := 0, detail := 0 }
  if off % 8 != 0 then (plain 5, s)
  else if recExtent b.bits < off + 416 then (plain 3, s)
  else if !recAllows r.ctx b.bits 0 then (plain 2, s)
  else
    let v := s.engineSpan r b (recBase b.bits + off) 416
    (match v.1 with
      | .ok bs psn => if psn then plain 0x0C else .ok bs false
      | e => e, v.2)

/-- The masks of a set. -/
def masksOf (bs : List Byte) : List Nat := (List.range 52).map fun k => leNat ((bs.drop (8 * k)).take 8)

/-- `HASHVER` (R413): the mask set is read at issue where its lines are written; where one of a WO page is not, the
operation has begun and waits for it (R89), and reads the set when it completes. -/
def execHashver (w : TWord) (s : State) : Out :=
  sysWord (.hashver w) s [(w.a, 2)] fun x s th =>
    let index := (s.opndWord th w.a 0).toNat
    let off := (s.opndWord th w.a 1).toNat
    let r := x.req s
    let q := s.bufRecord r index
    match q.1 with
    | .error f => onceFault x q.2 f.kind (index % 2 ^ 16) f.va f.detail
    | .ok rec1 =>
      let v := q.2.readMasks { r with who := some (s.threadReader th) } { bits := rec1, index := index } off
      match v.1 with
      | .held f => onceFault x v.2 f.kind (index % 2 ^ 16) f.va f.detail
      | .post f => onceFault x v.2 f.kind (index % 2 ^ 16) f.va f.detail
      | .wait t =>
        let op := v.2.ops.length
        .done ((x.start v.2 [rec1, index, off]).modOp op fun o => { o with wo := some t })
      | .ok bs _ => .done (x.start v.2 (masksOf bs))

/-- A mask set takes effect: the next version is in force, and migration begins (R369). -/
def State.install (s : State) (i : Nat) (w : TWord) (ms : List Nat) : State :=
  if !masksValid ms then s.sysDone i w [6]
  else if s.migrating then s.sysDone i w [7]
  else
    ({ s with masks := ms, oldMasks := s.masks, hashVer := (s.hashVer + 1) % 16, migrating := true, moved := [], staging := [] }
      : State).sysDone i w [0]

/-- `HASHVER` completes, with the set that it has read. A fault of a read that had to wait is an asynchronous record, with
status 6 (log 74). -/
def State.hashverDo (s : State) (i : Nat) (w : TWord) : State :=
  let o := s.op i
  if o.held.isSome || o.wo.isSome then s
  else if o.args.length != 3 then s.install i w o.args
  else
    let index := o.args.getD 1 0
    let v := s.readMasks (s.opReq i 0) { bits := o.args.getD 0 0, index := index } (o.args.getD 2 0)
    match v.1 with
    | .ok bs _ => v.2.install i w (masksOf bs)
    | .wait t => v.2.modOp i fun o => { o with wo := some t }
    | .held f => (v.2.opRecord o f.kind (index % 2 ^ 16) f.va f.detail).sysDone i w [6]
    | .post f => (v.2.opRecord o f.kind (index % 2 ^ 16) f.va f.detail).sysDone i w [6]

end Sys2Proof.Machine
end

