-- ==== Sys2Proof/Machine/Dump.lean ====
section
/-! DEFINITION. `DUMP` (R411, R438): the core dump of a halted scene, its header (R445), its four sections (R446) and the
faults met while they are read (R447). -/

namespace Sys2Proof.Machine

/-- Pad bytes with zeros to a multiple of 128. -/
def padLine (bs : List Byte) : List Byte := bs ++ List.replicate ((128 - bs.length % 128) % 128) 0

/-- A section as it is read: its bytes, and the faults met, each with the thread whose state was read and the offset. -/
structure DumpPart where
  bytes  : List Byte
  faults : List (Option Nat × Nat)
  deriving DecidableEq, Repr, Inhabited

/-- Join two parts; the offsets of the second count on from the first. -/
def DumpPart.join (a b : DumpPart) : DumpPart :=
  { bytes := a.bytes ++ b.bytes, faults := a.faults ++ b.faults.map fun f => (f.1, f.2 + a.bytes.length) }

/-- Where a thread stands inside a clause: the address of its word and its position there (R55). -/
def State.midClause (s : State) (th : Nat) : Option (DWord × Nat) :=
  let t := s.thread th
  match t.place with
  | .take k => match (s.take k).st with
    | .suspended | .kept | .saved true => some ((s.take k).wordPc, (s.take k).pos)
    | _ => none
  | _ => if t.mid then some (t.pc, t.wpos) else none

/-- The control line of a thread (R55). -/
def State.controlLine (s : State) (th : Nat) : List Byte :=
  let t := s.thread th
  let m := s.midClause th
  let pc := match m, t.place with
    | some x, _ => x.1
    | none, .take k => (s.take k).pc
    | none, _ => t.pc
  let mem := (s.castOf th).map fun i => (s.cast i, ((s.cast i).member th).getD default)
  leBytes 128 <| packFields <|
    (t.o.toList.map fun x => (32, x.toNat)) ++ [(64, pc.toNat), (8, t.p.toNat / 2 * 2 + 1)] ++
    [(4, (m.map Prod.snd).getD 0), (1, b2n m.isSome), (19, 0)] ++ (t.cue.toList.map fun c => (8, c)) ++
    [(32, t.fpsr.toNat), (32, t.rgnCnt.toNat), (64, t.rgnPc.toNat), (32, t.tid), (11, t.slot), (21, 0)] ++
    [(32, (mem.map fun x => x.1.key.toNat).getD 0), (32, (mem.map fun x => x.2.rank).getD 0xFFFFFFFF)] ++
    [(1, b2n t.helper), (1, b2n mem.isSome), (1, b2n t.exited), (1, b2n t.parked), (1, b2n t.halted), (1, 0)] ++
    (t.latch.toList.map fun b => (64, if m.isSome then b.toNat else 0))

/-- A data line of a thread (R52): the words beyond the scene's register count are zero (R451). -/
def State.dataLine (s : State) (th k : Nat) : List Byte :=
  let t := s.thread th
  (List.range 32).flatMap fun i => leBytes 4 (if 32 * k + i < t.v.length then (t.reg (32 * k + i)).toNat else 0)

/-- 128 bytes that the dump reads, or zeros and a fault where they are in error (R447). -/
def dumpLine (th : Option Nat) (bad : Bool) (bs : List Byte) : DumpPart :=
  if bad then { bytes := List.replicate 128 0, faults := [(th, 0)] } else { bytes := bs, faults := [] }

/-- The image of one thread: its control line, which holds the words in error from `controlWord 0` on, and its data lines. -/
def State.dumpThread (s : State) (th lines : Nat) : DumpPart :=
  let bad := (s.thread th).bad
  (List.range lines).foldl (fun (p : DumpPart) k =>
    p.join (dumpLine (some th) (bad.any fun r => r / 32 == k) (s.dataLine th k)))
    (dumpLine (some th) (bad.any fun r => controlWord 0 ≤ r) (s.controlLine th))

/-- The register section (R446). -/
def State.dumpRegs (s : State) (sc : Nat) : DumpPart :=
  let c := s.scene sc
  let ths := (s.liveThreads sc).mergeSort fun a b => (s.thread a).slot ≤ (s.thread b).slot
  ths.foldl (fun (p : DumpPart) th => p.join (s.dumpThread th ((c.regs + 31) / 32)))
    { bytes := c.uni.toList.flatMap fun x => leBytes 4 x.toNat, faults := [] }

/-- The lines of the scratchpad section in order: allocation, front bank, back bank. -/
def Scene.dumpLines (c : Scene) : List Nat :=
  let run := fun (a n : Nat) => (List.range (n / 128)).map fun i => a / 128 + i
  let b0 := run c.alloc c.win
  let b1 := run (c.alloc + c.win) c.win
  run 0 c.alloc ++ (if c.front then b1 ++ b0 else b0 ++ b1)

/-- Bits as bytes, lowest first. -/
def bitBytes (bs : List Bool) : List Byte :=
  leBytes ((bs.length + 7) / 8) (bs.foldr (fun b acc => b2n b + 2 * acc) 0)

/-- The scratchpad section (R446). -/
def Scene.dumpSpad (c : Scene) : DumpPart :=
  let ls := c.dumpLines
  let p := ls.foldl (fun (p : DumpPart) l =>
    p.join (dumpLine none (c.bad.any fun w => w / 32 == l) (c.sp.readN (128 * l) 128))) { bytes := [], faults := [] }
  p.join { bytes := bitBytes (ls.flatMap fun l => [!c.empty.contains l, c.poison.contains l]), faults := [] }

/-- The entry of a cast (R446). -/
def castEntry (c : Cast) (core : Nat) : List Byte :=
  let cnt := fun (p : Member → Bool) => (c.members.filter p).length
  leBytes 32 <| packFields [(32, c.key.toNat), (32, c.members.length), (32, c.phase), (32, cnt fun m => m.arrived == some c.phase),
    (32, cnt fun m => m.since ≤ c.phase), (16, c.nums.foldl (fun acc x => acc + 2 ^ x.1) 0), (4, (c.numOf core).getD 0),
    (1, b2n (c.members.any fun m => m.arrived == some c.phase && m.swap)),
    (1, b2n (c.members.any fun m => m.arrived == some c.phase && m.pack))]

/-- The cast section, in ascending key order. -/
def State.dumpCasts (s : State) (sc : Nat) : List Byte :=
  ((s.castsOf sc).mergeSort fun a b => (s.cast a).key.toNat ≤ (s.cast b).key.toNat).flatMap fun i =>
    castEntry (s.cast i) (s.scene sc).core

/-- The slots of a fault ring that hold records, in posting order, with the runs that lie in one line of memory put together. -/
def lineRuns : List Nat → List (List Nat)
  | [] => []
  | a :: rest => match lineRuns rest with
    | [] => [[a]]
    | r :: rs => if (r.headD 0) / 128 == a / 128 then (a :: r) :: rs else [a] :: r :: rs

/-- The fault section: the records of the scene in its context's queue or held for it, in posting order. DEDUCED (log 82): a
line of the queue that cannot be read (R371) stands there as 128 zero bytes, since which of its records are the scene's is not
known. -/
def State.dumpFaults (s : State) (sc : Nat) : DumpPart :=
  let c := s.scene sc
  let x := s.ctx c.ctx
  let ring := (List.range (x.fqTail - x.fqHead)).map fun i => x.fqBase + 32 * ((x.fqHead + i) % 2 ^ x.fqLog2)
  let mine := fun (a : Nat) => bitsOf (leNat (s.mem.readN a 32)) 95 64 == c.sid.toNat
  let p := (lineRuns ring).foldl (fun (p : DumpPart) run =>
    p.join (dumpLine none (s.linePsn (run.headD 0 / 128)) ((run.filter mine).flatMap fun a => s.mem.readN a 32)))
    { bytes := [], faults := [] }
  let kept := s.held.filter fun h => h.queue == c.ctx && h.fault.scene == c.sid.toNat
  p.join { bytes := kept.flatMap fun h => leBytes 32 h.fault.bits, faults := [] }

/-- THE DUMP OF A SCENE (R445 to R447): every byte of it. -/
def State.dumpBytes (s : State) (sc : Nat) : List Byte :=
  let c := s.scene sc
  let regs := s.dumpRegs sc
  let spad := c.dumpSpad
  let casts := s.dumpCasts sc
  let flts := s.dumpFaults sc
  let spOff := 128 + (padLine regs.bytes).length
  let caOff := spOff + (padLine spad.bytes).length
  let flOff := caOff + (padLine casts).length
  let faults := (regs.faults.map fun f => (f.1, 1, f.2)) ++ (spad.faults.map fun f => (f.1, 2, f.2)) ++
    (flts.faults.map fun f => (f.1, 4, f.2))
  let first := match faults with
    | [] => 0
    | (th, sec, off) :: _ => ({ s.blankRec 0x0C 0 (sec * 2 ^ 28 + off) with
        lane := (th.map fun i => (s.thread i).colour).getD 0x3F, tid := (th.map fun i => (s.thread i).tid).getD 0xFFF
        scene := c.sid.toNat } : FaultRec).bits
  let hdr := packFields [(32, 0x504D5544), (8, 1), (1, b2n c.arr), (1, b2n c.quad), (1, b2n (c.st != .resident)), (21, 0),
    (32, c.ctx), (32, c.sid.toNat), (12, (s.liveThreads sc).length), (12, c.cap), (9, c.regs), (31, 0), (32, 128),
    (32, regs.bytes.length), (32, spOff), (32, spad.bytes.length), (32, caOff), (32, casts.length), (32, flOff),
    (32, flts.bytes.length), (32, faults.length), (32, 0), (256, first)]
  leBytes 128 hdr ++ padLine regs.bytes ++ padLine spad.bytes ++ padLine casts ++ flts.bytes

/-- Whether a dump can be written, line by line: the first fault of a translation under its buffer's class (R359), a page that
R438 forbids, a write-once line that refuses the write (R87), or none. -/
def State.dumpTarget (s : State) (r : Req) (b : BufRef) (va n ctx : Nat) : Option FaultInfo × State :=
  (lineSpans va n).foldl (fun (acc : Option FaultInfo × State) sp => match acc.1 with
    | some _ => acc
    | none =>
      let q := acc.2.translate r sp.1 true false (some (recPlace b.bits))
      match q.1 with
      | .error f => (some f, q.2)
      | .ok x =>
        (if q.2.lcs == 1 && tagOwner (q.2.frameTag (frameOf x.pa)) != ctx then some { kind := 2, va := sp.1, detail := 0x0900 }
          else if x.cm == 2 && sp.2 != 128 then some { kind := 8, va := sp.1, detail := 0 }
          else if x.cm == 2 && x.pkg == q.2.pkgId && q.2.lineWr (lineOf x.pa) then some { kind := 7, va := sp.1, detail := 0 }
          else none, q.2)) (none, s)

/-- Write the bytes of a dump, a line at a time. -/
def State.dumpWrite (s : State) (r : Req) (b : BufRef) (va : Nat) (bs : List Byte) : State :=
  (lineSpans va bs.length).foldl (fun (s : State) sp =>
    (s.engineWrite r b (((bs.drop (sp.1 - va)).take sp.2).zipIdx.map fun x => (sp.1 + x.2, x.1)) false).2) s

/-- The status of a dump: 3 while a live thread is not halted or an operation is under way (R411). -/
def State.dumpStatus (s : State) (ctx sid : Nat) : Nat :=
  match s.sceneStatus ctx sid false, s.sceneById ctx sid with
  | some st, _ => st
  | none, none => 2
  | none, some sc =>
    if (s.liveThreads sc).all (fun th => (s.thread th).halted) && (s.opsOf [sc]).isEmpty then 0 else 3

/-- `DUMP` (R411). -/
def execDump (w : TWord) (s : State) : Out :=
  sysWord (.dump w) s [(w.a, 1), (w.b, 1), (w.c, 2)] fun x s th =>
    let ctx := (s.opnd th w.a).toNat
    let sid := (s.opnd th w.b).toNat
    let p := ((s.opndWord th w.c 0).toNat, (s.opndWord th w.c 1).toNat)
    let buf := p.1 % 2 ^ 16
    let st := s.dumpStatus ctx sid
    let done := fun (s : State) (st n : Nat) =>
      WordRes.done (x.start s [] (sameWrites w.d w.nw x.lanes [BitVec.ofNat 32 st, BitVec.ofNat 32 n]))
    if st != 0 then done s st 0
    else
      let r := x.req s
      let q := s.bufRecord r p.1
      match q.1 with
      | .error f => onceFault x q.2 f.kind buf f.va f.detail
      | .ok rec1 =>
        let va := recBase rec1 + p.2
        let bs := s.dumpBytes ((s.sceneById ctx sid).getD 0)
        if p.2 % 128 != 0 then onceFault x q.2 5 buf 0 0
        else if !recAllows r.ctx rec1 1 then onceFault x q.2 2 buf 0 0
        else if recExtent rec1 < p.2 + bs.length then onceFault x q.2 3 buf 0 0
        else
          let r := { r with who := some (s.threadReader th) }
          let b : BufRef := { bits := rec1, index := p.1 }
          let t := q.2.dumpTarget r b va bs.length ctx
          match t.1 with
          | some f => onceFault x t.2 f.kind buf f.va f.detail
          | none => done (t.2.dumpWrite r b va bs) 0 bs.length

end Sys2Proof.Machine
end

