-- ==== Sys2Proof/Machine/Coding.lean ====
section
/-! DEFINITION. Coded surfaces in memory: header, directory and records (R316 to R324), reconstruction, the motion search
(R351, R353) and the choice of records that a seal makes (R335, R336). -/

namespace Sys2Proof.Machine

/-- Work on a surface: it can meet a fault, and it changes the state. -/
abbrev SurfM := ExceptT FaultInfo (StateM State)

/-- A surface fault with a detail: PROT, or DATA. -/
def surfProt (d : Nat) : FaultInfo := { kind := 2, va := 0, detail := d }
def surfData (d : Nat) : FaultInfo := { kind := 0x0C, va := 0, detail := d }

/-! ## Bytes of a surface's buffer -/

/-- A buffer as the Surface Unit uses it: who asks, and the record. -/
structure SurfBuf where
  req : Req
  ref : BufRef
  deriving DecidableEq, Repr, Inhabited

/-- Every page of a surface's buffer must be RC (R316). -/
def SurfBuf.pageCheck (b : SurfBuf) (va : Nat) (write : Bool) (d : Nat) : SurfM Unit := do
  let s ← get
  let q := s.translate b.req va write false (some (recPlace b.ref.bits))
  set q.2
  match q.1 with
  | .error f => throw f
  | .ok x => if x.cm != 1 then throw (surfProt d)

/-- Bytes at an offset of the buffer. -/
def SurfBuf.get (b : SurfBuf) (off n d : Nat) : SurfM (List Byte) := do
  let va := recBase b.ref.bits + off
  for sp in lineSpans va n do
    b.pageCheck sp.1 false d
  let s ← MonadState.get
  let q := s.engineSpan b.req b.ref va n
  set q.2
  match q.1 with
  | .ok bs psn =>
    set (q.2.unitWatch b.req b.ref ((List.range n).map (va + ·)) false)
    if psn then throw { kind := 0x0C, va := va, detail := 0 } else return bs
  | .held f => throw f
  | .post f => throw f
  | .wait w => throw { kind := 8, va := w.va, detail := 0 }

/-- Work that takes effect as a whole: a fault leaves nothing of it but the free values that it used. -/
def indivisible {α : Type} (m : SurfM α) : SurfM α := do
  let s ← MonadState.get
  let q := m.run s
  match q.1 with
  | .ok a =>
    set q.2
    return a
  | .error f =>
    set { s with freeIx := q.2.freeIx }
    throw f

/-- Store bytes at an offset of the buffer. -/
def SurfBuf.put (b : SurfBuf) (off : Nat) (bs : List Byte) (d : Nat) : SurfM Unit := do
  let va := recBase b.ref.bits + off
  for sp in lineSpans va bs.length do
    b.pageCheck sp.1 true d
    let s ← MonadState.get
    let cells := ((bs.drop (sp.1 - va)).take sp.2).zipIdx.map fun x => (sp.1 + x.2, x.1)
    let q := s.engineWrite b.req b.ref cells false
    set q.2
    match q.1 with
    | .ok _ _ => set (q.2.unitWatch b.req b.ref (cells.map Prod.fst) true)
    | .held f => throw f
    | .post f => throw f
    | .wait w => throw { kind := 8, va := w.va, detail := 0 }

/-- A record with rights, checked as R326 says: bit 0 of `rights` read, bit 1 write. -/
def openBuf (r : Req) (index rights : Nat) : SurfM SurfBuf := do
  let s ← get
  let q := s.bufRecord r index
  set q.2
  match q.1 with
  | .error f => throw f
  | .ok bits =>
    if (bitOf rights 0 && !recAllows r.ctx bits 0) || (bitOf rights 1 && !recAllows r.ctx bits 1) then throw (surfProt 0)
    else return { req := r, ref := { bits := bits, index := index } }

/-! ## The header (R317, R318) -/

/-- A surface: its buffer and its header as one number. -/
structure Surf where
  buf : SurfBuf
  hdr : Nat
  deriving DecidableEq, Repr, Inhabited

def Surf.fmt (x : Surf) : Nat := bitsOf x.hdr 3 0
def Surf.w (x : Surf) : Nat := bitsOf x.hdr 21 8 + 1
def Surf.h (x : Surf) : Nat := bitsOf x.hdr 35 22 + 1
def Surf.lossless (x : Surf) : Bool := bitOf x.hdr 36
def Surf.dirOff (x : Surf) : Nat := bitsOf x.hdr 95 64
def Surf.slabOff (x : Surf) : Nat := bitsOf x.hdr 127 96
def Surf.slabSize (x : Surf) : Nat := bitsOf x.hdr 159 128
def Surf.spillOff (x : Surf) : Nat := bitsOf x.hdr 191 160
def Surf.spillSize (x : Surf) : Nat := bitsOf x.hdr 223 192
def Surf.budget (x : Surf) : Nat := bitsOf x.hdr 255 224
def Surf.hintOff (x : Surf) : Nat := bitsOf x.hdr 287 256
def Surf.gen (x : Surf) : Nat := bitsOf x.hdr 319 288
def Surf.state (x : Surf) : Nat := bitsOf x.hdr 327 320
def Surf.depth (x : Surf) : Nat := bitsOf x.hdr 329 328
def Surf.bank (x : Surf) : Nat := bitsOf x.hdr 330 330
def Surf.spillUsed (x : Surf) : Nat := bitsOf x.hdr 383 352
def Surf.slabUsed (x : Surf) : Nat := bitsOf x.hdr 415 384
def Surf.refIdx (x : Surf) (i : Nat) : Nat := bitsOf x.hdr (431 + 16 * i) (416 + 16 * i)
def Surf.refGen (x : Surf) (i : Nat) : Nat := bitsOf x.hdr (511 + 32 * i) (480 + 32 * i)

/-- TW, TH, NT, NP and DIRSIZE. -/
def Surf.tw (x : Surf) : Nat := (x.w + 15) / 16
def Surf.th (x : Surf) : Nat := (x.h + 15) / 16
def Surf.nt (x : Surf) : Nat := x.tw * x.th
def Surf.np (x : Surf) : Nat := if x.fmt == 2 then 4 else 1
def Surf.dirSize (x : Surf) : Nat := 64 * x.np * x.nt

/-- Sample depth of a plane (R319). -/
def Surf.dep (x : Surf) (c : Nat) : Nat := if x.fmt == 0 then 8 else if x.fmt == 1 then 10 else if c == 0 || c == 3 then 8 else 10

/-- The header is invalid (R318). -/
def Surf.bad (x : Surf) : Bool :=
  let h := x.hdr
  let areas := [(0, 128), (x.dirOff, 2 * x.dirSize), (x.slabOff, 2 * x.slabSize), (x.spillOff, x.spillSize),
    (x.hintOff, 128 * x.nt)]
  2 < x.fmt || 3 < x.state || bitsOf h 7 4 != 0 || bitsOf h 63 37 != 0 || bitsOf h 351 331 != 0 || bitsOf h 1023 608 != 0 ||
    x.dirOff % 64 != 0 || x.slabOff % 16 != 0 || x.slabSize % 16 != 0 || x.spillOff % 64 != 0 ||
    x.spillSize % 64 != 0 || 64 * 65535 < x.spillSize || x.hintOff % 8 != 0 ||
    (areas.any fun a => recExtent x.buf.ref.bits < a.1 + a.2) ||
    (areas.zipIdx.any fun a => areas.zipIdx.any fun b =>
      a.2 < b.2 && a.1.2 != 0 && b.1.2 != 0 && a.1.1 < b.1.1 + b.1.2 && b.1.1 < a.1.1 + a.1.2)

/-- Read a surface's header at its home slice (R324); none where it is invalid. -/
def readSurf (r : Req) (index rights : Nat) : SurfM (Option Surf) := do
  let b ← openBuf r index rights
  if recExtent b.ref.bits < 128 then return none
  let hb ← b.get 0 128 0x0400
  let x : Surf := { buf := b, hdr := leNat hb }
  return if x.bad then none else some x

/-- Read a surface's header; an invalid one is PROT 0x0400 (R318). -/
def openSurf (r : Req) (index rights : Nat) : SurfM Surf := do
  match ← readSurf r index rights with
  | some x => return x
  | none => throw (surfProt 0x0400)

/-- Bytes of a surface, and stores into it. -/
def Surf.get (x : Surf) (off n : Nat) : SurfM (List Byte) := x.buf.get off n 0x0400
def Surf.put (x : Surf) (off : Nat) (bs : List Byte) : SurfM Unit := x.buf.put off bs 0x0400

/-- Store a field of the header, whole bytes from `lo` on. -/
def Surf.putField (x : Surf) (lo n v : Nat) : SurfM Unit := x.put (lo / 8) (leBytes n v)

/-- Store STATE; store DEPTH and BANK. -/
def Surf.putState (x : Surf) (st : Nat) : SurfM Unit := x.putField 320 1 st
def Surf.putDepth (x : Surf) (depth bank : Nat) : SurfM Unit := x.putField 328 1 (depth + 4 * bank)

/-! ## Planes (R319) -/

/-- The planes of a pixel, and the pixel of planes. -/
def toPlanes (p : Nat) : List Nat :=
  let r : Int := (p % 256 : Nat)
  let g : Int := (p / 2 ^ 8 % 256 : Nat)
  let b : Int := (p / 2 ^ 16 % 256 : Nat)
  let co := r - b
  let t := b + co / 2
  let cg := g - t
  let y := t + cg / 2
  [y.toNat, (co + 512).toNat, (cg + 512).toNat, p / 2 ^ 24 % 256]

def clamp255 (x : Int) : Nat := (max 0 (min 255 x)).toNat

def fromPlanes (ps : List Nat) : Nat :=
  let at1 := fun (k : Nat) => ((ps.getD k 0 : Nat) : Int)
  let co := at1 1 - 512
  let cg := at1 2 - 512
  let t := at1 0 - cg / 2
  let b := t - co / 2
  clamp255 (b + co) + clamp255 (cg + t) * 2 ^ 8 + clamp255 b * 2 ^ 16 + ps.getD 3 0 % 256 * 2 ^ 24

/-! ## Directory entries and records (R320 to R322) -/

/-- A tile directory entry as a number, its place, and whether it is invalid. -/
def Surf.entryAt (x : Surf) (bank c t : Nat) : Nat := x.dirOff + bank * x.dirSize + 64 * (c * x.nt + t)
def entSlab (e : Nat) : Nat := bitsOf e 31 0
def entBytes (e : Nat) : Nat := bitsOf e 47 32
def entQ (e : Nat) : Nat := bitsOf e 53 48
def entSpill (e i : Nat) : Bool := bitOf e (64 + i)
def entImpl (e i : Nat) : Bool := bitOf e (80 + i)
def entOff (e i : Nat) : Nat := bitsOf e (111 + 16 * i) (96 + 16 * i)
def entBad (e : Nat) : Bool := 47 < entQ e || bitsOf e 63 54 != 0 || bitsOf e 511 352 != 0 || entSlab e % 16 != 0

/-- The entry of a tile in the current bank. -/
def Surf.entry (x : Surf) (c t : Nat) : SurfM Nat := do return leNat (← x.get (x.entryAt x.bank c t) 64)

/-- A block record. -/
structure BlockRec where
  kind  : Nat
  ref   : Nat
  value : Nat
  samples : List Nat
  mvx   : Int
  mvy   : Int
  coefs : List (Nat × Int)
  size  : Nat
  deriving DecidableEq, Repr, Inhabited

/-- Bytes of a record of a kind with N coefficients (R321). -/
def recSize (kind dep n : Nat) : Nat :=
  match kind with
  | 0 => 4
  | 1 => if dep == 8 then 18 else 34
  | 2 => 4 + 2 * n
  | 3 => 6
  | _ => 6 + 2 * n

/-- A record from its bytes; none where it is invalid (R321). `filled` tells whether a slot names a reference. -/
def parseRec (dep : Nat) (filled : Nat → Bool) (bs : List Byte) : Option BlockRec :=
  let byte := fun (k : Nat) => (bs.getD k 0).toNat
  let half := fun (k : Nat) => byte k + 256 * byte (k + 1)
  let kind := byte 0 % 8
  let ref := byte 0 / 8 % 4
  let n := byte 1
  let coded := kind == 2 || kind == 4
  let moved := kind == 3 || kind == 4
  let base := if kind == 2 then 4 else 6
  let coefs := if coded then (List.range n).map fun k => (half (base + 2 * k) % 16, sextN (half (base + 2 * k) / 16) 12) else []
  let samples := if kind == 1 then (List.range 16).map fun k => if dep == 8 then byte (2 + k) else half (2 + 2 * k) else []
  let rec1 : BlockRec := { kind := kind, ref := ref, value := half 2, samples := samples
                           mvx := if moved then sextN (half 2) 16 else 0, mvy := if moved then sextN (half 4) 16 else 0
                           coefs := coefs, size := recSize kind dep n }
  let ok := kind < 5 && byte 0 / 32 == 0 && (moved || ref == 0) &&
    (if coded then 1 ≤ n && n ≤ 16 else n == 0) &&
    ((kind != 0 && kind != 2) || half 2 < 2 ^ dep) &&
    (samples.all fun v => v < 2 ^ dep) &&
    (coefs.all fun c => c.2 != 0) &&
    ((coefs.zip (coefs.drop 1)).all fun p => p.1.1 < p.2.1) &&
    rec1.mvx.natAbs ≤ 8192 && rec1.mvy.natAbs ≤ 8192 &&
    (!moved || filled ref)
  if ok then some rec1 else none

/-- The record that an entry gives for a block, with its quantiser (R324). -/
def Surf.record (x : Surf) (c e i : Nat) : SurfM (BlockRec × Nat) := do
  let spill := entSpill e i
  let at1 := if spill then x.spillOff + 64 * entOff e i + 4 else x.slabOff + x.bank * x.slabSize + entSlab e + entOff e i
  let q ← if spill then do
      if recExtent x.buf.ref.bits < at1 then throw (surfData 0x0404)
      let b ← x.get (at1 - 4) 1
      pure (leNat b)
    else pure (entQ e)
  if recExtent x.buf.ref.bits < at1 + 2 then throw (surfData 0x0404)
  let head ← x.get at1 2
  let n := recSize ((head.getD 0 0).toNat % 8) (x.dep c) (min 16 (head.getD 1 0).toNat)
  if recExtent x.buf.ref.bits < at1 + n then throw (surfData 0x0404)
  let bs ← x.get at1 n
  match parseRec (x.dep c) (fun r => x.refIdx r != 0xFFFF) bs with
  | none => throw (surfData 0x0404)
  | some r => if 47 < q then throw (surfData 0x0404) else return (r, q)

/-! ## Reconstruction (R324) -/

/-- The quantiser's step. -/
def stepOf (q : Nat) : Nat := [8, 9, 10, 11, 13, 14].getD (q % 6) 8 * 2 ^ (q / 6)

/-- The sequency-ordered matrix H. -/
def hadamard (v u : Nat) : Int :=
  ([[1, 1, 1, 1], [1, 1, -1, -1], [1, -1, -1, 1], [1, -1, 1, -1]].getD v []).getD u (0 : Int)

/-- The residual of coefficients at a sample of the block. -/
def resid (coefs : List (Nat × Int)) (q xi yj : Nat) : Int :=
  (coefs.foldl (fun acc c => acc + hadamard (c.1 / 4) yj * (c.2 * (stepOf q : Int)) * hadamard (c.1 % 4) xi) 0 + 8) / 16

/-- Clamp a sample to its depth. -/
def clampDep (dep : Nat) (x : Int) : Nat := (max 0 (min (2 ^ dep - 1) x)).toNat

/-- Edge replication. -/
def clampTo (n : Nat) (t : Int) : Nat := (max 0 (min ((n : Int) - 1) t)).toNat

/-- The surface in a reference slot, as a reconstruction meets it (R318, R324). -/
def Surf.reference (x : Surf) (r : Nat) : SurfM Surf := do
  let y ← openSurf x.buf.req (x.refIdx r) 1
  if y.gen != x.refGen r || y.state != 3 then throw (surfData 0x0405)
  return y

/-- A sample that a record gives at a pixel of its block; `ref` gives the samples of a reference. -/
def Surf.recSample (x : Surf) (c : Nat) (r : BlockRec) (q px py : Nat) (ref : Surf → Nat → Nat → SurfM Nat) : SurfM Nat := do
  let xi := px % 4
  let yj := py % 4
  let pred : SurfM Nat := do
    let y ← x.reference r.ref
    let qx := 4 * (px : Int) + r.mvx
    let qy := 4 * (py : Int) + r.mvy
    let fx := (qx % 4).toNat
    let fy := (qy % 4).toNat
    let ix := qx / 4
    let iy := qy / 4
    let a ← ref y (clampTo x.w ix) (clampTo x.h iy)
    let b ← ref y (clampTo x.w (ix + 1)) (clampTo x.h iy)
    let d ← ref y (clampTo x.w ix) (clampTo x.h (iy + 1))
    let f ← ref y (clampTo x.w (ix + 1)) (clampTo x.h (iy + 1))
    return ((4 - fx) * (4 - fy) * a + fx * (4 - fy) * b + (4 - fx) * fy * d + fx * fy * f + 8) / 16
  match r.kind with
  | 0 => return r.value
  | 1 => return r.samples.getD (4 * yj + xi) 0
  | 2 => return clampDep (x.dep c) (r.value + resid r.coefs q xi yj)
  | 3 => pred
  | _ => do
    let p ← pred
    return clampDep (x.dep c) (p + resid r.coefs q xi yj)

/-- The record of a block with its quantiser, or none where the entry says that the block is implicit. -/
def Surf.blockRec (x : Surf) (c bx by1 : Nat) : SurfM (Option (BlockRec × Nat)) := do
  let e ← x.entry c (by1 / 4 * x.tw + bx / 4)
  if entBad e then throw (surfData 0x0404)
  let i := bx % 4 + 4 * (by1 % 4)
  if entImpl e i then return none
  let r ← x.record c e i
  return some r

/-- A sample of a plane; the fuel is the number of surfaces that the chain may still hold, three with the loaded one
(R324). -/
def Surf.sampleIn : Nat → Surf → Nat → Nat → Nat → SurfM Nat
  | 0, _, _, _, _ => throw (surfData 0x0405)
  | n + 1, x, c, px, py => do
    match ← x.blockRec c (px / 4) (py / 4) with
    | none => return 0
    | some r =>
      if n == 0 && (r.1.kind == 3 || r.1.kind == 4) then throw (surfData 0x0405)
      x.recSample c r.1 r.2 px py fun y a b => Surf.sampleIn n y c a b

/-- sample(S, c, x, y) (R324). -/
def Surf.sample (x : Surf) (c px py : Nat) : SurfM Nat := x.sampleIn 3 c px py

/-- pred(S, r, c, X, Y) in quarter samples (R324). -/
def Surf.pred (x : Surf) (r c : Nat) (qx qy : Int) : SurfM Nat := do
  let y ← x.reference r
  let fx := (qx % 4).toNat
  let fy := (qy % 4).toNat
  let ix := qx / 4
  let iy := qy / 4
  let a ← Surf.sampleIn 2 y c (clampTo x.w ix) (clampTo x.h iy)
  let b ← Surf.sampleIn 2 y c (clampTo x.w (ix + 1)) (clampTo x.h iy)
  let d ← Surf.sampleIn 2 y c (clampTo x.w ix) (clampTo x.h (iy + 1))
  let f ← Surf.sampleIn 2 y c (clampTo x.w (ix + 1)) (clampTo x.h (iy + 1))
  return ((4 - fx) * (4 - fy) * a + fx * (4 - fy) * b + (4 - fx) * fy * d + fx * fy * f + 8) / 16

/-- A reference that R323 finds usable for a surface: sealed, alike, shallow, and of the generation stored. -/
def Surf.refUsable (x : Surf) (r : Nat) (depth : Nat) : SurfM Bool := do
  if x.refIdx r == 0xFFFF then return false
  let s ← MonadState.get
  let q := (openSurf x.buf.req (x.refIdx r) 1).run s
  set q.2
  match q.1 with
  | .error f => if f.kind == 2 && f.detail / 256 != 6 then return false else throw f
  | .ok y =>
    return y.gen == x.refGen r && y.state == 3 && y.fmt == x.fmt && y.w == x.w && y.h == x.h && y.depth ≤ depth

/-- The samples of a plane block, in raster order: its entry and its record are read once. -/
def Surf.blockSamples (x : Surf) (c bx by1 : Nat) : SurfM (List Nat) := do
  match ← x.blockRec c bx by1 with
  | none => return List.replicate 16 0
  | some r => (List.range 16).mapM fun k =>
      x.recSample c r.1 r.2 (4 * bx + k % 4) (4 * by1 + k / 4) fun y a b => y.sampleIn 2 c a b

/-! ## The motion search (R351) -/

/-- The better of two scored vectors (SAD, vx, vy): least SAD, then smaller |vx| + |vy|, then vy, then vx. -/
def betterMv (a b : Nat × Int × Int) : Nat × Int × Int :=
  let ka := a.2.1.natAbs + a.2.2.natAbs
  let kb := b.2.1.natAbs + b.2.2.natAbs
  if b.1 < a.1 then b else if a.1 < b.1 then a
  else if kb < ka then b else if ka < kb then a
  else if b.2.2 < a.2.2 then b else if a.2.2 < b.2.2 then a
  else if b.2.1 < a.2.1 then b else a

/-- The best of candidate vectors by a score. -/
def bestMv (cands : List (Int × Int)) (score : Int × Int → SurfM Nat) : SurfM (Nat × Int × Int) := do
  let mut best : Option (Nat × Int × Int) := none
  for v in cands do
    let k ← score v
    best := some (match best with
      | none => (k, v)
      | some b => betterMv b (k, v))
  return best.getD (0, 0, 0)

/-- The vectors within a radius of a centre, by a step. -/
def around (cx cy : Int) (rad : Nat) (unit : Int) : List (Int × Int) :=
  let at1 := fun (c : Int) (k : Nat) => c + unit * ((k : Int) - (rad : Int))
  (List.range (2 * rad + 1)).flatMap fun j => (List.range (2 * rad + 1)).map fun i => (at1 cx i, at1 cy j)

/-- |a − b| of samples. -/
def absDiff (a b : Nat) : Nat := if a < b then b - a else a - b

/-- A level of the pyramid over a plane of size w × h (R351). -/
def pyramid (l0 : Int → Int → SurfM Nat) (w h : Nat) : Nat → Int → Int → SurfM Nat
  | 0, px, py => l0 (clampTo w px) (clampTo h py)
  | k + 1, px, py => do
    let wk := (w + 2 ^ k - 1) / 2 ^ k
    let hk := (h + 2 ^ k - 1) / 2 ^ k
    let x0 : Int := clampTo wk (2 * px)
    let x1 : Int := clampTo wk (2 * px + 1)
    let y0 : Int := clampTo hk (2 * py)
    let y1 : Int := clampTo hk (2 * py + 1)
    let a ← pyramid l0 w h k x0 y0
    let b ← pyramid l0 w h k x1 y0
    let c ← pyramid l0 w h k x0 y1
    let d ← pyramid l0 w h k x1 y1
    return (a + b + c + d + 2) / 4

/-- Blocks of plane 0 of CUR, each read once (R351), and a sample among them. -/
abbrev CurBlocks := List ((Nat × Nat) × List Nat)
def Surf.curBlocks (x : Surf) (blocks : List (Nat × Nat)) : SurfM CurBlocks :=
  blocks.mapM fun b => do return (b, ← x.blockSamples 0 b.1 b.2)
def CurBlocks.block (g : CurBlocks) (bx by1 : Nat) : List Nat :=
  ((g.find? fun e => e.1 == (bx, by1)).map Prod.snd).getD []
def CurBlocks.sample (g : CurBlocks) (px py : Nat) : Nat := (g.block (px / 4) (py / 4)).getD (px % 4 + 4 * (py % 4)) 0

/-- The blocks of the tiles that some blocks lie in, as far as the surface goes. -/
def Surf.tileBlocks (x : Surf) (blocks : List (Nat × Nat)) : List (Nat × Nat) :=
  ((blocks.map fun b => (b.1 / 4, b.2 / 4)).eraseDups.flatMap fun t =>
    (List.range 16).map fun k => (4 * t.1 + k % 4, 4 * t.2 + k / 4)).filter fun b =>
      b.1 < (x.w + 3) / 4 && b.2 < (x.h + 3) / 4

/-- SAD of a block of CUR at a vector in quarter samples. -/
def Surf.blockSad (x : Surf) (r : Nat) (src : List Nat) (bx by1 : Nat) (mv : Int × Int) : SurfM Nat := do
  let mut sum := 0
  for k in List.range 16 do
    let p ← x.pred r 0 (4 * (4 * bx + k % 4 : Nat) + mv.1) (4 * (4 * by1 + k / 4 : Nat) + mv.2)
    sum := sum + absDiff (src.getD k 0) p
  return sum

/-- The coarse vector of a tile, in quarter samples. -/
def Surf.coarse (x : Surf) (g : CurBlocks) (r tx ty rad : Nat) : SurfM (Int × Int) := do
  let w2 := ((x.w + 1) / 2 + 1) / 2
  let h2 := ((x.h + 1) / 2 + 1) / 2
  let cur := pyramid (fun a b => pure (g.sample a.toNat b.toNat)) x.w x.h 2
  let ref := pyramid (fun a b => x.pred r 0 (4 * a) (4 * b)) x.w x.h 2
  let own ← (List.range 16).mapM fun k => cur (clampTo w2 (4 * tx + k % 4 : Nat)) (clampTo h2 (4 * ty + k / 4 : Nat))
  let best ← bestMv (around 0 0 rad 1) fun v => do
    let mut sum := 0
    for k in List.range 16 do
      let p ← ref (clampTo w2 ((4 * tx + k % 4 : Nat) + v.1)) (clampTo h2 ((4 * ty + k / 4 : Nat) + v.2))
      sum := sum + absDiff (own.getD k 0) p
    return sum
  return (16 * best.2.1, 16 * best.2.2)

/-- The confidence of a SAD. -/
def confOf (dep sad : Nat) : Nat := 255 - min 255 (sad / 2 ^ (dep - 4))

/-- A block's vector with its SAD and whether it was refined. -/
structure MvRes where
  mv  : Int × Int
  sad : Nat
  refined : Bool
  deriving DecidableEq, Repr, Inhabited

/-- The coarse result of a block. -/
def Surf.coarseBlock (x : Surf) (g : CurBlocks) (r bx by1 rad : Nat) : SurfM MvRes := do
  let mv ← x.coarse g r (bx / 4) (by1 / 4) rad
  let sad ← x.blockSad r (g.block bx by1) bx by1 mv
  return { mv := mv, sad := sad, refined := false }

/-- The final result of a block from its coarse one. -/
def Surf.refineBlock (x : Surf) (g : CurBlocks) (r bx by1 thresh : Nat) (noref : Bool) (c : MvRes) : SurfM MvRes := do
  if noref || thresh ≤ confOf (x.dep 0) c.sad then return c
  let src := g.block bx by1
  let whole ← bestMv (around c.mv.1 c.mv.2 4 4) (x.blockSad r src bx by1)
  let fine ← bestMv (around whole.2.1 whole.2.2 3 1) (x.blockSad r src bx by1)
  return { mv := fine.2, sad := fine.1, refined := true }

/-- A result record (R351). -/
def MvRes.bytes (m : MvRes) (dep : Nat) : List Byte :=
  leBytes 8 (packFields [(16, (m.mv.1 % 2 ^ 16).toNat), (16, (m.mv.2 % 2 ^ 16).toNat), (16, min 65535 m.sad),
    (8, confOf dep m.sad), (1, b2n m.refined)])

/-! ## The choice of a seal (R335, R336) -/

/-- A block to be coded: its samples, and the motion candidate with its prediction. -/
structure CodeBlock where
  src  : List Nat
  cand : Option (Nat × Int × Int × List Nat)
  deriving DecidableEq, Repr, Inhabited

/-- Rounded to nearest, ties away from zero. -/
def divAway (y : Int) (n : Nat) : Int :=
  let q : Int := ((2 * y.natAbs + n) / (2 * n) : Nat)
  if y < 0 then -q else q

/-- The coefficients of a residual at a quantiser (R335). -/
def coefsOf (q : Nat) (res : List Int) : List (Nat × Int) :=
  (List.range 16).filterMap fun p =>
    let y := (List.range 16).foldl (fun acc k => acc + hadamard (p / 4) (k / 4) * res.getD k 0 * hadamard (p % 4) (k % 4)) 0
    let l := max (-2047) (min 2047 (divAway y (stepOf q)))
    if l == 0 then none else some (p, l)

/-- A 16-bit field, and coefficient halfwords, of a record. -/
def half16 (x : Int) : List Byte := leBytes 2 (x % 2 ^ 16).toNat
def coefBytes (cs : List (Nat × Int)) : List Byte :=
  cs.flatMap fun c => leBytes 2 (c.1 + 16 * (c.2 % 2 ^ 12).toNat)

/-- A RAW record. -/
def rawRec (dep : Nat) (src : List Nat) : List Byte :=
  leBytes 2 1 ++ if dep == 8 then src.map fun v => BitVec.ofNat 8 v else src.flatMap fun v => leBytes 2 v

/-- A SKIP record. -/
def skipRec (ref : Nat) (mvx mvy : Int) : List Byte := leBytes 2 (3 + 8 * ref) ++ half16 mvx ++ half16 mvy

/-- The record of a block at a quantiser: the accepted candidate of fewest bytes, in the order of R335. -/
def codeBlock (dep : Nat) (lossless : Bool) (q : Nat) (b : CodeBlock) : List Byte :=
  let e := if lossless then 0 else stepOf q / 8
  let near := fun (f : Nat → Nat) => (List.range 16).all fun k => absDiff (f k) (b.src.getD k 0) ≤ e
  let v : Nat := (b.src.foldl (· + ·) 0 + 8) / 16
  let txf := coefsOf q (b.src.map fun (x : Nat) => (x : Int) - (v : Int))
  let cons := if near fun _ => v then [leBytes 2 0 ++ leBytes 2 v] else []
  let tx := if !txf.isEmpty && near (fun k => clampDep dep ((v : Int) + resid txf q (k % 4) (k / 4))) then
    [leBytes 2 (2 + 256 * txf.length) ++ leBytes 2 v ++ coefBytes txf] else []
  let (skip, inter) : List (List Byte) × List (List Byte) := match b.cand with
    | none => ([], [])
    | some (ref, mvx, mvy, pred) =>
      let cs := coefsOf q ((b.src.zip pred).map fun (x : Nat × Nat) => (x.1 : Int) - (x.2 : Int))
      (if near fun k => pred.getD k 0 then [skipRec ref mvx mvy] else [],
       if !cs.isEmpty && near (fun k => clampDep dep ((pred.getD k 0 : Int) + resid cs q (k % 4) (k / 4))) then
         [leBytes 2 (4 + 8 * ref + 256 * cs.length) ++ half16 mvx ++ half16 mvy ++ coefBytes cs] else [])
  (cons ++ skip ++ tx ++ inter).foldr (fun c best => if c.length ≤ best.length then c else best) (rawRec dep b.src)

/-- The records of a tile at a quantiser, and their size rounded up to 16. -/
def codeTile (dep : Nat) (lossless : Bool) (q : Nat) (bs : List CodeBlock) : List (List Byte) := bs.map (codeBlock dep lossless q)
def tileSize (rs : List (List Byte)) : Nat := ((rs.map List.length).foldl (· + ·) 0 + 15) / 16 * 16

/-- The quantiser of a tile under an allowance (R336). -/
def pickQ (dep : Nat) (lossless : Bool) (budget avail n : Nat) (bs : List CodeBlock) : Nat :=
  if lossless || budget == 0 then 0
  else ((List.range 48).find? fun q => tileSize (codeTile dep lossless q bs) ≤ avail / n).getD 47

/-- A tile directory entry of coded records (R320). -/
def tileEntry (slab q : Nat) (rs : List (List Byte)) : Nat :=
  let offs := (rs.foldl (fun (acc : List Nat × Nat) r => (acc.1 ++ [acc.2], acc.2 + r.length)) ([], 0)).1
  packFields ([(32, slab), (16, tileSize rs), (6, q), (10, 0), (16, 0), (16, 0)] ++ offs.map fun o => (16, o))

end Sys2Proof.Machine
end

