-- ==== Sys2Proof/Machine/Surface.lean ====
section
/-! DEFINITION. The surface instructions, opcodes 0xB0 to 0xB6 (R326 to R339), and what a seal does (R334 to R337). -/

namespace Sys2Proof.Machine

/-! ## Updates of block groups (R328, R331) -/

/-- A field of a number replaced. -/
def setField (x lo n v : Nat) : Nat := x - x / 2 ^ lo % 2 ^ n * 2 ^ lo + v % 2 ^ n * 2 ^ lo

/-- Tile and index in it of a block. -/
def Surf.tileOf (x : Surf) (bx by1 : Nat) : Nat × Nat := (by1 / 4 * x.tw + bx / 4, bx % 4 + 4 * (by1 % 4))

/-- A spill image of 64 bytes: quantiser 0 and a record (R322, R328). -/
def spillImage (rec1 : List Byte) : List Byte :=
  let bs := leBytes 4 0 ++ rec1
  bs ++ List.replicate (64 - bs.length) 0

/-- Install spill images in plane blocks of one group, all or none (R328, R331). -/
def Surf.install (x : Surf) (bx by1 : Nat) (imgs : List (Nat × List Byte)) : SurfM Unit := indivisible do
  let ti := x.tileOf bx by1
  let ents ← imgs.mapM fun m => x.entry m.1 ti.1
  if ents.any entBad then throw (surfData 0x0404)
  let need := (ents.filter fun e => !entSpill e ti.2).length
  let size := leNat (← x.get 24 4)
  let used := leNat (← x.get 44 4)
  if need != 0 && size < used + 64 * need then throw { kind := 0x10, va := 0, detail := 0 }
  if need != 0 then x.putField 352 4 (used + 64 * need)
  let mut next := used / 64
  for p in imgs.zip ents do
    let fresh := !entSpill p.2 ti.2
    let k := if fresh then next else entOff p.2 ti.2
    if fresh then next := next + 1
    x.put (x.spillOff + 64 * k) p.1.2
    let e := setField (setBitN (setBitN p.2 (64 + ti.2) true) (80 + ti.2) false) (96 + 16 * ti.2) 16 k
    x.put (x.entryAt x.bank p.1.1 ti.1) (leBytes 64 e)

/-! ## Instructions that act in each lane (R326) -/

/-- The surface's buffer index in the uniform register A: an index beyond 16 bits is out of range (R65, R326). -/
def surfIndex (s : State) (x : WordCtx) (w : TWord) : Nat := ((s.scene x.scene).uniReg (selReg w.a)).toNat

/-- The requests that the Surface Unit makes for a word: those of the operation that it starts (R75, R361). -/
def WordCtx.surfaceReq (x : WordCtx) (s : State) : Req :=
  { surfReq (x.ctx s) x.core with
    who := some (s.nextReader x.scene (x.lanes.map Prod.snd) 3), rep := (x.reporter s).map fun l => (l.2, x.addr) }

/-- Those of an operation under way, or of a node's run on a die. -/
def State.surfOpReq (s : State) (i : Nat) : Req :=
  let o := s.op i
  { surfReq o.ctx o.core with who := some (s.opReader i 3), rep := (s.opThread o).map fun th => (th, o.pc) }
def State.surfNodeReq (s : State) (run ctx die : Nat) : Req :=
  { surfReq ctx (64 * die) with who := some (s.nodeReader run 3) }

/-- End a per-lane surface instruction: faults are posted in ascending lane order, and the other lanes' results are on
their way. A helper lane's load that would fault gives zero (R41). -/
def WordCtx.surfFinish (x : WordCtx) (s : State) (buf : Nat) (outs : List (Nat × Except FaultInfo Nat)) (d : Sel) (nw : Bool) :
    State :=
  let outOf := fun (th : Nat) => ((outs.find? fun o => o.1 == th).map Prod.snd).getD (.ok 0)
  let fs := x.lanes.filterMap fun l => match outOf l.2 with
    | .error f => if (s.thread l.2).helper then none else some ({ thread := l.2, info := f, buf := buf % 2 ^ 16 } : LaneFault)
    | .ok _ => none
  let go := x.lanes.filter fun l => !(fs.any fun f => f.thread == l.2)
  let ws := go.map fun l => (l.2, wordsOf 1 (match outOf l.2 with
    | .ok v => v
    | .error _ => 0))
  let s := x.faults s fs
  if go.isEmpty then s else ({ x with lanes := go } : WordCtx).start s [] (allWrites d nw ws)

/-- The outcome of the work of every lane, one after another. -/
def eachLane {α : Type} (s : State) (lanes : List α) (th : α → Nat) (f : α → SurfM Nat) :
    List (Nat × Except FaultInfo Nat) × State :=
  lanes.foldl (fun acc l => let q := (f l).run acc.2; (acc.1 ++ [(th l, q.1)], q.2)) ([], s)

/-- A lane of a surface instruction: its thread, and the values of B, C and D. -/
structure SurfLane where
  th : Nat
  b  : Nat
  c  : Nat
  d  : Nat
  deriving DecidableEq, Repr, Inhabited

/-- A lane with its operands at issue. -/
def surfLane (w : TWord) (s : State) (l : Nat × Nat) : SurfLane :=
  { th := l.2, b := (s.opnd l.2 w.b).toNat, c := (s.opnd l.2 w.c).toNat, d := (s.opnd l.2 w.d).toNat }

/-- Coordinates outside the surface (R326). -/
def Surf.boundFault (y : Surf) (a b : Nat) : FaultInfo :=
  { kind := 3, va := recBase y.buf.ref.bits, detail := a % 2 ^ 16 + b % 2 ^ 16 * 2 ^ 16 }
def Surf.checkPixel (y : Surf) (a b : Nat) : SurfM Unit := if y.w ≤ a || y.h ≤ b then throw (y.boundFault a b) else pure ()
def Surf.checkBlock (y : Surf) (a b : Nat) : SurfM Unit :=
  if (y.w + 3) / 4 ≤ a || (y.h + 3) / 4 ≤ b then throw (y.boundFault a b) else pure ()

/-- What orders other data with bytes of a surface's buffer (R83, R332): `f` is given the space and the place of `off`. -/
def Surf.orderAt (y : Surf) (off : Nat) (f : State → Space → Nat → State) : SurfM Unit := do
  let s ← MonadState.get
  let b := y.buf
  let q := s.translate b.req (recBase b.ref.bits + off) false false (some (recPlace b.ref.bits))
  match q.1 with
  | .error _ => set q.2
  | .ok x => match q.2.boundOf b.req b.ref with
    | some i => set (f q.2 (.bound (q.2.binding i).handle) off)
    | none => set (if x.pkg == q.2.pkgId then f q.2 .mem x.pa else q.2)

/-- A lane has read, or has written, the entry of a block in some planes: every update of a block writes its entry. With
`.acq` the read is an acquire at die scope, and with `.rel` the write a release; else they are plain accesses, which a
`FENCE` orders (R83, R84, R332). -/
def Surf.readEntries (y : Surf) (planes : List Nat) (bx by1 th : Nat) (acq : Bool) : SurfM Unit :=
  planes.forM fun c => y.orderAt (y.entryAt y.bank c (y.tileOf bx by1).1) fun s sp lo =>
    if acq then s.acquireAt (.thread th) 2 sp lo 64 else s.plainRead th sp lo 64
def Surf.wroteAt (y : Surf) (off n th : Nat) (rel : Bool) : SurfM Unit :=
  y.orderAt off fun s sp lo => if rel then s.releaseAt (.thread th) 2 sp lo n else s.plainWrite th sp lo n
def Surf.wroteEntries (y : Surf) (planes : List Nat) (bx by1 th : Nat) (rel : Bool) : SurfM Unit :=
  planes.forM fun c => y.wroteAt (y.entryAt y.bank c (y.tileOf bx by1).1) 64 th rel

/-- `.acq` and `.rel` of a surface word (R326). -/
def surfAcq (w : TWord) : Bool := bitOf w.xm.toNat 2
def surfRel (w : TWord) : Bool := bitOf w.xm.toNat 3

/-- A plane that the format has. -/
def Surf.checkPlane (y : Surf) (c : Nat) : SurfM Unit := if y.np ≤ c then throw (surfProt 0x0400) else pure ()

/-- One lane of `SLD` (R327). -/
def sldLane (w : TWord) (y : Surf) (l : SurfLane) : SurfM Nat := do
  let m := w.mod.toNat
  if y.state == 0 then throw (surfProt 0x0401)
  if 4 ≤ m then y.checkPlane (m - 4)
  y.checkPixel l.b l.c
  let planes := if 4 ≤ m then [m - 4] else List.range y.np
  let ps ← planes.mapM fun c => y.sample c l.b l.c
  y.readEntries planes (l.b / 4) (l.c / 4) l.th (surfAcq w)
  return if planes.length == 1 then ps.headD 0 else fromPlanes ps

/-- A pixel that a lane writes: its thread, its place, and the value of each plane that it writes. -/
structure PixelWrite where
  th : Nat
  x  : Nat
  y  : Nat
  ps : List (Nat × Nat)
  deriving DecidableEq, Repr, Inhabited

/-- One block group's update (R328): the writes fall on the reconstructed samples in ascending lane order. -/
def Surf.updateGroup (y : Surf) (bx by1 : Nat) (ws : List PixelWrite) : SurfM Unit := do
  let planes := (List.range y.np).filter fun c => ws.any fun p => p.ps.any fun v => v.1 == c
  let imgs ← planes.mapM fun c => do
    let old ← y.blockSamples c bx by1
    let new := ws.foldl (fun (l : List Nat) p => match p.ps.find? fun v => v.1 == c with
      | some v => l.set (4 * (p.y % 4) + p.x % 4) v.2
      | none => l) old
    return (c, spillImage (rawRec (y.dep c) new))
  y.install bx by1 imgs

/-- The values of the planes that a store of a pixel writes. -/
def Surf.planeValues (y : Surf) (m v : Nat) : List (Nat × Nat) :=
  if 4 ≤ m then [(m - 4, min v (2 ^ y.dep (m - 4) - 1))]
  else if y.np == 1 then [(0, min v (2 ^ y.dep 0 - 1))]
  else (toPlanes v).zipIdx.map fun p => (p.2, p.1)

/-- The lanes of `SST` (R328): the checks of each, and then each block group once. -/
def sstLanes (w : TWord) (s : State) (y : Surf) (lanes : List SurfLane) : List (Nat × Except FaultInfo Nat) × State :=
  let m := w.mod.toNat
  let chk := eachLane s lanes (·.th) fun l => do
    if 4 ≤ m then y.checkPlane (m - 4)
    y.checkPixel l.b l.c
    if y.state != 1 then throw (surfProt 0x0402)
    return 0
  let ok := lanes.filter fun l => chk.1.any fun o => o.1 == l.th && o.2.isOk
  let ws := ok.map fun l => ({ th := l.th, x := l.b, y := l.c, ps := y.planeValues m l.d } : PixelWrite)
  let groups := (ws.map fun p => (p.x / 4, p.y / 4)).eraseDups
  let res := groups.foldl (fun (acc : List (Nat × Except FaultInfo Nat) × State) g =>
    let mine := ws.filter fun p => (p.x / 4, p.y / 4) == g
    let q := (do
      y.updateGroup g.1 g.2 mine
      mine.forM fun p => y.wroteEntries (p.ps.map Prod.fst) g.1 g.2 p.th (surfRel w) : SurfM Unit).run acc.2
    (acc.1 ++ mine.map fun p => (p.th, q.1.map fun _ => 0), q.2)) ([], chk.2)
  ((chk.1.filter fun o => !ok.any fun l => l.th == o.1) ++ res.1, res.2)

/-- One lane of `SSTC` (R329): `c` is the scene as the Surface Unit sees it. -/
def sstcLane (w : TWord) (c : Scene) (y : Surf) (l : SurfLane) : SurfM Nat := do
  let p := w.mod.toNat % 4
  let a := l.d
  y.checkPlane p
  y.checkBlock l.b l.c
  if y.state != 1 then throw (surfProt 0x0402)
  if a % 64 != 0 then throw { kind := 5, va := a, detail := 0 }
  if !c.spIn a 64 then throw { kind := 4, va := a, detail := 0 }
  if c.spPoisoned a 64 then throw { kind := 0x0C, va := a, detail := 0 }
  if c.spBad a 64 then throw { kind := 0x0C, va := a, detail := 0x0606 }
  let img := c.spRead a 64
  let byte := fun (k : Nat) => (img.getD k 0).toNat
  match parseRec (y.dep p) (fun r => y.refIdx r != 0xFFFF) (img.drop 4) with
  | none => throw (surfProt 0x0404)
  | some r =>
    if 47 < byte 0 || byte 1 + byte 2 + byte 3 != 0 || r.kind == 1 || r.kind == 3 ||
        (img.drop (4 + r.size)).any (· != 0) then throw (surfProt 0x0404)
    let usable ← if r.kind == 4 then y.refUsable r.ref 2 else pure true
    if !usable then throw (surfProt 0x0403)
    y.install l.b l.c [(p, img)]
    y.wroteEntries [p] l.b l.c l.th (surfRel w)
    return 0

/-- The images of `SSTC` that the Surface Unit reads, of the lanes whose addresses are good. -/
def sstcReads (c : Scene) (lanes : List SurfLane) : List Nat :=
  (lanes.filter fun l => l.d % 64 == 0 && c.spIn l.d 64).map (·.d)

/-- The lanes of `SSTC`, `r` being the unit's reader. -/
def sstcLanes (w : TWord) (s : State) (r : Reader) (sc : Nat) (y : Surf) (lanes : List SurfLane) :
    List (Nat × Except FaultInfo Nat) × State :=
  let c := s.scene sc
  let v := s.seeScene r sc ((sstcReads c lanes).flatMap fun a => (List.range 64).map fun k => c.spPhys (a + k))
  eachLane v.2 lanes (·.th) (sstcLane w v.1 y)

/-- The hint of a block (R317, R322). -/
def Surf.hintAt (y : Surf) (bx by1 : Nat) : Nat := y.hintOff + 8 * (by1 * 4 * y.tw + bx)
def hintBytes (mvx mvy : Int) (ref : Nat) : List Byte := half16 mvx ++ half16 mvy ++ leBytes 4 (ref + 4)

/-- One lane of `SSTMV`, or of its `.hint` form, which writes a hint and installs nothing (R330). -/
def sstmvLane (w : TWord) (hint : Bool) (y : Surf) (l : SurfLane) : SurfM Nat := do
  let mvx := sextN l.d 16
  let mvy := sextN (l.d / 2 ^ 16) 16
  let ref := w.mod.toNat % 4
  y.checkBlock l.b l.c
  if 8192 < mvx.natAbs || 8192 < mvy.natAbs then throw (surfProt 0x0404)
  if hint then
    if 1 < y.state then throw (surfProt 0x0402)
    y.put (y.hintAt l.b l.c) (hintBytes mvx mvy ref)
    y.wroteAt (y.hintAt l.b l.c) 8 l.th (surfRel w)
  else
    if y.state != 1 then throw (surfProt 0x0402)
    let usable ← y.refUsable ref 2
    if !usable then throw (surfProt 0x0403)
    y.install l.b l.c ((List.range y.np).map fun c => (c, spillImage (skipRec ref mvx mvy)))
    y.wroteEntries (List.range y.np) l.b l.c l.th (surfRel w)
  return 0

/-- One lane of `SQRY` (R339). -/
def sqryLane (w : TWord) (y : Surf) (l : SurfLane) : SurfM Nat := do
  let m := w.mod.toNat
  match m with
  | 0 => return y.state + 256 * y.depth + 1024 * y.bank
  | 1 => return y.gen
  | 2 => return y.spillUsed
  | 3 => return y.slabUsed
  | _ => do
    y.checkPlane (m - 4)
    y.checkPixel l.b l.c
    let ti := y.tileOf (l.b / 4) (l.c / 4)
    let e ← y.entry (m - 4) ti.1
    if entImpl e ti.2 then return 512 + (if entSpill e ti.2 then 256 else 0)
    let (r, _) ← y.record (m - 4) e ti.2
    return r.kind + 16 * r.ref + (if entSpill e ti.2 then 256 else 0)

/-- What a per-lane surface instruction does in lanes of a scene, for the requests `r`: the record and header checks first,
then each lane (R326). An invalid header gives 0 to `SQRY` (R339). -/
def surfRun (i : Instr) (s : State) (r : Req) (sc buf : Nat) (lanes : List SurfLane) :
    List (Nat × Except FaultInfo Nat) × State :=
  let all := fun (o : Except FaultInfo Nat) => lanes.map fun l => (l.th, o)
  let opened := fun (rights : Nat) (body : State → Surf → List (Nat × Except FaultInfo Nat) × State) =>
    let q := (openSurf r buf rights).run s
    match q.1 with
    | .error f => (all (.error f), q.2)
    | .ok y => body q.2 y
  match i with
  | .sld w =>
    let s := if surfAcq w then s.acquireL1 r.core else s
    let q := (openSurf r buf 1).run s
    match q.1 with
    | .error f => (all (.error f), q.2)
    | .ok y => eachLane q.2 lanes (·.th) (sldLane w y)
  | .sst w => opened 3 fun s y => sstLanes w s y lanes
  | .sstc w => opened 3 fun s y => sstcLanes w s r.by sc y lanes
  | .sstmv w => opened 3 fun s y => eachLane s lanes (·.th) (sstmvLane w false y)
  | .sstmvHint w => opened 3 fun s y => eachLane s lanes (·.th) (sstmvLane w true y)
  | .sqry w =>
    let q := (readSurf r buf 1).run s
    match q.1 with
    | .error f => (all (.error f), q.2)
    | .ok none => (all (.ok 0), q.2)
    | .ok (some y) => eachLane q.2 lanes (·.th) (sqryLane w y)
  | _ => ([], s)

/-! ## The Surface Unit's queue

An image of `SSTC` is read by an engine of class SRF, and such a read of an empty line waits in the unit, while the word has
issued (R71, R329). The surface instructions of its threads come after it (R332). DEDUCED (log 78): an instruction that waits
so is checked and performed where it completes, and its faults are asynchronous records in the names of its lanes. -/

/-- The format-T word of a per-lane surface instruction. -/
def surfLaneWord (i : Instr) : Option TWord :=
  match i with
  | .sld w | .sst w | .sstc w | .sstmv w | .sstmvHint w | .sqry w => some w
  | _ => none

/-- An operation is a surface instruction that waits in the unit: it has its lanes' operands with it. -/
def Op.queued (o : Op) : Bool := !o.done && (surfLaneWord o.instr).isSome && !o.args.isEmpty

/-- The lanes of such an operation. -/
def lanesOfArgs : List Nat → List SurfLane
  | th :: b :: c :: d :: rest => { th := th, b := b, c := c, d := d } :: lanesOfArgs rest
  | _ => []

/-- The lines that an instruction waits for. -/
def State.surfEmpty (s : State) (i : Instr) (sc : Nat) (lanes : List SurfLane) : List Nat :=
  match i with
  | .sstc _ =>
    let c := s.scene sc
    (sstcReads c lanes).flatMap fun a => (c.spLines a 64).filter c.empty.contains
  | _ => []

/-- The operations of some threads that wait in the unit, among the first `n`. -/
def State.surfAhead (s : State) (n : Nat) (ths : List Nat) : List Nat :=
  (indices (s.ops.take n) fun o => o.queued && o.lanes.any fun l => ths.contains l.2)

/-- An operation that waits in the unit is performed and completes, once its lines are full and those ahead of it are
done. -/
def State.surfDone (s : State) (i : Nat) : State :=
  let o := s.op i
  let lanes := lanesOfArgs (o.args.drop 1)
  let buf := o.args.headD 0
  match surfLaneWord o.instr with
  | none => s
  | some w =>
    if !o.queued || !(s.surfAhead i (o.lanes.map Prod.snd)).isEmpty || !(s.surfEmpty o.instr o.scene lanes).isEmpty then s
    else
      let r := surfRun o.instr s (s.surfOpReq i) o.scene buf lanes
      let outOf := fun (th : Nat) => ((r.1.find? fun e => e.1 == th).map Prod.snd).getD (.ok 0)
      let s := o.lanes.foldl (fun (s : State) l => match outOf l.2 with
        | .error f => if (s.thread l.2).helper then s else s.asyncFault l.2 f.kind o.pc (buf % 2 ^ 16) f.va f.detail
        | .ok _ => s) r.2
      let load := match o.instr with
        | .sld _ | .sqry _ => true
        | _ => false
      let go := o.lanes.filter fun l => (s.thread l.2).helper || (outOf l.2).isOk
      let ws := go.map fun l => (l.2, wordsOf 1 (match outOf l.2 with
        | .ok v => v
        | .error _ => 0))
      (s.modOp i fun o => { o with writes := allWrites w.d (!load || w.nw) ws }).completeOp i

/-- A per-lane surface instruction: it is performed at issue, or waits in the unit. -/
def surfWord (i : Instr) (w : TWord) (s : State) (load : Bool) : Out :=
  runWord i s fun x s => .done <|
    let acting := if load then x.lanes else x.lanes.filter fun l => !(s.thread l.2).helper
    let buf := surfIndex s x w
    if acting.isEmpty then x.surfFinish s buf [] w.d true
    else
      let lanes := acting.map (surfLane w s)
      if !(s.surfAhead s.ops.length (acting.map Prod.snd)).isEmpty || !(s.surfEmpty i x.scene lanes).isEmpty then
        x.start s (buf :: lanes.flatMap fun l => [l.th, l.b, l.c, l.d]) []
      else
        let r := surfRun i s (x.surfaceReq s) x.scene buf lanes
        x.surfFinish r.2 buf r.1 w.d (!load || w.nw)

/-- `SLD` (R327). -/
def execSld (w : TWord) (s : State) : Out := surfWord (.sld w) w s true

/-- `SST` (R328). -/
def execSst (w : TWord) (s : State) : Out := surfWord (.sst w) w s false

/-- `SSTC` (R329). -/
def execSstc (w : TWord) (s : State) : Out := surfWord (.sstc w) w s false

/-- `SSTMV` (R330). -/
def execSstmv (w : TWord) (s : State) : Out := surfWord (.sstmv w) w s false

/-- `SSTMV.hint` (R330). -/
def execSstmvHint (w : TWord) (s : State) : Out := surfWord (.sstmvHint w) w s false

/-- `SQRY` (R339). -/
def execSqry (w : TWord) (s : State) : Out := surfWord (.sqry w) w s true

/-- A word that acts once on a surface: what waits in the unit for its threads comes first (R332), and the word holds its pipe
until the lines for that are full. -/
def surfOnce (i : Instr) (s : State) (uni : List (Sel × Nat)) (body : WordCtx → State → Nat → WordRes) : Out :=
  onceWord i s uni fun x s th =>
    let ths := x.lanes.map Prod.snd
    let s := (s.surfAhead s.ops.length ths).foldl State.surfDone s
    match s.surfAhead s.ops.length ths with
    | [] => body x s th
    | ks => .hold (.lines (ks.flatMap fun k => s.surfEmpty (s.op k).instr (s.op k).scene (lanesOfArgs ((s.op k).args.drop 1))))

/-! ## Opening (R333) -/

/-- A surface can become a reference of another (R323). -/
def Surf.openRef (y : Surf) (index : Nat) : SurfM Nat := do
  let s ← MonadState.get
  let q := (openSurf y.buf.req index 1).run s
  set q.2
  match q.1 with
  | .error f => if f.kind == 2 && f.detail / 256 != 6 then throw (surfProt 0x0403) else throw f
  | .ok z =>
    if z.state != 3 || z.fmt != y.fmt || z.w != y.w || z.h != y.h || 2 < z.depth then throw (surfProt 0x0403)
    return z.gen

/-- `SSEAL.open` of a surface with four reference indices: the header changes at once. -/
def Surf.reopen (y : Surf) (refs : List Nat) : SurfM Unit := do
  let gens ← refs.mapM fun r => if r == 0xFFFF then pure 0 else y.openRef r
  if y.state == 2 then throw (surfProt 0x0402)
  indivisible do
    y.putState 1
    y.putField 288 4 ((y.gen + 1) % 2 ^ 32)
    y.putField 416 8 (packFields (refs.map fun r => (16, r)))
    y.putField 480 16 (packFields (gens.map fun g => (32, g)))
    y.putField 352 4 0
    y.putDepth 0 y.bank
  for k in List.range (y.np * y.nt) do
    y.put (y.dirOff + y.bank * y.dirSize + 64 * k) (leBytes 64 (0xFFFF * 2 ^ 80))

/-- `SSEAL.open` (R333). -/
def execSsealOpen (w : TWord) (s : State) : Out :=
  surfOnce (.ssealOpen w) s [] fun x s _ =>
    let buf := surfIndex s x w
    let refs := (List.range 4).map fun k => ((s.scene x.scene).uniReg (selReg w.b + k)).toNat % 2 ^ 16
    let q := (do
      let y ← openSurf (x.surfaceReq s) buf 3
      y.reopen refs : SurfM Unit).run s
    match q.1 with
    | .error f => onceFault x q.2 f.kind (buf % 2 ^ 16) f.va f.detail
    | .ok _ => .done (x.start q.2 [])

/-! ## Sealing (R334 to R337) -/

/-- Step 1 of a seal: STATE goes from open to sealing. -/
def sealStart (r : Req) (buf flags : Nat) : SurfM Unit := do
  let y ← openSurf r buf 3
  if flags / 2 != 0 then throw (surfProt 0x0400)
  if y.state != 1 then throw (surfProt 0x0402)
  y.putState 2

/-- `SSEAL.seal` (R334): what follows step 1 comes about in SEAL_CODING. -/
def execSsealSeal (w : TWord) (s : State) : Out :=
  surfOnce (.ssealSeal w) s [(w.b, 1)] fun x s th =>
    let buf := surfIndex s x w
    let flags := (s.opnd th w.b).toNat
    let q := (sealStart (x.surfaceReq s) buf flags).run s
    match q.1 with
    | .error f => onceFault x q.2 f.kind (buf % 2 ^ 16) f.va f.detail
    | .ok _ =>
      .done { x.start q.2 [buf, flags] with
        seals := q.2.seals ++ [{ ctx := x.ctx s, die := coreDie x.core, buf := buf, flags := flags, issuer := some q.2.ops.length, node := none
                                 done := false }] }

/-- A surface as the motion search of a seal reads it: its accesses are of class MVE (R351, R353). -/
def Surf.searched (y : Surf) : Surf :=
  { y with buf := { y.buf with req := { y.buf.req with who := y.buf.req.who.map fun w => { w with cls := 5, via := 5 } } } }

/-- The motion candidate of a block (R335, R353): from the search over every filled slot, or from its hint. -/
def Surf.candidate (y : Surf) (mve : Bool) (bx by1 : Nat) : SurfM (Option (Nat × Int × Int)) := do
  let found ← if mve then do
      let mut best : Option (Nat × Nat × Int × Int) := none
      let g ← y.searched.curBlocks (y.tileBlocks [(bx, by1)])
      for r in List.range 4 do
        if y.refIdx r != 0xFFFF then
          let c ← y.searched.coarseBlock g r bx by1 16
          let f ← y.searched.refineBlock g r bx by1 128 false c
          best := match best with
            | none => some (f.sad, r, f.mv)
            | some b => if f.sad < b.1 then some (f.sad, r, f.mv) else some b
      pure (best.map fun b => (b.2.1, b.2.2.1, b.2.2.2))
    else do
      let h := leNat (← y.get (y.hintAt bx by1) 8)
      let mvx := sextN h 16
      let mvy := sextN (h / 2 ^ 16) 16
      pure (if bitOf h 34 && mvx.natAbs ≤ 8192 && mvy.natAbs ≤ 8192 then some (bitsOf h 33 32, mvx, mvy) else none)
  match found with
  | none => return none
  | some c => do
    let ok ← y.refUsable c.1 2
    return if ok then some c else none

/-- A block as it is coded: its samples, and its candidate's prediction. -/
def Surf.codeInput (y : Surf) (mve : Bool) (c bx by1 : Nat) : SurfM CodeBlock := do
  let src ← y.blockSamples c bx by1
  match ← y.candidate mve bx by1 with
  | none => return { src := src, cand := none }
  | some (r, mvx, mvy) =>
    let p ← (List.range 16).mapM fun k =>
      y.pred r c (4 * (4 * bx + k % 4 : Nat) + mvx) (4 * (4 * by1 + k / 4 : Nat) + mvy)
    return { src := src, cand := some (r, mvx, mvy, p) }

/-- The depth that a block gives its surface (R323). -/
def Surf.blockDepth (y : Surf) (r : BlockRec) : SurfM Nat := do
  if r.kind == 3 || r.kind == 4 then
    let z ← y.reference r.ref
    return 1 + z.depth
  else return 0

/-- Step 4 of a seal: the tiles in order, each with its quantiser and its records (R336). -/
def Surf.codeAll (y : Surf) (mve : Bool) : SurfM (List (Nat × List (List Byte))) := do
  let mut out : List (Nat × List (List Byte)) := []
  let mut avail := y.budget
  let mut n := y.np * y.nt
  for c in List.range y.np do
    for t in List.range y.nt do
      let bs ← (List.range 16).mapM fun i =>
        y.codeInput mve c (4 * (t % y.tw) + i % 4) (4 * (t / y.tw) + i / 4)
      let q := pickQ (y.dep c) y.lossless y.budget avail n bs
      let rs := codeTile (y.dep c) y.lossless q bs
      out := out ++ [(q, rs)]
      avail := avail - tileSize rs
      n := n - 1
  return out

/-- Steps 3 to 5 of a seal (R334). -/
def sealCode (r : Req) (buf : Nat) (mve : Bool) : SurfM Unit := do
  let y ← openSurf r buf 3
  for k in List.range 4 do
    if y.refIdx k != 0xFFFF then
      let s ← MonadState.get
      let q := (openSurf r (y.refIdx k) 1).run s
      set q.2
      match q.1 with
      | .error f => if f.kind == 2 && f.detail / 256 != 6 then throw (surfProt 0x0403) else throw f
      | .ok z => if z.gen != y.refGen k || z.state != 3 then throw (surfProt 0x0403)
  let tiles ← y.codeAll mve
  let total := (tiles.map fun t => tileSize t.2).foldl (· + ·) 0
  if y.slabSize < total then throw { kind := 0x10, va := 0, detail := total }
  let bank := 1 - y.bank
  let mut slab := 0
  let mut depth := 0
  let mut k := 0
  for t in tiles do
    y.put (y.slabOff + bank * y.slabSize + slab) (t.2.flatten ++ List.replicate (tileSize t.2 - t.2.flatten.length) 0)
    y.put (y.dirOff + bank * y.dirSize + 64 * k) (leBytes 64 (tileEntry slab t.1 t.2))
    for rec1 in t.2 do
      match parseRec (y.dep (k / y.nt)) (fun _ => true) rec1 with
      | some b => do
        let d ← y.blockDepth b
        depth := max depth d
      | none => pure ()
    slab := slab + tileSize t.2
    k := k + 1
  indivisible do
    y.putField 352 4 0
    y.putField 384 4 total
    y.putDepth depth bank
    y.putState 3

/-- A seal's steps 3 to 5; a fault returns STATE to open. -/
def State.sealRun (s : State) (r : Req) (buf flags : Nat) : Except FaultInfo Unit × State :=
  let q := (sealCode r buf (bitOf flags 0)).run s
  match q.1 with
  | .ok _ => q
  | .error f =>
    let back := (do
      let y ← openSurf r buf 3
      y.putState 1 : SurfM Unit).run q.2
    (.error f, back.2)

/-! ## Materialising (R338) -/

/-- `SMAT`: its checks. -/
def execSmat (w : TWord) (s : State) : Out :=
  onceWord (.smat w) s [(w.b, 1), (w.c, 1)] fun x s th =>
    let buf := surfIndex s x w
    let q := (openSurf (x.surfaceReq s) buf 3).run s
    match q.1 with
    | .error f => onceFault x q.2 f.kind (buf % 2 ^ 16) f.va f.detail
    | .ok y =>
      let t := (s.opnd th w.b).toNat
      let n := (s.opnd th w.c).toNat
      if y.state == 0 then onceFault x q.2 2 (buf % 2 ^ 16) 0 0x0401
      else if y.state == 2 then onceFault x q.2 2 (buf % 2 ^ 16) 0 0x0402
      else if y.nt ≤ t + n then onceFault x q.2 3 (buf % 2 ^ 16) 0 0
      else .done (x.start q.2 [buf, t, n])

/-- Replace one SKIP or INTER block by its samples. -/
def Surf.materialise (y : Surf) (c t i : Nat) : SurfM Unit := do
  let e ← y.entry c t
  if entBad e then throw (surfData 0x0404)
  if entImpl e i then return
  let (r, _) ← y.record c e i
  if r.kind == 3 || r.kind == 4 then
    let bx := 4 * (t % y.tw) + i % 4
    let by1 := 4 * (t / y.tw) + i / 4
    let src ← y.blockSamples c bx by1
    y.install bx by1 [(c, spillImage (rawRec (y.dep c) src))]

/-- The depth of R323 over the blocks of a surface as they stand. -/
def Surf.depthNow (y : Surf) : SurfM Nat := do
  let mut depth := 0
  for c in List.range y.np do
    for t in List.range y.nt do
      let e ← y.entry c t
      for i in List.range 16 do
        if !entImpl e i then
          let (r, _) ← y.record c e i
          let d ← y.blockDepth r
          depth := max depth d
  return depth

/-- The tiles of a materialisation, one block after another: none of a surface that a seal has taken meanwhile (R334). -/
def smatWork (r : Req) (buf t n : Nat) : SurfM Unit := do
  let y ← openSurf r buf 3
  if y.state == 0 then throw (surfProt 0x0401)
  if y.state == 2 then throw (surfProt 0x0402)
  for k in List.range (n + 1) do
    for i in List.range 16 do
      for c in List.range y.np do
        y.materialise c (t + k) i
  let d ← y.depthNow
  y.putDepth d y.bank

/-- `SMAT` completes, after what its threads have waiting in the unit (R332); a fault that it meets is posted, and the blocks
already done stand. -/
def State.smatDo (s : State) (i : Nat) : State :=
  let o := s.op i
  if !(s.surfAhead i (o.lanes.map Prod.snd)).isEmpty then s else
  let buf := o.args.getD 0 0
  let q := (smatWork (s.surfOpReq i) buf (o.args.getD 1 0) (o.args.getD 2 0)).run s
  let s : State := match q.1 with
    | .ok _ => q.2
    | .error f => q.2.opRecord o f.kind buf f.va f.detail
  s.completeOp i

end Sys2Proof.Machine
end

