-- ==== Sys2Proof/Machine/Render.lean ====
section
/-! DEFINITION. Render passes, visibility and motion requests, opcodes 0xB7 to 0xBA (R341 to R353). -/

namespace Sys2Proof.Machine

/-! ## The pass header (R342) -/

/-- A pass buffer with its header as one number. -/
structure PassHdr where
  buf : SurfBuf
  hdr : Nat
  deriving DecidableEq, Repr, Inhabited

def PassHdr.w (p : PassHdr) : Nat := bitsOf p.hdr 13 0 + 1
def PassHdr.h (p : PassHdr) : Nat := bitsOf p.hdr 27 14 + 1
def PassHdr.die (p : PassHdr) : Nat := bitsOf p.hdr 29 28
def PassHdr.cullP (p : PassHdr) : Bool := bitOf p.hdr 30
def PassHdr.cullN (p : PassHdr) : Bool := bitOf p.hdr 31
def PassHdr.zclear (p : PassHdr) : Nat := bitsOf p.hdr 63 32
def PassHdr.pixNode (p : PassHdr) : Nat := bitsOf p.hdr 95 64
def PassHdr.done (p : PassHdr) : Nat := bitsOf p.hdr 127 96
def PassHdr.binSize (p : PassHdr) : Nat := bitsOf p.hdr 191 160
def PassHdr.state (p : PassHdr) : Nat := bitsOf p.hdr 199 192
def PassHdr.prims (p : PassHdr) : Nat := bitsOf p.hdr 231 200
def PassHdr.drops (p : PassHdr) : Nat := bitsOf p.hdr 263 232

/-- Read a pass header; an invalid one is PROT 0x0500. -/
def openPass (r : Req) (index : Nat) : SurfM PassHdr := do
  let b ← openBuf r index 3
  if recExtent b.ref.bits < 128 then throw (surfProt 0x0500)
  let h := leNat (← b.get 0 128 0x0500)
  if bitsOf h 1023 264 != 0 || 3 < bitsOf h 199 192 || bitsOf h 159 128 % 128 != 0 || bitsOf h 191 160 % 128 != 0 ||
      recExtent b.ref.bits < bitsOf h 159 128 + bitsOf h 191 160 then throw (surfProt 0x0500)
  return { buf := b, hdr := h }

/-- Store STATE, PRIMS and DROPS of a header. -/
def PassHdr.put (p : PassHdr) (state prims drops : Nat) : SurfM Unit :=
  p.buf.put 24 (leBytes 9 (state + prims % 2 ^ 32 * 2 ^ 8 + drops % 2 ^ 32 * 2 ^ 40)) 0x0500

/-- The pass that a die's Binning Unit holds for a pass buffer. -/
def State.passOf (s : State) (ctx buf : Nat) : Option Nat :=
  (indices s.passes fun p => p.ctx == ctx && p.buf == buf && (p.state == 1 || p.state == 2)).head?

/-- Change a pass. -/
def State.modPass (s : State) (i : Nat) (f : Pass → Pass) : State := { s with passes := s.passes.modify i f }

/-- Pass `i`. -/
def State.pass (s : State) (i : Nat) : Pass := s.passes.getD i default

/-- The pass buffer's index in the uniform register A. -/
def passIndex (s : State) (x : WordCtx) (w : TWord) : Nat := ((s.scene x.scene).uniReg (selReg w.a)).toNat

/-! ## Triangles (R344, R345) -/

/-- E(a, b, P), exact (R344). -/
def edge (ax ay bx by1 px py : Int) : Int := (bx - ax) * (py - ay) - (by1 - ay) * (px - ax)

/-- E of two vertices of a triangle at a point. -/
def Tri.edge (t : Tri) (a b : Nat) (px py : Int) : Int :=
  Machine.edge (t.x.getD a 0) (t.y.getD a 0) (t.x.getD b 0) (t.y.getD b 0) px py

/-- Twice the area. -/
def Tri.area (t : Tri) : Int := t.edge 0 1 (t.x.getD 2 0) (t.y.getD 2 0)

/-- A coordinate in fixed point; none where it is not finite or lies outside the range (R344). -/
def fixedCoord (v : Nat) : Option Int :=
  match f32.val v with
  | .fin neg n d =>
    let k := (roundInt 0 neg (n * 256) d).1
    if -4194304 ≤ k && k ≤ 8388352 then some k else none
  | _ => none

/-- A depth is finite. -/
def finiteDepth (v : Nat) : Bool := match f32.val v with
  | .fin _ _ _ => true
  | _ => false

/-- The triangle of ten register values, or none where it is discarded (R344). -/
def acceptTri (cullP cullN : Bool) (vs : List Nat) : Option Tri :=
  let at1 := fun (k : Nat) => vs.getD k 0
  let xs := [0, 3, 6].filterMap fun k => fixedCoord (at1 k)
  let ys := [1, 4, 7].filterMap fun k => fixedCoord (at1 k)
  if xs.length != 3 || ys.length != 3 || !([2, 5, 8].all fun k => finiteDepth (at1 k)) then none
  else
    let t : Tri := { x := xs, y := ys, z := [2, 5, 8].map fun k => BitVec.ofNat 32 (at1 k), id := BitVec.ofNat 32 (at1 9) }
    let swap := fun {α : Type} (l : List α) => l.take 1 ++ (l.drop 2 ++ (l.drop 1).take 1)
    if t.area == 0 || (0 < t.area && cullP) || (t.area < 0 && cullN) then none
    else if t.area < 0 then some { t with x := swap t.x, y := swap t.y, z := swap t.z } else some t

/-- Bins that a triangle's bounding box touches, of a render area (R344). -/
def Tri.bins (t : Tri) (w h : Nat) : List Nat :=
  let lo := fun (l : List Int) => l.foldl min (l.getD 0 0)
  let hi := fun (l : List Int) => l.foldl max (l.getD 0 0)
  let bw := (w + 63) / 64
  (List.range (bw * ((h + 63) / 64))).filter fun b =>
    let bx : Int := (b % bw * 16384 : Nat)
    let by1 : Int := (b / bw * 16384 : Nat)
    lo t.x < bx + 16384 && bx ≤ hi t.x && lo t.y < by1 + 16384 && by1 ≤ hi t.y

/-- The centre of a pixel (R345). -/
def centre (p : Nat) : Int := (256 * p + 128 : Nat)

/-- A triangle covers a pixel (R345). -/
def Tri.covers (t : Tri) (px py : Nat) : Bool :=
  [(0, 1), (1, 2), (2, 0)].all fun e =>
    let v := t.edge e.1 e.2 (centre px) (centre py)
    let dx := t.x.getD e.2 0 - t.x.getD e.1 0
    let dy := t.y.getD e.2 0 - t.y.getD e.1 0
    decide (0 < v) || (v == 0 && (decide (dy < 0) || (dy == 0 && decide (0 < dx))))

/-- z(P) of a triangle at a pixel's centre, rounded once (R345). -/
def Tri.depth (t : Tri) (px py : Nat) : Nat :=
  let w := fun (a b : Nat) => intFVal (t.edge a b (centre px) (centre py))
  let z := fun (k : Nat) => f32.val (t.z.getD k 0).toNat
  match (FVal.dot 0 [(w 1 2, z 0), (w 2 0, z 1), (w 0 1, z 2)] none).1 with
  | .fin neg n d => (f32.round 0 (.fin neg n (d * t.area.toNat))).1
  | v => (f32.round 0 v).1

/-- a below b as depths; a NaN is below nothing and nothing is below it, and −0 equals +0. -/
def depthLt (a b : Nat) : Bool :=
  let x := f32.val a
  let y := f32.val b
  !x.isNan && !y.isNan && FVal.lt false x y

/-- Triangles in an order that knows nothing of their emission: by primitive ID, then by their vertices. -/
def Tri.key (t : Tri) : List Int := (t.id.toNat : Int) :: t.x ++ t.y ++ t.z.map fun z => (z.toNat : Int)
def keyLt : List Int → List Int → Bool
  | a :: l, b :: m => decide (a < b) || (a == b && keyLt l m)
  | [], _ :: _ => true
  | _, [] => false
def Tri.before (t u : Tri) : Bool := keyLt t.key u.key

/-- The visible primitive of a pixel: the triangle of the least pair (depth, primitive ID) that passes (R345). DESIGN CHOICE
(log 79): of two triangles with one ID that agree in depth, the vertices decide, so that the order of the emits does not
(R344). -/
def visibleAt (tris : List Tri) (zclear px py : Nat) : Option Nat :=
  (tris.zipIdx.foldl (fun (best : Option (Nat × Tri × Nat)) t =>
    if !t.1.covers px py then best
    else
      let z := t.1.depth px py
      if !depthLt z zclear then best
      else match best with
        | none => some (z, t.1, t.2)
        | some b => if depthLt z b.1 || (!depthLt b.1 z && t.1.before b.2.1) then some (z, t.1, t.2) else best)
    none).map fun b => b.2.2

/-! ## PRIMEMIT (R343, R344) -/

/-- The template of a pass is a valid committed scene record without the array (R343). -/
def templateOk (r : Req) (index : Nat) : SurfM Bool := do
  let s ← get
  if (s.ctx r.ctx).taskCnt ≤ index then return false
  let q := s.taskRead r index 64
  set q.2
  match q.1 with
  | .error f => throw f
  | .ok n =>
    let v := q.2.nodeValid r n
    set v.2
    return taskState n == tsCommitted && nodeKind n == 1 && v.1 && !(sceneReq n).arr

/-- Open a pass: its status (R343). -/
def passOpen (r : Req) (index scene core part : Nat) : SurfM Nat := do
  let p ← openPass r index
  let ok ← templateOk r p.pixNode
  if !ok then throw (surfProt 0x0500)
  let s ← get
  if 8 ≤ (s.passes.filter fun q => q.die == p.die && (q.state == 1 || q.state == 2)).length then return 1
  if p.state == 1 || p.state == 2 then throw (surfProt 0x0501)
  p.put 1 0 0
  modify fun s => { s with passes := s.passes ++ [{ ctx := r.ctx, buf := index, scene := scene, die := p.die, part := part
                                                    core := core, state := 1, tris := [], used := 0, final := [] }] }
  return 0

/-- `PRIMEMIT.open` (R343). -/
def execPrimemitOpen (w : TWord) (s : State) : Out :=
  onceWord (.primemitOpen w) s [] fun x s _ =>
    let buf := passIndex s x w
    let q := (passOpen (x.surfaceReq s) buf x.scene x.core (s.scene x.scene).part).run s
    match q.1 with
    | .error f => onceFault x q.2 f.kind (buf % 2 ^ 16) f.va f.detail
    | .ok st => .done (x.start q.2 [] (sameWrites w.d w.nw x.lanes (wordsOf 1 st)))

/-- `PRIMEMIT.close` (R343). -/
def execPrimemitClose (w : TWord) (s : State) : Out :=
  onceWord (.primemitClose w) s [] fun x s _ =>
    let buf := passIndex s x w
    let q := (do
      let p ← openPass (x.surfaceReq s) buf
      if p.state != 1 then throw (surfProt 0x0501)
      p.put 2 p.prims p.drops : SurfM Unit).run s
    match q.1 with
    | .error f => onceFault x q.2 f.kind (buf % 2 ^ 16) f.va f.detail
    | .ok _ =>
      let s : State := match q.2.passOf (x.ctx s) buf with
        | some i => q.2.modPass i fun p => { p with state := 2 }
        | none => q.2
      .done (x.start s [])

/-- One lane's triangle. -/
def emitTri (r : Req) (index : Nat) (vs : List Nat) : SurfM Nat := do
  let p ← openPass r index
  let s ← get
  match s.passOf r.ctx index with
  | none => throw (surfProt 0x0501)
  | some i =>
    if p.state != 1 then throw (surfProt 0x0501)
    match acceptTri p.cullP p.cullN vs with
    | none => do
      p.put 1 p.prims (p.drops + 1)
      return 0
    | some t =>
      let n := 48 + 8 * (t.bins p.w p.h).length
      if p.binSize < (s.pass i).used + n then throw { kind := 0x10, va := 0, detail := 0x0500 }
      p.put 1 (p.prims + 1) p.drops
      modify fun s => s.modPass i fun q => { q with tris := q.tris ++ [t], used := q.used + n }
      return 0

/-- `PRIMEMIT.tri` (R344). -/
def execPrimemitTri (w : TWord) (s : State) : Out :=
  runWord (.primemitTri w) s fun x s => .done <|
    let lanes := x.lanes.filter fun l => !(s.thread l.2).helper
    let buf := passIndex s x w
    let r := eachLane s lanes Prod.snd fun l =>
      emitTri (x.surfaceReq s) buf ((List.range 10).map fun k => (s.opndWord l.2 w.b k).toNat)
    x.surfFinish r.2 (buf % 2 ^ 16) r.1 w.d true

/-! ## VISQ (R348) -/

/-- The unit of quad work and the pixel of a thread in a pixel scene. -/
def visUnit (s : State) (th : Nat) : Option (Pass × QuadWork × Nat × Nat) :=
  let t := s.thread th
  let c := s.scene t.scene
  match c.pass, c.work[t.tid / 4]? with
  | some p, some u => some (s.pass p, u, u.x + t.tid % 2, u.y + t.tid % 4 / 2)
  | _, _ => none

/-- The value of a field of `VISQ` in a thread. -/
def visField (s : State) (th field : Nat) : Nat :=
  match visUnit s th with
  | none => if field == 2 then 0x7FC00000 else 0xFFFFFFFF
  | some (p, u, x, y) =>
    let t := p.tris.getD u.prim default
    match field with
    | 0 => t.id.toNat
    | 1 => x % 2 ^ 16 + y % 2 ^ 16 * 2 ^ 16
    | 2 => t.depth x y
    | _ => b2n (!(s.thread th).helper)

/-- `VISQ` (R348). -/
def execVisq (w : TWord) (s : State) : Out :=
  runWord (.visq w) s fun x s => .done <|
    x.surfFinish s 0xFFFF (x.lanes.map fun l => (l.2, .ok (visField s l.2 w.mod.toNat))) w.d w.nw

/-! ## Motion requests (R350 to R352) -/

def mvCur (d : Nat) : Nat := bitsOf d 15 0
def mvSlot (d : Nat) : Nat := bitsOf d 17 16
def mvNoref (d : Nat) : Bool := bitOf d 18
def mvHint (d : Nat) : Bool := bitOf d 19
def mvBx0 (d : Nat) : Nat := bitsOf d 43 32
def mvBy0 (d : Nat) : Nat := bitsOf d 55 44
def mvNbx (d : Nat) : Nat := bitsOf d 71 64 + 1
def mvNby (d : Nat) : Nat := bitsOf d 79 72 + 1
def mvRad (d : Nat) : Nat := bitsOf d 86 80
def mvThresh (d : Nat) : Nat := bitsOf d 95 88
def mvOutc (d : Nat) : Nat := bitsOf d 127 96
def mvOutf (d : Nat) : Nat := bitsOf d 159 128

/-- Bytes of an output area, rounded up to whole lines. -/
def mvBytes (d : Nat) : Nat := (8 * mvNbx d * mvNby d + 127) / 128 * 128

/-- Steps 1 to 4 of the checks of R350: CUR and its reference. -/
def mveCheck (r : Req) (d : Nat) : SurfM (Surf × Nat) := do
  if [(31, 20), (63, 56), (87, 87), (255, 160)].any (fun f => bitsOf d f.1 f.2 != 0) || 64 < mvRad d then
    throw (surfProt 0x0500)
  let y ← openSurf r (mvCur d) (if mvHint d then 3 else 1)
  if y.state == 0 then throw (surfProt 0x0401)
  let ok ← y.refUsable (mvSlot d) 2
  if !ok then throw (surfProt 0x0403)
  if (y.w + 3) / 4 ≤ mvBx0 d + mvNbx d - 1 || (y.h + 3) / 4 ≤ mvBy0 d + mvNby d - 1 then
    throw { kind := 3, va := 0, detail := 0 }
  return (y, y.refGen (mvSlot d))

/-- Step 5: the output addresses in the scene's scratchpad; no rule names an address for the record (R271). -/
def mveOutFault (c : Scene) (d : Nat) : Option FaultInfo :=
  let outs := [mvOutc d, mvOutf d].filter (· != 0xFFFFFFFF)
  if outs.any (· % 128 != 0) then some { kind := 5, va := 0, detail := 0 }
  else if outs.any fun a => !c.spIn a (mvBytes d) then some { kind := 4, va := 0, detail := 0 }
  else none

/-- Requests of a context on a die, with their place in the list: all of them, and those of instructions, which have a
ticket. -/
def State.mveAll (s : State) (ctx die : Nat) : List Nat := indices s.mveReqs fun q => q.ctx == ctx && q.die == die
def State.mveOf (s : State) (ctx die : Nat) : List Nat := (s.mveAll ctx die).filter fun i => (s.mveReqs.getD i default).node.isNone

/-- `MVEREQ` (R350). -/
def execMvereq (w : TWord) (s : State) : Out :=
  onceWord (.mvereq w) s [] fun x s _ =>
    let c := s.scene x.scene
    let d := (List.range 8).foldl (fun acc k => acc + (c.uniReg (selReg w.a + k)).toNat * 2 ^ (32 * k)) 0
    let die := coreDie x.core
    let q := (mveCheck (x.surfaceReq s) d).run s
    match q.1 with
    | .error f => onceFault x q.2 f.kind (mvCur d) f.va f.detail
    | .ok (y, rg) =>
      match mveOutFault c d with
      | some f => onceFault x q.2 f.kind 0xFFFF f.va f.detail
      | none =>
        if s.motionFull die then .hold (.motion die)
        else
          let ticket := (s.mveOf (x.ctx s) die).length % 2 ^ 32
          .done { x.start q.2 [d, s.mveReqs.length] (sameWrites w.d w.nw x.lanes (wordsOf 1 ticket)) with
            mveReqs := q.2.mveReqs ++ [{ die := die, ctx := x.ctx s, ticket := ticket, desc := d
                                         issuer := some q.2.ops.length, node := none, state := 0, eng := 0, refined := 0
                                         final := [], hdr := y.hdr, refBuf := y.refIdx (mvSlot d), refGen := rg }] }

/-- The value of a field of `MVEQRY` (R352). -/
def mveField (s : State) (ctx die field a : Nat) : Nat :=
  let mine := s.mveOf ctx die
  if field == 2 then ((s.mveAll ctx die).filter fun i => (s.mveReqs.getD i default).state == 0).length
  else match ((mine.drop (mine.length - 256)).find? fun i => (s.mveReqs.getD i default).ticket == a) with
    | none => 0xFFFFFFFF
    | some i => let q := s.mveReqs.getD i default; if field == 0 then q.state else q.refined

/-- `MVEQRY` (R352). -/
def execMveqry (w : TWord) (s : State) : Out :=
  runWord (.mveqry w) s fun x s => .done <|
    x.surfFinish s 0xFFFF (x.lanes.map fun l =>
      (l.2, .ok (mveField s (x.ctx s) (coreDie x.core) w.mod.toNat (s.opnd l.2 w.a).toNat))) w.d w.nw

/-- What an engine finds for a request: the current surface, the coarse and the final records of its blocks, and the blocks
refined (R351). -/
def mveSearch (r : Req) (d : Nat) : SurfM (Surf × List Byte × List Byte × Nat) := do
  let (y, _) ← mveCheck r d
  let blocks := (List.range (mvNbx d * mvNby d)).map fun k => (mvBx0 d + k % mvNbx d, mvBy0 d + k / mvNbx d)
  let g ← y.curBlocks (y.tileBlocks blocks)
  let coarse ← blocks.mapM fun b => y.coarseBlock g (mvSlot d) b.1 b.2 (mvRad d)
  let final ← (blocks.zip coarse).mapM fun b =>
    y.refineBlock g (mvSlot d) b.1.1 b.1.2 (mvThresh d) (mvNoref d) b.2
  return (y, coarse.flatMap fun m => m.bytes (y.dep 0), final.flatMap fun m => m.bytes (y.dep 0),
    (final.filter fun m => m.refined).length)

end Sys2Proof.Machine
end

