-- ==== Sys2Proof/Machine/Complete.lean ====
section
/-! DEFINITION. Operations under way: their completions (R144), their lines (R71), what holds them (R230, R89) and the
WO waits of threads (R89). -/

namespace Sys2Proof.Machine

/-- An operation held at a translation fault is abandoned at once where the policy halts the fault (R230). -/
def State.settleHeld (s : State) (i : Nat) : State :=
  match (s.op i).held with
  | some f => if s.opHalts (s.op i) f.kind then s.abandonHeld i else s
  | none => s

/-- The rows or elements of a stepped word have all been issued (R34). -/
def Op.issuedAll (o : Op) : Bool :=
  match o.instr with
  | .loopn w => nestTotal w ≤ o.progress
  | .fill _ => o.args.getD 2 0 ≤ o.progress
  | .mstream _ | .mlut _ | .mdrain _ => o.args.getD 3 0 ≤ o.args.getD 0 0
  | _ => true

/-- The completion of an operation of the array or of an operand slot, in the order that R269 and R270 allow. -/
def State.arrayComplete (s : State) (i : Nat) : State :=
  if !(s.matReady i && (s.op i).issuedAll) then s
  else match (s.op i).instr with
    | .oprel _ => s.oprelDo i
    | .wlatch w => s.wlatchDo i (w.mod.toNat % 4)
    | .mstream w => s.streamDo i false (bitOf w.mod.toNat 0) (bitOf w.mod.toNat 1) (bitOf w.mod.toNat 2)
    | .mlut w => s.streamDo i true (bitOf w.mod.toNat 0) (bitOf w.mod.toNat 1) (bitOf w.mod.toNat 2)
    | .mzero _ => s.mzeroDo i
    | .mdrain w => (s.mdrainDo i (w.mod.toNat % 4) (bitOf w.mod.toNat 2) (bitOf w.mod.toNat 3)).getD s
    | _ => s

/-- The completion of a privileged instruction. -/
def State.sysComplete (s : State) (i : Nat) : State :=
  match (s.op i).instr with
  | .rdsys w => s.rdsysDo i w
  | .wrsys _ => s.wrsysDo i
  | .frpop w => s.frpopDo i w
  | .resumeRec w => s.resumeRecDo i w
  | .resumeScn w => s.resumeScnDo i w
  | .swapout w => s.swapoutDo i w
  | .swapin w => s.swapinDo i w
  | .scenekill w => s.scenekillDo i w
  | .haltb w => s.haltbDo i w
  | .tlbinvRange _ => s.tlbinvRangeDo i
  | .tlbinvCtx _ => s.tlbinvCtxDo i
  | .retype w => s.retypeDo i w
  | .hashver w => s.hashverDo i w
  | .ptwr _ => s.ptwrDo i
  | .drain w => s.drainDo i w false
  | .drainAbandon w => s.drainDo i w true
  | .waitev _ => s
  | _ => s.completeOp i

/-- THE COMPLETION OF AN OPERATION (R144), as far as it can complete now: what the operation does at its unit, then its
destination, its flags and its cue flag. -/
def State.complete (s : State) (i : Nat) : State :=
  let o := s.op i
  if o.done || s.ops.length ≤ i then s
  else match o.instr with
    | .cpy _ | .cpyb _ | .cpym _ => (s.copyComplete i).settleHeld i
    | .opld _ | .opldg _ => (s.opldRun i 300).settleHeld i
    | .oprel _ | .wlatch _ | .mstream _ | .mlut _ | .mzero _ | .mdrain _ => s.arrayComplete i
    | .loopn _ | .fill _ => if o.issuedAll then s.completeOp i else s
    | .taskputResv w => taskResvDone s i w
    | .taskputCommit _ => taskCommitDone s i
    | .taskputFree _ => taskFreeDone s i
    | .taskarm _ => taskArmDone s i State.armTask
    | .taskarmDec _ => taskArmDone s i fun s r k => s.taskAtomic r k decHeader
    | .acbind w => s.acbindDo i w
    | .acunbind w => s.acunbindDo i w
    | .acparam w => s.acparamDo i w
    | .acqry w => s.acqryDo i w
    | .smat _ => s.smatDo i
    | .sld _ | .sst _ | .sstc _ | .sstmv _ | .sstmvHint _ | .sqry _ => if o.queued then s.surfDone i else s.completeOp i
    | .ssealSeal _ | .mvereq _ => s
    | _ => if 0xE0 ≤ o.instr.opcode then s.sysComplete i else s.completeOp i

/-- VARIABLE_COMPLETION (R144). -/
def execVariableCompletion (op : Nat) (s : State) : Out := .next (s.complete op)

/-- ENGINE_LINE_FILL (R71): one line of an operation is done. -/
def execEngineLineFill (op : Nat) (s : State) : Out := .next <|
  let o := s.op op
  if o.done || s.ops.length ≤ op then s
  else match o.instr with
    | .cpy _ | .cpyb _ | .cpym _ => ((s.copyStep op).getD s).settleHeld op
    | .opld _ | .opldg _ => ((s.opldStep op).getD s).settleHeld op
    | _ => s

/-- COPY_FAULT_RESUME (R230): the page at which an operation is held translates now, or meets another fault, which the
operation then posts. -/
def execCopyFaultResume (op : Nat) (s : State) : Out := .next <|
  match (s.op op).held with
  | none => s
  | some f =>
    let write := (s.op op).isCopy && (s.op op).copyOut
    let q := s.translate (s.op op).req f.va write false none
    match q.1 with
    | .ok _ => q.2.modOp op fun o => { o with held := none }
    | .error e => if e.kind == f.kind && e.detail == f.detail then s else q.2.modOp op fun o => { o with held := none }

/-! ## WO waits (R89) -/

/-- Cycles of a die's WOTIMEOUT. -/
def State.woLimit (s : State) (die : Nat) : Nat := (s.die die).woTimeout * Config.cyclesPerMicro

/-- WO_WAIT_TIMEOUT (R89): the wait becomes a WOWAIT fault; while the thread is halted the timeout does not run. -/
def execWoWaitTimeout (thread : Nat) (s : State) : Out := .next <|
  let t := s.thread thread
  match t.wo with
  | none => s
  | some v =>
    if t.halted || s.clock < v.since + s.woLimit (coreDie (s.scene t.scene).core) then s
    else
      let s := s.takeFault thread 9 t.pc (some t.wpos) v.buf v.va 0
      (s.modThread thread fun x => { x with stopped := t.stopped }).evalReady t.scene

/-- ENGINE_WO_WAIT_TIMEOUT (R89). -/
def execEngineWoWaitTimeout (op : Nat) (s : State) : Out := .next <|
  match (s.op op).wo with
  | none => s
  | some v => if s.clock < v.since + s.woLimit (coreDie (s.op op).core) then s else s.endEngineWait op

/-- WAITEV_WAKE (R403). -/
def execWaitevWake (op : Nat) (s : State) : Out := .next <|
  match (s.op op).instr with
  | .waitev w => if (s.op op).done then s else s.waitevDo op w
  | _ => s

/-- TIMER_EXPIRY (R402). -/
def execTimerExpiry (die : Nat) (s : State) : Out := .next <|
  if (s.die die).timer != 0 && s.timerLeft die == 0 then
    (s.modDie die fun r => { r with timer := 0 }).setEvent die 6
  else s

/-! ## Supervisor writes that are steps of their own -/

/-- EVPEND_WRITE (R402). -/
def execEvpendWrite (die : Nat) (value : Word) (s : State) : Out := sysWrite s die 0x006 0 value.toNat

/-- TIMER_WRITE (R401). -/
def execTimerWrite (die : Nat) (value : Word) (s : State) : Out := sysWrite s die 0x00A 0 value.toNat

/-- EVENTRY_WRITE (R404). -/
def execEventryWrite (die : Nat) (value : DWord) (s : State) : Out := sysWrite s die 0x009 0 value.toNat

/-- GROUPMODE_WRITE (R366). -/
def execGroupmodeWrite (group : Nat) (value : Word) (s : State) : Out := sysWrite s 0 0x303 group value.toNat

/-- FQBASE_WRITE (R383). -/
def execFqbaseWrite (ctx : Nat) (value : DWord) (s : State) : Out := sysWrite s 0 0x107 ctx value.toNat

/-- SUPQBASE_WRITE (R383). -/
def execSupqbaseWrite (die : Nat) (value : DWord) (s : State) : Out := sysWrite s die 0x00D 0 value.toNat

/-- DAILYCFG_WRITE (R438). -/
def execDailycfgWrite (die : Nat) (value : Word) (s : State) : Out := sysWrite s die 0x013 0 value.toNat

/-- SILCFG_WRITE (R443). -/
def execSilcfgWrite (die : Nat) (value : Word) (s : State) : Out := sysWrite s die 0x018 0 value.toNat

/-! ## Handlers (R404) -/

/-- The scene of a handler thread: one thread, at an entry of a supervisor kernel. -/
def handlerScene (k : Kernel) (die bit entry seq handle : Nat) : Scene :=
  { (default : Scene) with
    ctx := supCtx, sid := BitVec.ofNat 32 seq, node := none, kernel := handle, code := k.code, codeSize := k.codeSize
    kconst := k.kconst, kcSize := k.kcSize, entries := k.entries, entry := entry, nthr := 1, cap := 1, regs := k.regs
    alloc := 4096 * k.dscr, win := 1024 * k.dxwin, slots := 0, quad := false, arr := false, consts := [], prio := 0
    die := die, unit := die, part := 48, st := .queued, seq := seq, handler := some bit }

/-- A `WAITEV` on a die waits on an event bit. -/
def State.waitedOn (s : State) (die bit : Nat) : Bool :=
  s.ops.any fun o => !o.done && coreDie o.core == die && (match o.instr with
    | .waitev _ => bitOf (o.args.getD 0 0) bit
    | _ => false)

/-- An event is to be dispatched (R404). -/
def State.dispatchable (s : State) (die bit : Nat) : Bool :=
  let r := s.die die
  s.power == .run && die < 4 && !r.noDispatch && bitOf r.evPend.toNat bit && bitOf r.evMask.toNat bit &&
    !bitOf r.evSvc.toNat bit && !s.waitedOn die bit

/-- HANDLER_DISPATCH (R404): a handler thread starts at EVENTRY on a Director of the die, or dispatch stops. -/
def execHandlerDispatch (die bit : Nat) (s : State) : Out := .next <|
  if !s.dispatchable die bit then s
  else
    let e := (s.die die).evEntry.toNat
    let q := s.kernel (coreReq supCtx (64 * die + 48)) (e % 2 ^ 32)
    let off := e / 2 ^ 32
    match q.1 with
    | some k =>
      if k.entries.contains off then
        let sc := { handlerScene k die bit off q.2.seqCtr (e % 2 ^ 32) with
          sid := q.2.freeSid supCtx (q.2.scenes.length + 2) (BitVec.ofNat 32 q.2.seqCtr) }
        let cores := [64 * die + 48, 64 * die + 49].filter fun n => !(q.2.freeGroups n).isEmpty && q.2.fits sc n
        match cores with
        | [] => s
        | a :: rest =>
          let c := q.2.choose
          let core := if c.1 then rest.getD 0 a else a
          let s := { c.2 with scenes := c.2.scenes ++ [sc], seqCtr := c.2.seqCtr + 1 }
          (s.startScene (s.scenes.length - 1) core (fun _ => false) (BitVec.ofNat 32 bit)).modDie die fun r =>
            { r with evSvc := r.evSvc ||| BitVec.ofNat 32 (2 ^ bit) }
      else (q.2.postUnit supCtx die 0x0A 0 bit).modDie die fun r => { r with noDispatch := true }
    | none => (q.2.postUnit supCtx die 0x0A 0 bit).modDie die fun r => { r with noDispatch := true }

end Sys2Proof.Machine
end

