-- ==== Sys2Proof/Machine/Sched.lean ====
section
/-! DEFINITION. The core's own steps between words: clause starts with the checks of R131, R132 and R439, spent holds,
scheduling rounds and reels (R33 to R37), sleeps (R179), register lines (R54), code rows (R396), asynchronous halts (R380)
and the choice of scenes to swap out (R388). -/

namespace Sys2Proof.Machine

/-- AGEMAX of a core's die; a value of 0 acts as 1 (R36). -/
def State.ageLimit (s : State) (core : Nat) : Nat := max 1 (s.die (coreDie core)).ageMax

/-! ## Clause starts (R33) -/

/-- A fault of a lane at a clause boundary: the record names the slate or one of its words, and the thread stands at
the slate (R131, R132). -/
def State.clauseLane (s : State) (tk kind detail : Nat) (pc : DWord) (th : Nat) : State :=
  let sc := (s.thread th).scene
  let halt := s.halts (s.scene sc).ctx kind
  let r := s.threadRec th kind halt pc 0xFFFF 0 detail
  (s.stopThread th halt (s.take tk).pc none).post (s.sceneQueue sc) (s.scene sc).ctx (s.scene sc).core (some th) r

/-- The fault of a clause in every lane present, in ascending order. -/
def State.clauseStop (s : State) (tk kind detail : Nat) (pc : DWord) : State :=
  (s.take tk).lanes.foldl (fun (s : State) l => s.clauseLane tk kind detail pc l.2) s

/-- A break of a lane at a slate (R439): its region starts there, and it halts whatever the policy says. -/
def State.breakLane (s : State) (pc : DWord) (detail th : Nat) : State :=
  let s := s.modThread th fun t => { t with rgnPc := pc, stepping := 0 }
  s.takeFault th 0x14 pc none 0xFFFF 0 detail true

/-- The breakpoint that a clause of a scene matches: its entry (R439). -/
def State.breakpoint (s : State) (c : Scene) (off : Nat) : Option Nat :=
  (List.range 8).find? fun e =>
    let v := ((s.ctx c.ctx).bpt.toList.getD e 0).toNat
    bitOf v 50 && v % 2 ^ 32 == c.kernel && bitsOf v 49 32 == off

/-- The breaks of a take at its next clause: lanes whose step is over, then lanes at a breakpoint (R439). -/
def State.breakLanes (s : State) (tk : Nat) : State :=
  let t := s.take tk
  let c := s.scene t.scene
  let s := (t.lanes.filter fun l => (s.thread l.2).stepping == 2).foldl (fun (s : State) l =>
    s.breakLane t.pc 0x00010000 l.2) s
  match s.breakpoint c (c.codeOff t.pc) with
  | none => s
  | some e => ((s.take tk).lanes.filter fun l => !(s.thread l.2).unbroken).foldl (fun (s : State) l =>
      s.breakLane t.pc (0x00020000 + e) l.2) s

/-- The WAIT condition of a take's clause holds: its threads observe the completions that its flags count (R29, R96). -/
def State.meetClause (s : State) (tk : Nat) : State :=
  let t := s.take tk
  let c := s.scene t.scene
  s.meetFlags (t.lanes.map Prod.snd)
    ((List.range 12).filter (bitOf (slateWait (s.codeNum t.core c (c.codeOff t.pc) 8))))

/-- A fresh clause starts: the latches are zero (R57), and results still on their way to them are not wanted. -/
def State.beginClause (s : State) (tk : Nat) (pipe : Bool) : State :=
  let t := s.take tk
  let c := s.scene t.scene
  let isLatch := fun (p : Pending) => (match p.write.dest with
    | .b _ => true
    | _ => false) && t.lanes.any fun l => l.2 == p.write.thread
  let s := { s with pend := s.pend.filter fun p => !isLatch p }
  let s := t.lanes.foldl (fun (s : State) l => s.modThread l.2 fun x =>
    { x with latch := .replicate 4 0, unbroken := false, stepping := if x.stepping == 1 then 2 else x.stepping
             mid := false, wpos := 0 }) s
  let s := s.meetClause tk
  s.modTake tk fun t =>
    { t with st := .issuing pipe, pos := 0, cnt := slateCnt (s.codeNum t.core c (c.codeOff t.pc) 8), holds := 0, hold := .free, progress := 0, inStep := false
             age := 0, started := true }

/-- A suspended take continues at its word, which issues with distance 0 (R32, R89). -/
def State.continueTake (s : State) (tk : Nat) (pipe : Bool) : State :=
  let t := s.take tk
  let c := s.scene t.scene
  let s := t.lanes.foldl (fun (s : State) l => s.modThread l.2 fun x => { x with mid := false, wpos := 0 }) s
  let s := if t.cont then s.meetClause tk else s
  s.modTake tk fun t =>
    { t with st := .issuing pipe, cnt := slateCnt (s.codeNum t.core c (c.codeOff t.pc) 8), holds := 0, hold := .free, cont := false
             last := s.clock - 8, age := 0, started := true }

/-- The next clause of a waiting take is checked and, where nothing stops it, starts (R131, R132, R439). -/
def State.startClause (s : State) (tk : Nat) (pipe : Bool) : State :=
  let s := s.breakLanes tk
  let t := s.take tk
  let c := s.scene t.scene
  let off := c.codeOff t.pc
  let wordPc := fun (p : Nat) => t.pc + BitVec.ofNat 64 (8 * (p + 1))
  if t.lanes.isEmpty then s
  else match s.clauseFault t.core c off with
    | some (none, cause) => s.clauseStop tk 0x0A cause t.pc
    | some (some p, cause) => s.clauseStop tk 0x0A (cause + 256 * p) (wordPc p)
    | none => match if isDirector t.core then none else s.privWord t.core c off with
      | some p => s.clauseStop tk 0x0B (256 * p) (wordPc p)
      | none => s.beginClause tk pipe

/-- The stepped word between steps that a pipe may leave for a ready take whose age has reached AGEMAX (R34). -/
def State.leavable (s : State) (core bay : Nat) (pipe : Bool) (best : Nat) : Option Nat :=
  (indices s.takes fun t => t.core == core && t.bay == bay && t.st == .issuing pipe && t.betweenSteps &&
    (s.scene t.scene).st == .resident && s.ageLimit core ≤ (s.take best).age).head?

/-- CLAUSE_START (R33). -/
def execClauseStart (core bay : Nat) (pipe : Bool) (s : State) : Out := .next <|
  match s.bestTake core bay with
  | none => s
  | some k =>
    let go := fun (s : State) => if (s.take k).st == .suspended then s.continueTake k pipe else s.startClause k pipe
    if !s.pipeBusy core bay pipe then go s
    else match s.leavable core bay pipe k with
      | some m => go (s.modTake m fun t => { t with st := .suspended })
      | none => s

/-- HOLD_ALLOWANCE_SPENT (R32): 64 cycles of holds are spent, the condition of the word still fails, and the clause is
suspended at it. -/
def execHoldAllowanceSpent (take : Nat) (s : State) : Out := .next <|
  match (s.take take).st with
  | .issuing _ =>
    if 64 ≤ (s.take take).holds && s.wordWaits take then s.modTake take fun t => { t with st := .suspended } else s
  | _ => s

/-! ## Reels (R36, R37) -/

/-- Draw a reel into a take bound to a bay (R37): one of a continuation reel stands inside its clause (R89). -/
def State.drawReel (s : State) (rl bay : Nat) : State :=
  let r := s.reel rl
  let w := ((r.lanes.head?).map fun l => (s.thread l.2).wpos).getD 0
  let s := s.modReel rl fun r => { r with live := false, lanes := [], reserved := [] }
  let tk := s.takes.length
  if r.cont then
    (s.newTake r.core r.scene bay 0 (r.pc - BitVec.ofNat 64 (8 * (w + 1))) r.lanes 0).modTake tk fun t =>
      { t with pos := w, st := .suspended, cont := true }
  else s.newTake r.core r.scene bay 0 r.pc r.lanes 0

/-- The oldest of the reels of a core that satisfy a test; of reels of one age the one that was formed first (DESIGN
CHOICE, log 71: R37 names no order among them). -/
def State.oldestReel (s : State) (core : Nat) (p : Reel → Bool) : Option Nat :=
  (indices s.reels fun r => r.core == core && r.live && !r.lanes.isEmpty && (s.scene r.scene).st == .resident && p r).foldl
    (fun best k => match best with
      | none => some k
      | some b => if (s.reel b).age < (s.reel k).age then some k else some b) none

/-- Draw every reel of a core that satisfies a test, oldest first, each bound under R25. -/
def State.drawAll (s : State) (core : Nat) (p : Reel → Bool) : Nat → State
  | 0 => s
  | fuel + 1 => match s.oldestReel core p with
    | none => s
    | some r => (s.drawReel r (s.freeBay core)).drawAll core p fuel

/-- The reel unit draws aged reels, and then full ones (R37). -/
def State.drawDue (s : State) (core : Nat) : State :=
  let s := s.drawAll core (fun r => s.ageLimit core ≤ r.age) 64
  s.drawAll core (fun r => r.lanes.length == 32) 64

/-- A bay is idle (R37). -/
def State.bayIdle (s : State) (core bay : Nat) : Bool :=
  !(s.pipeBusy core bay false && s.pipeBusy core bay true) && (s.bestTake core bay).isNone

/-- IDLE_BAY_REEL_DRAW (R37). -/
def execIdleBayReelDraw (core bay : Nat) (s : State) : Out := .next <|
  if s.bayIdle core bay && bay < 4 && s.power == .run then
    let s := s.drawDue core
    if s.bayIdle core bay then
      match s.oldestReel core fun _ => true with
      | some r => s.drawReel r bay
      | none => s
    else s
  else s

/-! ## Swapping at the end of a round (R388) -/

/-- The stopped threads of a scene. -/
def State.stoppedOf (s : State) (sc : Nat) : List Nat := (s.scene sc).threads.filter fun th => (s.thread th).isStopped

/-- The clock of a scene's oldest stop. -/
def State.oldestStop (s : State) (sc : Nat) : Nat :=
  (s.stoppedOf sc).foldl (fun m th => min m (s.thread th).stopped) s.clock

/-- A resident scene qualifies for swap-out (R388). -/
def State.qualifies (s : State) (sc : Nat) : Bool :=
  let r := s.die (coreDie (s.scene sc).core)
  let n := (s.stoppedOf sc).length
  (s.scene sc).st == .resident && (s.scene sc).ctx != supCtx &&
    (r.parkFrac * (s.liveThreads sc).length ≤ 64 * n ||
      (n != 0 && r.parkT * Config.cyclesPerMicro ≤ s.clock - s.oldestStop sc))

/-- Some other scene waits for the core of this one: it would be admissible there if this one's resources were free. -/
def State.wantedCore (s : State) (sc : Nat) : Bool :=
  let c := s.scene sc
  let out := s.modScene sc fun c => { c with st := .swapped }
  (List.range s.scenes.length).any fun j =>
    let d := s.scene j
    j != sc && d.part == c.part && ((d.st == .queued && out.admissible d c.core) || (d.st == .ready && out.readmissible j c.core))

/-- The scene of a core that is swapped out at the end of a round: most stopped threads, then the earliest stop. -/
def State.swapChoice (s : State) (core : Nat) : Option Nat :=
  (indices s.scenes fun c => c.core == core && c.st == .resident).foldl (fun best k =>
    if !(s.qualifies k && s.wantedCore k) then best
    else match best with
      | none => some k
      | some b =>
        let n := (s.stoppedOf k).length
        let m := (s.stoppedOf b).length
        if m < n || (m == n && s.oldestStop k < s.oldestStop b) then some k else some b) none

/-- The ages after a round (R36, R179). -/
def State.roundAges (s : State) : State :=
  let up := (List.range s.takes.length).filter fun k =>
    (s.takeReady k || (s.take k).ready) && !(s.take k).started && !(s.take k).yielded
  { s with
    takes := (s.takes.zipIdx).map fun t =>
      { t.1 with age := if up.contains t.2 then min 63 (t.1.age + 1) else t.1.age, yielded := false, ready := false
                 started := false }
    reels := s.reels.map fun r =>
      { r with age := if r.held && r.live && (s.scene r.scene).st != .suspended then min 63 (r.age + 1) else r.age, held := r.live && !r.lanes.isEmpty } }

/-- The end of one round (R36, R37, R388): ages, draws, and the choice of scenes to swap out. -/
def State.endRound (s : State) : State :=
  let s := s.roundAges
  let cores := (s.scenes.filter fun c => c.st == .resident).map (·.core) |>.eraseDups
  let s := cores.foldl State.drawDue s
  cores.foldl (fun (s : State) k => match s.swapChoice k with
    | some sc => s.startSwap sc
    | none => s) s

/-- Rounds that end one after another. -/
def State.endRounds (s : State) : Nat → State
  | 0 => s
  | n + 1 => s.endRound.endRounds n

/-- SCHEDULING_ROUND_END (R36, R37, R388): the rounds that are over end. Nothing of them is left after 64 in which nothing
else happens: every age stands still. -/
def execSchedulingRoundEnd (s : State) : Out := .next <|
  let n := s.clock / 64 - s.rounds
  if n != 0 && s.power == .run then ({ s with rounds := s.clock / 64 } : State).endRounds (min n 64) else s

/-- SLEEP_EXPIRY (R179): the count runs while the take is resident. -/
def execSleepExpiry (take : Nat) (s : State) : Out := .next <|
  let t := s.take take
  if t.sleep != 0 && t.st == .waiting && (s.scene t.scene).st == .resident && t.last + t.sleep ≤ s.clock then
    s.modTake take fun t => { t with sleep := 0 }
  else s

/-! ## Register lines and code rows -/

/-- A thread's line is pinned: the clause of its take that issues names it (R54). -/
def State.linePinned (s : State) (th line : Nat) : Bool :=
  match (s.thread th).place with
  | .take k => match (s.take k).st with
    | .issuing _ =>
      (List.range (s.take k).cnt).any fun p => match s.wordAt k p with
        | some i => i.lines.contains line
        | none => false
    | _ => false
  | _ => false

/-- The lines of a bank of a core: the threads of one colour with their lines (R54). -/
def State.bankLines (s : State) (core colour : Nat) : List (Nat × Nat) :=
  (indices s.threads fun t => t.colour == colour && !t.cached.isEmpty && (s.scene t.scene).core == core).flatMap fun th =>
    (s.thread th).cached.map fun n => (th, n)

/-- The line of a list that was used least recently. -/
def State.oldestLine (s : State) (ls : List (Nat × Nat)) : Option (Nat × Nat) :=
  let at1 := fun (x : Nat × Nat) => (s.thread x.1).used.get x.2
  ls.foldl (fun best x => match best with
    | none => some x
    | some b => if at1 x < at1 b then some x else some b) none

/-- Evict a line of a full bank: the least recently used of those that are not pinned, one of a pre-empted scene first (R54,
R394). -/
def State.evictLine (s : State) (core colour : Nat) : Option State :=
  let ls := s.bankLines core colour
  if ls.length < 96 then some s
  else
    let free := ls.filter fun x => !s.linePinned x.1 x.2
    let away := free.filter fun x => (s.scene (s.thread x.1).scene).st == .suspended
    ((s.oldestLine away).or (s.oldestLine free)).map fun x => s.modThread x.1 fun t =>
      { t with cached := t.cached.filter fun n => n != x.2 }

/-- REGISTER_LINE_FILL (R54): an absent line arrives. Line 0 is the control line, line k + 1 data line k. -/
def execRegisterLineFill (thread line : Nat) (s : State) : Out := .next <|
  let t := s.thread thread
  let c := s.scene t.scene
  if !t.live || t.cached.contains line || (c.regs + 31) / 32 < line || c.st != .resident then s
  else match s.evictLine c.core t.colour with
    | some s => s.modThread thread fun t =>
      { t with cached := insertNat line t.cached, used := t.used.set line s.clock }
    | none => s

/-- The row of a core's instruction memory that a load takes: a free one, or the least recently used without leases. -/
def State.rowFor (s : State) (core : Nat) : Option Nat :=
  match (List.range 64).find? fun r => !(s.codeRows.any fun x => x.core == core && x.row == r) with
  | some r => some r
  | none =>
    ((s.codeRows.filter fun x => x.core == core && s.leases core x.ctx x.kernel x.code == 0).foldl
      (fun (best : Option CodeRow) x => match best with
        | none => some x
        | some b => if x.used < b.used then some x else some b) none).map (·.row)

/-- CODE_ROW_LOAD (R396): code is read as class LSU; a row whose code cannot be read stays absent. -/
def execCodeRowLoad (core scene row : Nat) (s : State) : Out := .next <|
  let c := s.scene scene
  if (s.codeRow core c.ctx c.kernel row).isSome || c.codeSize ≤ 4096 * row || c.core != core || c.st != .resident then s
  else match s.rowFor core with
    | none => s
    | some r =>
      let q := s.virtRead (coreReq c.ctx core) (c.code + 4096 * row) (min 4096 (c.codeSize - 4096 * row))
      match q.1 with
      | .error _ => q.2
      | .ok (bs, _) =>
        { q.2 with codeRows := (q.2.codeRows.filter fun x => !(x.core == core && x.row == r)) ++
            [{ core := core, row := r, ctx := c.ctx, kernel := c.kernel, code := row, state := 2, bytes := bs
               used := q.2.clock }] }

/-! ## Asynchronous halts and empty slots -/

/-- ASYNC_RECORD_HALT (R380): a thread that a record is to halt stands at a clause boundary; it keeps its region. -/
def execAsyncRecordHalt (thread : Nat) (s : State) : Out := .next <|
  let t := s.thread thread
  if !t.haltNext then s
  else
    let stop := fun (s : State) (pc : DWord) => ((s.leaveTake thread).modThread thread fun t =>
      { t with pc := pc, mid := false, wpos := 0, halted := true, haltNext := false, stopped := s.clock }).evalReady t.scene
    match t.place with
    | .take k => if (s.take k).st == .waiting || (s.take k).st == .saved false then stop s (s.take k).pc else s
    | .reel r => if (s.reel r).cont then s else stop s (s.reel r).pc
    | .nowhere => s.haltAsync thread

/-- SLOT_EMPTY (R24). -/
def execSlotEmpty (thread : Nat) (s : State) : Out := .next (s.slotEmpty thread)

/-! ## Swap-out, readmission and restoration (R389 to R392) -/

/-- SWAP_SAVE_COMPLETE (R389, R390): the takes have stopped, and the image is complete. -/
def execSwapSaveComplete (scene : Nat) (s : State) : Out := .next <|
  if (s.scene scene).st == .saving && s.stoppable scene then s.saveScene scene else s

/-- SCENE_READMISSION (R391). -/
def execSceneReadmission (scene core : Nat) (s : State) : Out := .next <|
  if (s.scene scene).st == .ready && s.itsTurn scene && s.readmissible scene core &&
      s.bestCore (s.readmissible scene) == some core then s.startRestore scene core else s

/-- SCENE_RESTORE_COMPLETE (R392). -/
def execSceneRestoreComplete (scene : Nat) (s : State) : Out := .next <|
  if (s.scene scene).st == .restoring then s.restoreScene scene else s

end Sys2Proof.Machine
end

