-- ==== Sys2Proof/Machine/MemEvents.lean ====
section
/-! DEFINITION. What the memory system does by itself: fills and write-backs of the L2 with their checks (R292, R301,
R371, R373), stream contexts (R295), row counters (R368, R374), scrubbing (R365), migration (R369) and soft errors
(R372). -/

namespace Sys2Proof.Machine

/-! ## Line errors (R371) -/

/-- A line of a scrubbing frame that nothing has written or scrubbed: it reads as zeros with a zero tag (R365). -/
def State.unmarked (s : State) (line : Nat) : Bool :=
  tagScrub (s.frameTag (line / 512)) && !(s.scrubs.any fun x => x.frame == line / 512 && x.marks.contains (line % 512))

/-- A line is lost: PSN is set, and the error event, with the line's address, goes to the Director of its home die
(R371). -/
def State.loseLine (s : State) (line : Nat) : State :=
  let die := s.homeDieOf (128 * line)
  ({ s.setLineBit line 10 true with memErrs := (die, 128 * line) :: s.memErrs } : State).setEvent die 4

/-- A fetch of a memory line meets an error (R371): a corrected one is counted for its stack, any other loses the line.
An expander corrects its own errors (R375). -/
def State.fetchError (s : State) (line : Nat) (e : LineError) : State :=
  if !tagged line || s.unmarked line then s
  else match e with
    | .corrected =>
      if isHbm (128 * line) then
        let k := s.stackOf (128 * line)
        { s with errCnt := s.errCnt.set k ((s.errCnt.get k + 1) % 2 ^ 32) }
      else s
    | .uncorrectable => s.loseLine line
    | .clean | .parity => s

/-- A parity error strikes the slot or the context that the next beat of a direction in an Accord meets (R301). -/
def State.hurtBeat (s : State) (i k : Nat) (write : Bool) : State :=
  let a := s.beatAccord (s.binding i) k
  let hurt := fun (f : FormDir) => { f with hurt := insertNat a f.hurt }
  s.modBinding i fun b => if write then { b with wr := b.wr.map hurt } else { b with rd := b.rd.map hurt }

/-- L2_LINE_FILL (R292, R301, R371): a line that the L2 does not hold is read from its memory. The L2 keeps no beat of a
stateful binding: a parity error waits there for the next beat. -/
def execL2LineFill (line : L2Key) (error : LineError) (s : State) : Out := .next <|
  if s.l2.any fun x => x.key == line then s
  else match line with
    | .phys l => if populated (128 * l) && error != .parity then (s.fetchError l error).touchL2 line false false else s
    | .bound h k =>
      match s.handleOf h with
      | none => s
      | some i =>
        let b := s.binding i
        if b.rd.isNone || s.beatBarred b k || b.beats ≤ k then s
        else if b.stateful then (if error == .parity then s.hurtBeat i k false else s)
        else
          let t := match (s.translate b.req (b.base + k * b.sizes.2) false false none).1 with
            | .ok x => if x.pkg == s.pkgId then s.fetchError (lineOf x.pa) error else s
            | .error _ => s
          let q := t.readBeat i k (error == .parity) (accordReader b.handle (t.beatAccord b k / 8))
          match q.1 with
          | .ok (bs, psn) => q.2.keepBeat i k bs psn
          | .error _ => q.2

/-- L2_LINE_WRITEBACK (R292, R301, R373): a line leaves the L2. A dirty one is written to its memory: a bound one through
the write formula, one of an HBM frame compressed where its translation asks for it and it fits. -/
def execL2LineWriteback (line : L2Key) (error : LineError) (s : State) : Out := .next <|
  match line with
  | .phys l => if error == .clean then s.evictPhys l else s
  | .bound h k =>
    match s.handleOf h with
    | none => s
    | some i =>
      if error != .clean && error != .parity then s
      else if s.l2.any fun x => x.key == line then s.evictBeat i k (error == .parity)
      else if (s.binding i).stateful && (s.binding i).wr.isSome && error == .parity then s.hurtBeat i k true
      else s

/-! ## Stream contexts (R295) -/

/-- STREAM_CONTEXT_RELEASE (R295): an element-local binding direction releases its context in an Accord. -/
def execStreamContextRelease (accord handle : Nat) (write : Bool) (s : State) : Out := .next <|
  match s.handleOf handle with
  | none => s
  | some i => s.modBinding i fun b =>
    let free := fun (f : FormDir) => if imgStateful (imgHeader f.image) then f else f.release accord
    if write then { b with wr := b.wr.map free } else { b with rd := b.rd.map free }

/-! ## Banks and rows (R368, R374) -/

/-- The stack of a bank, in the numbering of `BANKCNT` (R401). -/
def bankStack (bank : Nat) : Nat := bank % 8

/-- The place of a row in the table of row counts. -/
def rowKey (bank row : Nat) : Nat := bank * 2 ^ 15 + row

/-- ROW_ACTIVATION (R366, R368, R374): the row that holds a line of an HBM frame is opened in its bank, which closes another that
is open; both limits are checked. -/
def execRowActivation (frame line : Nat) (s : State) : Out := .next <|
  let pa := 128 * (512 * frame + line)
  let bank := s.bankOf pa
  let row := s.rowOf pa
  let k := rowKey bank row
  if !isHbm pa || s.throttled.contains k || s.openRows.get bank == row + 1 then s
  else
    let clash := s.openRows.get bank != 0
    let n := s.bankCnt.get bank + 1
    let die := bankStack bank / 2
    let past := clash && (s.die die).conflTh < n && !s.conflicted.contains bank
    let s := { s with
      openRows := s.openRows.set bank (row + 1)
      bankCnt := if clash then s.bankCnt.set bank n else s.bankCnt
      conflicted := if past then insertNat bank s.conflicted else s.conflicted
      rowCnt := s.rowCnt.set k (s.rowCnt.get k + 1)
      throttled := if Config.activationLimit ≤ s.rowCnt.get k + 1 then insertNat k s.throttled else s.throttled }
    if past then s.setEvent die 2 else s

/-- CONFLICT_WINDOW_END (R368): a window of a stack has run, and its banks count anew. -/
def execConflictWindowEnd (stack : Nat) (s : State) : Out := .next <|
  if stack < 8 && s.windowAt.get stack + Config.conflictWindow ≤ s.clock then
    { s with
      windowAt := s.windowAt.set stack s.clock
      bankCnt := s.bankCnt.filter fun x => bankStack x.1 != stack
      conflicted := s.conflicted.filter fun b => bankStack b != stack }
  else s

/-- REFRESH_MANAGEMENT (R374): the controller's command for a bank frees its throttled rows, which count anew. -/
def execRefreshManagement (bank : Nat) (s : State) : Out := .next
  { s with
    throttled := s.throttled.filter fun k => k / 2 ^ 15 != bank
    rowCnt := s.rowCnt.filter fun x => x.1 / 2 ^ 15 != bank }

/-! ## Scrubbing (R365) -/

/-- The lines of a scrubbing frame that are marked. -/
def State.scrubMarks (s : State) (frame : Nat) : List Nat := ((s.scrubs.find? fun x => x.frame == frame).map (·.marks)).getD []

/-- SCRUB_LINE (R365): the next unmarked line of a frame gets zeros and a zero tag; after the last one SCRUB falls. -/
def execScrubLine (frame : Nat) (s : State) : Out := .next <|
  if !tagScrub (s.frameTag frame) then s
  else
    let s : State := match (List.range 512).find? fun l => !(s.scrubMarks frame).contains l with
      | some l =>
        ({ s with mem := s.mem.dropRange ((frame * 512 + l) * 128) 128, lineTags := s.lineTags.set (frame * 512 + l) 0 }
          : State).markScrub (frame * 512 + l) false
      | none => s
    if (List.range 512).all (s.scrubMarks frame).contains then
      { s with scrubs := s.scrubs.filter fun x => x.frame != frame : State }.setFrameTag frame
        (setBitN (s.frameTag frame) 2 false)
    else s

/-! ## Migration (R369) -/

/-- The lines of a group. -/
def groupLines : Nat := 2 ^ 25

/-- Every group is settled. -/
def State.settledAll (s : State) : Bool := (List.range 128).all fun g => s.moved.get g == groupLines

/-- MIGRATION_STEP (R369): one line step of a group. A line moves to its new place, and the line that it displaces goes
into the staging line; the line of the staging line moves in the step after. A line that has moved, or stays in its place,
is passed. The last step of the last group ends the migration, with the event on every die. -/
def execMigrationStep (group : Nat) (s : State) : Out := .next <|
  let k := s.moved.get group
  if !s.migrating || 128 ≤ group || groupLines ≤ k then s
  else
    let q := groupLine (s.partner (group * 2 ^ 32 + 128 * k))
    if s.staging.get group == 0 && k < q then { s with staging := s.staging.set group (q + 1) }
    else
      let s := { s with moved := s.moved.set group (k + 1), staging := s.staging.set group 0 }
      if s.settledAll then
        (List.range 4).foldl (fun (s : State) d => s.setEvent d 3)
          { s with migrating := false, oldMasks := s.masks, moved := [], staging := [] }
      else s

/-! ## Soft errors (R372) -/

/-- A scene's stores are in a core. -/
def State.storesHere (s : State) (sc : Nat) : Bool := [.resident, .saving].contains (s.scene sc).st

/-- An uncorrectable error in a cached line: a clean line is refetched, a dirty one is poisoned. -/
def State.cacheError (s : State) (owner line : Nat) : State :=
  if owner < 0x1000 then
    match s.l1Find owner s.pkgId line with
    | none => s
    | some l =>
      let s := { s with l1 := s.l1.filter fun x => !(x.core == owner && x.pkg == s.pkgId && x.line == line) }
      if l.dirty.isEmpty then s else s.loseLine line
  else if s.homeDieOf (128 * line) != owner - 0x1000 then s
  else match s.l2.find? fun x => x.key == .phys line with
    | none => s
    | some l => if l.dirty then s.loseLine line else { s with l2 := s.l2.filter fun x => x.key != .phys line }

/-- An uncorrectable error in an L2 line of a binding, named by its handle and beat: a dirty beat is poisoned, and the error
event, with the address of its memory form, goes to the Director of the die that holds it (R371). -/
def State.beatError (s : State) (i k : Nat) : State :=
  let b := s.binding i
  let key : L2Key := .bound b.handle k
  match s.l2.find? fun x => x.key == key with
  | none => s
  | some l =>
    if l.dirty then
      let die := s.keyDie key
      let pa := match (s.translate b.req (b.base + k * b.sizes.2) false false none).1 with
        | .ok x => x.pa
        | .error _ => 0
      let s := s.modBinding i fun b => { b with poison := (b.beatLines k).foldl (fun p x => insertNat x p) b.poison }
      ({ s with memErrs := (die, pa) :: s.memErrs } : State).setEvent die 4
    else s.evictBeat i k false

/-- The words of a cached line of a thread's registers that an error can strike: registers by their number, and of the
control line, 256 on, `o0` to `o7`, the predicates and FPSR. -/
def State.regWordHeld (s : State) (th word : Nat) : Bool :=
  let t := s.thread th
  if word < 256 then t.cached.contains (word / 32 + 1) && decide (word < (s.scene t.scene).regs)
  else t.cached.contains 0 && (decide (word < 264) || word == predWord || word == fpsrWord)

/-- SRAM_SOFT_ERROR (R372): the word of a store, by its owner. For cache lines `owner` is a core, 0x1000 + die for the
lines of an L2, or 0x2000 + handle for those of a binding, and `word` the line or the beat. -/
def execSramSoftError (store : SramStore) (owner word : Nat) (s : State) : Out := .next <|
  match store with
  | .registerCache =>
    if s.regWordHeld owner word then
      s.modThread owner fun t => { t with bad := insertNat word t.bad }
    else s
  | .scratchpad =>
    let c := s.scene owner
    if s.storesHere owner && 4 * word < c.alloc + 2 * c.win then s.modScene owner fun c => { c with bad := insertNat word c.bad }
    else s
  | .operandMemory =>
    if s.storesHere owner && word / 8448 < (s.scene owner).oslots.length then
      s.modScene owner fun c => { c with oslots := c.oslots.modify (word / 8448) fun o =>
        { o with bad := insertNat (word % 8448) o.bad } }
    else s
  | .cacheLine =>
    if owner < 0x2000 then s.cacheError owner word
    else match s.handleOf (owner - 0x2000) with
      | some i => s.beatError i word
      | none => s

end Sys2Proof.Machine
end

