-- ==== Sys2Proof/Machine/HostLink.lean ====
section
/-! DEFINITION. What reaches the package from outside: the host's accesses (R418 to R420, R422), requests of peer packages
(R425), and the ports of the Zwium Link (R424). -/

namespace Sys2Proof.Machine

/-! ## Host accesses -/

/-- The requests of the host for a context (R419): no core, the TLB of the context's home die. -/
def hostReq (s : State) (ctx : Nat) : Req :=
  { ctx := ctx, die := (s.ctx ctx).homeDie, unit := 0x1000 + (s.ctx ctx).homeDie, core := 64 * (s.ctx ctx).homeDie
    who := some extReader }

/-- A host access leaves STANDBY (R436). -/
def State.wake (s : State) : State := if s.power == .standby then { s with power := .run } else s

/-- The host's requests are answered: bring-up has ended well (R435). -/
def State.hostOpen (s : State) : Bool := s.mbReady && s.power == .run

/-- The answer to a host request. -/
def State.answer (s : State) (r : HostReply) : State := { s with hostReply := r }

/-- A host access that fails posts one record to its context's queue (R420), and `r` is its answer. -/
def State.hostFails (s : State) (ctx : Nat) (f : FaultInfo) (r : HostReply) : State :=
  (s.post ctx ctx 255 none (s.blankRec f.kind f.va f.detail)).answer r

/-- The translations of the lines of a host access, or the first fault. -/
def State.hostSpans (s : State) (r : Req) (va n : Nat) (write : Bool) : Except FaultInfo (List (Nat × Nat × Xlat)) × State :=
  (lineSpans va n).foldl (fun acc sp => match acc.1 with
    | .error f => (.error f, acc.2)
    | .ok xs =>
      let q := acc.2.translate r sp.1 write false none
      match q.1 with
      | .error f => (.error f, q.2)
      | .ok x =>
        match q.2.remoteFault x sp.1 (!write) with
        | some f => (.error f, q.2)
        | none => (.ok (xs ++ [(sp.1, sp.2, x)]), q.2)) (.ok [], s)

/-- Why a write of part or all of a line of this package is refused: the rules of write-once lines (R87) and of poisoned
ones (R218). DESIGN CHOICE (log 64): of a part of a line that has been written, WOREWRITE is given. -/
def State.lineRefuses (s : State) (x : Xlat) (va n : Nat) : Option FaultInfo :=
  if x.pkg != s.pkgId then none
  else if x.cm == 2 && s.lineWr (lineOf x.pa) then some { kind := 7, va := va, detail := 0 }
  else if x.cm == 2 && n != 128 then some { kind := 8, va := va, detail := 0 }
  else if x.cm != 2 && n != 128 && s.linePsn (lineOf x.pa) then some { kind := 0x0C, va := va, detail := 0 }
  else none

/-- What one outside sees of the bytes of translated lines, as class EXT (R75, R97), an SC line's read being an acquire
(R81). -/
def State.extRead (s : State) (xs : List (Nat × Nat × Xlat)) : List Byte × State :=
  xs.foldl (fun (acc : List Byte × State) x =>
    let y := x.2.2
    let bs := acc.2.physBytes y x.2.1
    if y.pkg != acc.2.pkgId then (acc.1 ++ bs, { acc.2 with freeIx := acc.2.freeIx + 1 })
    else
      let v := if y.cm < 2 then acc.2.seeBytes extReader y.pa bs else (bs, acc.2)
      let s := if y.cm == 0 then v.2.acquireAt .ext 4 .mem y.pa x.2.1 else v.2
      (acc.1 ++ v.1, s.touchL2 (.phys (lineOf y.pa)) false y.cmpr)) ([], s)

/-- A read of the host: its bytes; poison where it fails or meets a poisoned line; no answer yet where a write-once line
is unwritten (R89, R92, R420). -/
def State.hostRead (s : State) (ctx va n : Nat) : State :=
  let r := hostReq s ctx
  let q := s.hostSpans r va n false
  match q.1 with
  | .error f => q.2.hostFails ctx f .poison
  | .ok xs =>
    let here := xs.filter fun x => x.2.2.pkg == q.2.pkgId
    if here.any fun x => x.2.2.cm == 2 && !q.2.lineWr (lineOf x.2.2.pa) then q.2.answer .none
    else if here.any fun x => q.2.linePsn (lineOf x.2.2.pa) then q.2.answer .poison
    else
      let v := q.2.extRead xs
      v.2.answer (.data v.1)

/-- Store bytes at a translated address of one line as class EXT: the line becomes written where it is write-once, the write
is a release where it is SC (R81), and other classes may still see the older bytes of an RC line (R97). -/
def State.extStore (s : State) (x : Xlat) (bs : List Byte) : State :=
  if x.pkg != s.pkgId then { s with freeIx := s.freeIx + 1 }
  else
    let s := if x.cm == 1 then s.keepMem extReader ((List.range bs.length).map fun k => x.pa + k) else s
    let s := s.storeLine (lineOf x.pa) (bs.zipIdx.map fun b => (x.pa % 128 + b.2, b.1)) x.cmpr
    if x.cm == 2 then s.markWritten (lineOf x.pa)
    else if x.cm == 0 then s.releaseAt .ext 4 .mem x.pa bs.length
    else s

/-- The host has written bytes at a virtual address: what a record among them holds under STATE is what is written
(R279). -/
def State.rewritten (s : State) (ctx va n : Nat) : State :=
  { s with listBytes := s.listBytes.filter fun e =>
      let a := s.taskVa ctx (e.1 % 2 ^ 32) + 1
      !(e.1 / 2 ^ 32 == ctx && va ≤ a && decide (a < va + n)) }

/-- A write of the host: it is dropped whole where it fails (R420). -/
def State.hostWrite (s : State) (ctx va : Nat) (bs : List Byte) : State :=
  let r := hostReq s ctx
  let q := s.hostSpans r va bs.length true
  match q.1 with
  | .error f => q.2.hostFails ctx f .dropped
  | .ok xs =>
    match (xs.filterMap fun x => q.2.lineRefuses x.2.2 x.1 x.2.1).head? with
    | some f => q.2.hostFails ctx f .dropped
    | none =>
      ((xs.foldl (fun (s : State) x => s.extStore x.2.2 ((bs.drop (x.1 - va)).take x.2.1)) q.2).rewritten ctx va
        bs.length).answer .done

/-- HOST_HDM_ACCESS (R419, R420): an access at an offset of the HDM range, in the window of context offset ÷ 64 GiB. A
context that is not registered has no translation, and nothing is posted for it. -/
def execHostHdmAccess (offset : Nat) (write : Bool) (bytes : Nat) (data : List Byte) (s : State) : Out := .next <|
  let s := s.wake
  let ctx := offset / 2 ^ 36
  if !s.hostOpen || 2 ^ 46 ≤ offset then s.answer .unsupported
  else if !(s.ctx ctx).registered then s.answer (if write then .dropped else .poison)
  else
    let va := (s.ctx ctx).hwBase + offset % 2 ^ 36
    if write then s.hostWrite ctx va data else s.hostRead ctx va bytes

/-! ## Atomic operations of the host (R418, R419, R422) -/

/-- The new value of an AtomicOp, if it writes one. -/
def hostNew (op : HostAtomic) (compare value : DWord) (old : Nat) : Option Nat :=
  match op with
  | .compareAndSwap => if old == compare.toNat then some value.toNat else none
  | .fetchAdd => some ((old + value.toNat) % 2 ^ 64)
  | .swap => some value.toNat
  | .read _ => none
  | .write _ => none

/-- The Storyboard Units see a record that an atomic of the host has armed, in a context with host submission (R278, R285,
R422). -/
def State.seeArmed (s : State) (ctx va old new : Nat) : State :=
  let c := s.ctx ctx
  let i := (va - c.taskBase) / 64
  if c.hostSub && c.taskBase ≤ va && (va - c.taskBase) % 64 == 0 && i < c.taskCnt && taskState new == tsArmed && taskState old != tsArmed then
    s.noteArmed ctx i
  else s

/-- An AtomicOp at a virtual address of a context, performed at the home slice (R80, R85, R420). -/
def State.hostAtomic (s : State) (ctx va : Nat) (op : HostAtomic) (compare value : DWord) : State :=
  let r := hostReq s ctx
  let q := s.translate r va false true none
  match q.1 with
  | .error f => q.2.hostFails ctx f .dropped
  | .ok x =>
    let s := q.2
    if x.cm == 2 then s.hostFails ctx { kind := 0x16, va := va, detail := 0 } .dropped
    else if let some f := s.remoteFault x va false then s.hostFails ctx f .dropped
    else if x.pkg == s.pkgId && s.linePsn (lineOf x.pa) then s.hostFails ctx { kind := 0x0C, va := va, detail := 0 } .dropped
    else
      let old := leNat (s.physBytes x 8)
      let s := s.answer (.data (leBytes 8 old))
      let s := if x.cm == 0 && x.pkg == s.pkgId then s.acquireAt .ext 4 .mem x.pa 8 else s
      match hostNew op compare value old with
      | none => s
      | some new => ((s.extStore x (leBytes 8 new)).rewritten ctx va 8).seeArmed ctx va old new

/-- A request through BAR2 at an offset is one that the window takes: an AtomicOp is of 8 aligned bytes. -/
def windowTakes (offset : Nat) (op : HostAtomic) : Bool :=
  match op with
  | .read n => decide (offset + n ≤ 2 ^ 32)
  | .write data => decide (offset + data.length ≤ 2 ^ 32)
  | _ => decide (offset < 2 ^ 32) && offset % 8 == 0

/-- HOST_ATOMIC_WINDOW_ACCESS (R419): an AtomicOp, a read or a write through BAR2, at an offset of the first 4 GiB of the
window, acts as the same access of the HDM range does. -/
def execHostAtomicWindowAccess (ctx offset : Nat) (op : HostAtomic) (compare value : DWord) (s : State) : Out := .next <|
  let s := s.wake
  let va := (s.ctx ctx).hwBase + offset
  if !s.hostOpen || 1024 ≤ ctx || !(s.ctx ctx).registered || !windowTakes offset op then s.answer .unsupported
  else match op with
    | .read n => s.hostRead ctx va n
    | .write data => s.hostWrite ctx va data
    | _ => s.hostAtomic ctx va op compare value

/-! ## Host memory that the device caches (R418) -/

/-- HOST_SNOOP (R418): the host snoops a device line of its memory, two host lines held together. With 128 bytes of data
the host takes the line to write it: the device gives its copy up, and memory holds the new data. Without data the device
keeps a clean copy. -/
def execHostSnoop (line : Nat) (data : List Byte) (s : State) : Out := .next <|
  if s.power != .run || !isHostPa (128 * line) || !populated (128 * line) then s
  else if data.length == 128 then
    { s with mem := s.mem.writeN (128 * line) data, l2 := s.l2.filter fun x => x.key != .phys line }
  else { s with l2 := s.l2.map fun x => if x.key == .phys line then { x with dirty := false } else x }

/-! ## Requests of peer packages (R423 to R425) -/

/-- The local context that a pair of source package and source context maps to (R425). -/
def State.exportOf (s : State) (pkg ctx : Nat) : Option Nat :=
  (s.exports.find? fun e => e.srcPkg == pkg && e.srcCtx == ctx).map (·.ctx)

/-- The checks that the home makes (R359, R425): the frame can be used, its owner is the mapped context, its type is that
of the requester's leaf, and its group agrees with the requester's buffer. -/
def State.remoteAdmits (s : State) (pkg ctx pa : Nat) (ask : RemoteAsk) : Bool :=
  match s.exportOf pkg ctx with
  | some c =>
    let tag := s.frameTag (frameOf pa)
    s.frameUsable pa && tagOwner tag == c && ask.cm == tagType tag &&
      ask.place.all fun p => s.classOk pa { icls := p.1, stk := p.2.1, ch := p.2.2 }
  | none => false

/-- The answer to a peer. -/
def State.reply (s : State) (r : RemoteReply) : State := { s with remoteReply := r }

/-- A frame's translation as the home sees it. -/
def State.homeXlat (s : State) (pa : Nat) : Xlat :=
  { pkg := s.pkgId, pa := pa, cm := tagType (s.frameTag (frameOf pa)), watch := false, cmpr := false }

/-- The bytes of an atomic of R224 or R225, none for a MOD that the table lacks. -/
def remoteWidth (r : RemoteOp) : Nat :=
  match r with
  | .atomic mod _ => if mod == 1 || mod == 10 then 8 else if mod < 15 then 4 else 0
  | .cas wide _ _ => if wide then 8 else 4
  | _ => 0

/-- The bytes of a request. -/
def remoteBytes (r : RemoteOp) : Nat :=
  match r with
  | .read n => n
  | .write d => d.length
  | r => remoteWidth r

/-- What an atomic of a peer writes over an old value, if it writes (R224, R225). -/
def remoteNew (r : RemoteOp) (old : Nat) : Option Nat :=
  let n := 8 * remoteWidth r
  match r with
  | .atomic mod v => some (atomicNew mod old (v.toNat % 2 ^ n))
  | .cas _ e v => if old == e.toNat % 2 ^ n then some v.toNat else none
  | _ => none

/-- An atomic that is admitted, as one step at the home slice (R80, R85). -/
def State.remoteAtomic (s : State) (pa : Nat) (r : RemoteOp) : State :=
  let x := s.homeXlat pa
  let n := remoteWidth r
  if x.cm == 2 then s.reply (.refused 0x16 0)
  else if s.linePsn (lineOf pa) then s.reply .poison
  else
    let old := leNat (s.physBytes x n)
    let s := (if x.cm == 0 then s.acquireAt .ext 4 .mem pa n else s).reply (.data (leBytes n old))
    match remoteNew r old with
    | none => s
    | some new => s.extStore x (leBytes n new)

/-- A request that is admitted, on one line. -/
def State.remoteServe (s : State) (pa : Nat) (request : RemoteOp) : State :=
  let x := s.homeXlat pa
  let line := lineOf pa
  match request with
  | .read n =>
    if x.cm == 2 && !s.lineWr line then s.reply .none
    else if s.linePsn line then s.reply .poison
    else
      let v := s.extRead [(0, n, x)]
      v.2.reply (.data v.1)
  | .write data =>
    match s.lineRefuses x 0 data.length with
    | some f => s.reply (.refused f.kind f.detail)
    | none => (s.extStore x data).reply .done
  | r => s.remoteAtomic pa r

/-- REMOTE_REQUEST (R425): a peer's request on one line is checked and performed, as class EXT. -/
def execRemoteRequest (pkg ctx pa : Nat) (request : RemoteAsk) (s : State) : Out := .next <|
  if s.power != .run || s.standalone || 143 < pkg || pkg == s.pkgId || remoteBytes request.op == 0 ||
      128 < pa % 128 + remoteBytes request.op then s
  else if s.remoteAdmits pkg ctx pa request then s.remoteServe pa request.op
  else s.reply (.refused 2 0x0802)

/-! ## Ports (R424) -/

/-- FLIT_RETRY (R424): the link repeats a flit; the request it carries is delivered once all the same. -/
def execFlitRetry (_port : Nat) (s : State) : Out := .next s

/-- LINK_PORT_DOWN (R424): a port is taken down; its traffic moves to the planes that are left, and a package that none of
them reaches is marked unreachable. -/
def execLinkPortDown (port : Nat) (s : State) : Out := .next <|
  if s.standalone || 18 ≤ port then s
  else
    let t := { s with portsDown := insertNat port s.portsDown, linkCtr := s.linkCtr + 1 }
    { t with cutOff := (List.range 144).filter t.unreachable }

/-- PLANE_RESTORED (R424): the link monitor reports the plane of a port restored, and no package is marked unreachable any
more. A port that disagrees with the package ID stays down (R423). -/
def execPlaneRestored (plane : Nat) (s : State) : Out := .next
  { s with
    portsDown := s.portsDown.filter fun p => p != plane || s.badPorts.contains p
    linkCtr := s.linkCtr + 1, cutOff := [] }

end Sys2Proof.Machine
end

