-- ==== Sys2Proof/Machine/Partition.lean ====
section
/-! DEFINITION. Time slices (R393), pre-emption of a partition and its restoration (R394, R395), and the thermal trip
that pre-empts every partition (R436). -/

namespace Sys2Proof.Machine

/-- The scenes of a context that are resident on cores of a partition, or of every context but one. -/
def State.residentOf (s : State) (p : Nat) (keep : Option Nat) : List Nat :=
  let cores := s.partCores p
  indices s.scenes fun c => c.ctx != supCtx && c.st == .resident && cores.contains c.core && some c.ctx != keep

/-- The step at which pre-emption may take a scene (R394, steps 1 and 2): its takes have stopped, and its operations are
done, wait at a translation fault or an unwritten line, or are stepped words whose steps so far are done. -/
def State.drained (s : State) (sc : Nat) : Bool :=
  s.stoppable sc && (indices s.ops fun o => o.scene == sc && !o.done && o.instr.opcode < 0xE0).all fun i =>
    (s.op i).held.isSome || (s.op i).wo.isSome ||
      ((s.takesOf sc).any fun k => (s.take k).progress == i + 1) && (s.copyNext i).isNone

/-- Sleep counts stop while a scene is away (R179, R394): what is left of each becomes its count. -/
def State.stopSleep (s : State) (sc : Nat) : State :=
  (s.takesOf sc).foldl (fun (s : State) k => s.modTake k fun t =>
    { t with sleep := if t.sleep == 0 then 0 else max 1 (t.last + t.sleep - s.clock) }) s

/-- Sleep counts run on from now. -/
def State.runSleep (s : State) (sc : Nat) : State :=
  (s.takesOf sc).foldl (fun (s : State) k => s.modTake k fun t =>
    { t with last := if t.sleep == 0 then t.last else s.clock }) s

/-- Free a core's shadow entry for a context: another context's scenes there are swapped out (R395). -/
def State.freeShadow (s : State) (core ctx : Nat) : State :=
  let old := s.shadow.get core
  if old == 0 || old == ctx + 1 then s
  else (s.suspendedOn core (old - 1)).foldl (fun (s : State) sc => (s.runSleep sc).saveScene sc) s

/-- Suspend one resident scene in its core's shadow entry (R394). -/
def State.suspendScene (s : State) (sc : Nat) : State :=
  let c := s.scene sc
  let s := s.freeShadow c.core c.ctx
  let s := { s with shadow := s.shadow.set c.core (c.ctx + 1) }
  let s := (s.takesOf sc).foldl (fun (s : State) k => s.modTake k fun t =>
    { t with st := match t.st with
        | .issuing _ => .suspended
        | st => st }) s
  let s := (s.stopSleep sc).modScene sc fun c => { c with st := .suspended }
  s.sillage c.ctx 4 c.core c.sid.toNat 1 none none

/-- PRE-EMPT A PARTITION (R394): every resident scene there but those of one context is suspended. -/
def State.preempt (s : State) (p : Nat) (keep : Option Nat) : State :=
  (s.residentOf p keep).foldl State.suspendScene s

/-- Every scene that a pre-emption would take has stopped and drained. -/
def State.canPreempt (s : State) (p : Nat) (keep : Option Nat) : Bool := (s.residentOf p keep).all s.drained

/-- The runnable contexts of a partition, and the one whose last run is oldest (R393). -/
def State.nextContext (s : State) (p : Nat) : Option Nat :=
  (s.ctxs.filter fun c => c.2.registered && c.2.part == p && s.runnable c.1).foldl (fun best c => match best with
    | none => some c.1
    | some b => if c.2.lastRun < (s.ctx b).lastRun then some c.1 else some b) none

/-- The slice of a partition is over (R393): its quantum, that of the partition's first die, has run, or its context has
nothing to run. -/
def State.sliceOver (s : State) (p : Nat) : Bool :=
  match (s.part p).current with
  | none => true
  | some c =>
    let die := (s.part p).stages.headD 0 / 12
    !s.runnable c || (s.part p).since + (s.die die).quantum * Config.cyclesPerMicro ≤ s.clock

/-- The pre-emption of a partition goes on (R394): issue stops there, and once its scenes have stopped and drained they are
suspended and the next slice begins. -/
def State.endSlice (s : State) (p : Nat) (next : Option Nat) : State :=
  if s.canPreempt p next then
    (s.preempt p next).modPart p fun x => { x with current := next, since := s.clock, closing := false, next := none }
  else s.modPart p fun x => { x with closing := true, next := next }

/-- QUANTUM_EXPIRY (R393 to R395): the partition is pre-empted, and the runnable context that has waited longest has
the next slice. The order of last runs counts the slice that ends. -/
def execQuantumExpiry (part : Nat) (s : State) : Out := .next <|
  if s.power != .run || (s.part part).stages.isEmpty then s
  else if (s.part part).closing then s.endSlice part (s.part part).next
  else if !s.sliced || !s.sliceOver part then s
  else
    let t : State := match (s.part part).current with
      | some c => s.modCtx c fun x => { x with lastRun := s.clock }
      | none => s
    match t.nextContext part with
    | none => t.modPart part fun x => { x with current := none, since := s.clock }
    | some n => t.endSlice part (some n)

/-- A suspended scene comes back to its core (R395). -/
def State.unsuspend (s : State) (sc : Nat) : State :=
  let c := s.scene sc
  let s := (s.runSleep sc).modScene sc fun c => { c with st := .resident }
  let s := s.fileLoose sc
  if (s.suspendedOn c.core c.ctx).isEmpty && s.shadow.get c.core == c.ctx + 1 then
    { s with shadow := s.shadow.set c.core 0 } else s

/-- A suspended scene can come back now: its context has the partition, and its groups and resources are free. -/
def State.canUnsuspend (s : State) (p sc : Nat) : Bool :=
  let c := s.scene sc
  c.st == .suspended && c.ctx != supCtx && (s.partCores p).contains c.core && s.mayRun c.ctx &&
    c.groups.all (s.freeGroups c.core).contains && s.fits c c.core

/-- PARTITION_RESTORE (R395): the suspended scenes of the context that has the partition are restored to their cores. -/
def execPartitionRestore (part : Nat) (s : State) : Out := .next <|
  if s.power != .run then s
  else (List.range s.scenes.length).foldl (fun (s : State) sc =>
    if s.canUnsuspend part sc then s.unsuspend sc else s) s

/-- THERMAL_TRIP (R436): every partition is pre-empted, and once that is done the package enters STANDBY and raises vector 0
of PF0. -/
def execThermalTrip (s : State) : Out := .next <|
  if s.power != .run then s
  else
    let t := (List.range 48).foldl (fun (s : State) p => s.endSlice p none) s
    if t.parts.toList.any (·.closing) then t else { t with power := .standby, msix := t.msix ++ [(supCtx, 0)] }

end Sys2Proof.Machine
end

