-- ==== Sys2Proof/Machine/Mailbox.lean ====
section
/-! DEFINITION. The Continuity Processor (R427 to R434): its mailbox commands, with the keys, the digests and the life
cycle, and bring-up and power (R435, R436). -/

namespace Sys2Proof.Machine

/-! ## Payloads (R429) -/

/-- A field of a payload: little-endian. -/
def field (p : List Byte) (a n : Nat) : Nat := leNat ((p.drop a).take n)

/-- The first `n` bytes of a payload; bytes that the host did not write are zero. -/
def payloadOf (p : List Byte) (n : Nat) : List Byte := (p ++ List.replicate n 0).take n

/-- Every byte outside the named ranges, first byte and count, is zero. -/
def restZero (p : List Byte) (named : List (Nat × Nat)) : Bool :=
  p.zipIdx.all fun b => b.1 == 0 || named.any fun r => r.1 ≤ b.2 && b.2 < r.1 + r.2

/-! ## The mailbox (R428) -/

/-- The status word, at byte 4. -/
def State.mbStatus (s : State) : Nat := s.mailbox.num 4 4

/-- The report that ATTEST leaves, at payload bytes 256 to 463 (R429). -/
def State.mbReport (s : State) : List Byte := s.mailbox.readN 320 208

/-- The first `n` payload bytes, from byte 64 on. -/
def State.payload (s : State) (n : Nat) : List Byte := s.mailbox.readN 64 n

/-- Answer a command: its status word (R428, R430). -/
def State.status (s : State) (code : Nat) : State := { s with mailbox := s.mailbox.setNum 4 4 code, mbWait := false }

/-- Run a command of the given code: one that is not ATTEST is turned away in RETIRED, and all but ATTEST and LOADFW after a
failed verification (R430). `f` gives the first nonzero status, or the state in which the command is done. -/
def State.command (s : State) (code : Nat) (f : State → Except Nat State) : State :=
  if (s.lcs == 3 && code != 5) || (!s.fwOk && code != 5 && code != 8) then s.status 7
  else match f s with
    | .ok s => s.status 0
    | .error e => s.status e

/-- The host writes a payload of `n` bytes, then the command word, and `run` is the command (R428), which leaves STANDBY
(R436). A mailbox that is not
ready answers as unsupported (R435); while a command in it is still to be done, the host's writes wait. -/
def State.submit (s : State) (code n : Nat) (payload : List Byte) (run : State → State) : State :=
  if !s.mbReady then s.answer .unsupported
  else if s.mbWait then s
  else run { s.wake with mailbox := (s.mailbox.writeN 64 (payloadOf payload n)).setNum 0 4 code }

/-- The first code of a list of checks that fails. -/
def firstCode (cs : List (Bool × Nat)) : Option Nat := ((cs.filter (·.1)).map (·.2)).head?

/-- Do what follows when no check fails. -/
def checked (cs : List (Bool × Nat)) (s : State) : Except Nat State :=
  match firstCode cs with
  | some c => .error c
  | none => .ok s

/-! ## Contexts (R427) -/

/-- REGCTX (R401, R422, R426, R429): every register of the context takes its reset value, and the payload is the first
entry of its digest. -/
def State.regctxDo (s : State) : State :=
  s.command 1 fun s =>
    let p := s.payload 64
    let ctx := field p 0 4
    let part := field p 4 1
    let b5 := field p 5 1
    let hw := field p 8 8
    let root := field p 16 8
    checked [(s.lcs == 0, 7), (!restZero p [(0, 6), (8, 16)] || 8 ≤ b5, 1),
      (1024 ≤ ctx || 48 ≤ part || 2 ^ 57 ≤ hw || hw % 65536 != 0 || root % 4096 != 0 || !isHbm root ||
        tagType (s.frameTag (frameOf root)) != 0 || !((s.part part).stages.any fun g => g / 12 == b5 % 4), 2),
      ((s.ctx ctx).registered, 3)]
      (s.setCtx ctx { Ctx.reset with
        registered := true, homeDie := b5 % 4, part := part, hostSub := bitOf b5 2, hwBase := hw, ptRoot := root
        digest := extendDigest 0 p })

/-- REGCTX. -/
def execRegctx (payload : List Byte) (s : State) : Out := .next (s.submit 1 64 payload State.regctxDo)

/-- The scenes of a context that have not ended. -/
def State.ctxScenes (s : State) (ctx : Nat) : List Nat := indices s.scenes fun c => c.ctx == ctx && c.st != .ended

/-- End every scene of a context, as `SCENEKILL` does (R410, R427). -/
def State.endContext (s : State) (ctx : Nat) : State :=
  (s.ctxScenes ctx).foldl (fun (s : State) sc => (s.abandonOps (s.opsOf [sc])).killScene sc) s

/-- Return every task record of a context to FREE, and forget its nodes (R288, R427). -/
def State.freeRecords (s : State) (ctx : Nat) : State :=
  let r := hostReq s ctx
  let s := (List.range (s.ctx ctx).taskCnt).foldl (fun (s : State) i =>
    (s.taskAtomic r i fun h => if taskState h == tsFree then none else some (withTaskState h tsFree)).2) s
  { s with
    armed := s.armed.filter fun a => a.ctx != ctx
    nodeMarks := s.nodeMarks.filter fun m => m.1 != ctx
    nodes := s.nodes.map fun n => if n.ctx == ctx then { n with live := false } else n
    mveReqs := s.mveReqs.map fun m => if m.ctx == ctx && m.state < 3 then { m with state := 4 } else m
    seals := s.seals.map fun j => if j.ctx == ctx then { j with done := true } else j
    passes := s.passes.map fun p => if p.ctx == ctx then { p with state := 3 } else p }

/-- DEREGISTER A CONTEXT, in the order of R427. -/
def State.deregister (s : State) (ctx : Nat) : State :=
  let s := (s.endContext ctx).freeRecords ctx
  let s := (indices s.bindings fun b => b.ctx == ctx && !b.dirs.isEmpty).foldl (fun (s : State) i => s.unbind i true true) s
  let mine := (s.frameTags.map Prod.fst).filter fun f => tagAlloc (s.frameTag f) && tagOwner (s.frameTag f) == ctx
  let s := mine.foldl (fun (s : State) f => s.retag f (setBitN (s.frameTag f) 3 false)) s
  { s with
    exports := s.exports.filter fun e => e.ctx != ctx
    ctxs := s.ctxs.filter fun c => c.1 != ctx
    held := s.held.filter fun h => h.queue != ctx
    pageReqs := s.pageReqs.filter fun p => p.ctx != ctx
    parts := s.parts.map fun p => if p.current == some ctx then { p with current := none } else p }

/-- Every scene of a context can be ended now. -/
def State.endable (s : State) (ctx : Nat) : Bool := (s.ctxScenes ctx).all s.stoppable

/-- DEREGCTX (R427). It waits until no thread of the context issues. -/
def State.deregctxDo (s : State) : State :=
  let p := s.payload 64
  let ctx := field p 0 4
  if !s.endable ctx then { s with mbWait := true }
  else s.command 2 fun s =>
    checked [(!restZero p [(0, 4)], 1), (1024 ≤ ctx, 2), (!(s.ctx ctx).registered, 3)] (s.deregister ctx)

/-- DEREGCTX. -/
def execDeregctx (payload : List Byte) (s : State) : Out := .next (s.submit 2 64 payload State.deregctxDo)

/-! ## Stages (R426, R427) -/

/-- Nothing on a core keeps its stage in place (R393, R395, R427): no scene, no tile task, no shadow entry. -/
def State.coreClear (s : State) (core : Nat) : Bool :=
  s.shadow.get core == 0 &&
    !(s.scenes.any fun c => c.core == core && [.resident, .saving, .restoring, .suspended].contains c.st) &&
    !(s.nodes.any fun n => n.live && n.core == some core)

/-- A scene whose stores are zeroed, and a thread whose registers are. -/
def Scene.zeroed (c : Scene) : Scene :=
  { c with
    sp := [], empty := [], poison := [], bad := [], mat := .empty
    oslots := c.oslots.map fun o => { o with data := [], bad := [] } }
def Thread.zeroed (t : Thread) : Thread :=
  { t with v := t.v.map fun _ => 0, o := .replicate 8 0, latch := t.latch.map fun _ => 0, cached := [], bad := [] }

/-- Zero the stores of cores (R427): scratchpad, register cache, operand memory, accumulators, banks, L1 and instruction
memory. What a scene that has ended left there goes; one that has been swapped out holds nothing there. With `live`, what
the scenes hold that still run goes as well (R434). -/
def State.zeroCores (s : State) (cores : List Nat) (live : Bool := false) : State :=
  let left := fun (c : Scene) => (live || c.st == .ended) && cores.contains c.core
  { s with
    scenes := s.scenes.map fun c => if left c then c.zeroed else c
    threads := s.threads.map fun t => if left (s.scene t.scene) then t.zeroed else t
    l1 := s.l1.filter fun l => !cores.contains l.core
    codeRows := s.codeRows.filter fun r => !cores.contains r.core }

/-- SETPART (R393, R427, R429): the stages that are set join the partition, those left clear leave it. The scenes that are
resident on those that move are swapped out first, and the command waits for it. -/
def State.setpartDo (s : State) : State :=
  let p := s.payload 64
  let part := field p 0 1
  let want := (List.range 48).filter fun g => bitOf (field p 8 6) g
  let have1 := (s.part part).stages
  let changed := (want.filter fun g => !have1.contains g) ++ (have1.filter fun g => !want.contains g)
  let cores := changed.flatMap stageCores
  let leaving := indices s.scenes fun c => cores.contains c.core && (c.st == .resident || c.st == .saving)
  if restZero p [(0, 1), (8, 6)] && decide (part < 48) && !leaving.isEmpty && s.lcs != 3 && s.fwOk then
    { leaving.foldl State.startSwap s with mbWait := true }
  else s.command 3 fun s =>
    checked [(!restZero p [(0, 1), (8, 6)], 1), (48 ≤ part, 2), (!cores.all s.coreClear, 4)]
      (({ s with parts := s.parts.mapFinIdx fun i x _ =>
          if i == part then { x with stages := want } else { x with stages := x.stages.filter fun g => !want.contains g } }
        : State).zeroCores cores)

/-- SETPART. -/
def execSetpart (payload : List Byte) (s : State) : Out := .next (s.submit 3 64 payload State.setpartDo)

/-! ## The export table (R425, R429) -/

/-- EXPORT: add an entry, or remove one. An entry of the same pair is replaced. -/
def State.exportDo (s : State) : State :=
  s.command 4 fun s =>
    let p := s.payload 64
    let op := field p 0 1
    let e : ExportEntry := { srcPkg := field p 1 1, srcCtx := field p 4 4, ctx := field p 8 4 }
    let others := s.exports.filter fun x => !(x.srcPkg == e.srcPkg && x.srcCtx == e.srcCtx)
    let absent := others.length == s.exports.length
    checked [(!restZero p [(0, 2), (4, 8)], 1),
      (1 < op || 143 < e.srcPkg || 1023 < e.srcCtx || (op == 0 && 1023 < e.ctx), 2),
      (op == 0 && !(s.ctx e.ctx).registered, 3), ((op == 0 && absent && 4096 ≤ s.exports.length) || (op == 1 && absent), 6)]
      { s with exports := if op == 0 then others ++ [e] else others }

/-- EXPORT. -/
def execExportEntry (payload : List Byte) (s : State) : Out := .next (s.submit 4 64 payload State.exportDo)

/-! ## Attestation (R433) -/

/-- `n` free values of eight bytes. -/
def State.freeWords (s : State) : Nat → List Byte × State
  | 0 => ([], s)
  | n + 1 =>
    let x := s.fresh
    let q := x.2.freeWords n
    (leBytes 8 x.1.toNat ++ q.1, q.2)

/-- The part of a report that is signed: bytes 0 to 143. The partition of no context is not stated, and free. -/
def State.reportBody (s : State) (ctx part : Nat) (nonce : List Byte) : List Byte :=
  leBytes 4 0x52455041 ++ leBytes 1 1 ++ leBytes 1 (if s.fwOk then s.lcs else 0xFF) ++ leBytes 1 s.pkgId ++ leBytes 1 0 ++
    leBytes 4 ctx ++ leBytes 4 part ++ nonce ++ leBytes 32 s.fwDigest ++
    leBytes 32 (if (s.ctx ctx).registered then (s.ctx ctx).digest else 0) ++ leBytes 32 Config.keyHash

/-- ATTEST (R433). A retired part has no device key: the signature bytes of its report are free. -/
def State.attestDo (s : State) : State :=
  s.command 5 fun s =>
    let p := s.payload 64
    let ctx := field p 0 4
    match firstCode [(!restZero p [(0, 4), (32, 32)], 1), (1024 ≤ ctx && ctx != 2 ^ 32 - 1, 2),
        (ctx != 2 ^ 32 - 1 && !(s.ctx ctx).registered, 3)] with
    | some c => .error c
    | none =>
      let x := s.fresh
      let part := if ctx == 2 ^ 32 - 1 then x.1.toNat % 2 ^ 32 else (s.ctx ctx).part
      let body := s.reportBody ctx part ((p.drop 32).take 32)
      let sig := Config.deviceSign (sha256 body)
      let q := x.2.freeWords 8
      .ok { q.2 with mailbox :=
              q.2.mailbox.writeN 320 (body ++ (if s.lcs == 3 then q.1 else beBytes 32 sig.1 ++ beBytes 32 sig.2)) }

/-- ATTEST. -/
def execAttest (payload : List Byte) (s : State) : Out := .next (s.submit 5 64 payload State.attestDo)

/-! ## Keys and firmware (R429, R431) -/

/-- LOADKEY: a public key whose signature by the vendor key verifies goes into its slot. -/
def State.loadkeyDo (s : State) : State :=
  s.command 6 fun s =>
    let p := s.payload 136
    let slot := field p 0 1
    checked [(!restZero p [(0, 1), (8, 128)], 1), (slot == 0 || 15 < slot, 2), (!signedBy Config.vendorKey p, 5)]
      { s with keys := s.keys.set slot (beNat ((p.drop 8).take 64)) }

/-- LOADKEY. -/
def execLoadkey (payload : List Byte) (s : State) : Out := .next (s.submit 6 136 payload State.loadkeyDo)

/-- LOADFW: an image in host memory, read through CXL.cache, that verifies is staged for the next reset. -/
def State.loadfwDo (s : State) : State :=
  s.command 8 fun s =>
    let p := s.payload 64
    let comp := field p 0 1
    let src := field p 8 8
    let size := field p 16 4
    let image := s.mem.readN src size
    let readable := populated src && populated (src + size - 1)
    checked [(!restZero p [(0, 1), (8, 12)], 1),
      (comp == 0 || 4 < comp || !isHostPa src || src % 64 != 0 || size % 64 != 0 || size < 128 || 2 ^ 26 < size, 2),
      (!readable, 8), (!signedBy Config.vendorKey image, 5)]
      { s with staged := (s.staged.filter fun x => x.1 != comp) ++ [(comp, image)] }

/-- LOADFW. -/
def execLoadfw (payload : List Byte) (s : State) : Out := .next (s.submit 8 64 payload State.loadfwDo)

/-! ## The life cycle (R434) -/

/-- The wipe of HBM, of the second tier, of the L2 and of every store of the cores (R434): every frame goes into
scrubbing, key slots 1 to 15 are emptied. -/
def State.wipe (s : State) : State :=
  let onPart := fun (pa : Nat) => isHbm pa || isTier2 pa
  { s.zeroCores (List.range 256) true with
    mem := s.mem.filter fun c => !onPart c.1
    lineTags := s.lineTags.filter fun t => !onPart (128 * t.1)
    frameTags := (s.frameTags.map fun t => if onPart (65536 * t.1) then (t.1, setBitN t.2 2 false) else t).filter
      fun t => t.2 != 0
    wiped := true, scrubs := [], l2 := [], olds := [], releases := [], loaded := [], fences := [], trails := []
    tracks := [], nodeMarks := []
    signals := [], shadow := [], keys := [] }

/-- The table of R434 lists the change. -/
def lcsChange (old new : Nat) : Bool := (new == 1 && (old == 0 || old == 2)) || (new == 2 && old == 1) || new == 3

/-- A change that needs the vendor's signature: into or out of DEBUG, and into RETIRED (R429). -/
def lcsSigned (old new : Nat) : Bool := new == 2 || old == 2 || new == 3

/-- SETLCS (R429, R434): the change deregisters every context and wipes the part. It waits until no thread issues. -/
def State.setlcsDo (s : State) : State :=
  if !(s.ctxs.all fun c => s.endable c.1) then { s with mbWait := true }
  else s.command 7 fun s =>
    let p := s.payload 72
    let new := field p 0 1
    let sig := p.drop 8
    let signed := ecdsaVerify Config.vendorKey.1 Config.vendorKey.2
      (sha256 (BitVec.ofNat 8 new :: leBytes 32 Config.keyHash)) (beNat (sig.take 32)) (beNat (sig.drop 32))
    checked [(!restZero p [(0, 1), (8, 64)], 1), (3 < new, 2), (!lcsChange s.lcs new, 9),
      (!lcsSigned s.lcs new && !restZero sig [], 1), (lcsSigned s.lcs new && !signed, 5)]
      { ((s.ctxs.map Prod.fst).foldl State.deregister s).wipe with lcs := new }

/-- SETLCS. -/
def execSetlcs (payload : List Byte) (s : State) : Out := .next (s.submit 7 72 payload State.setlcsDo)

/-! ## The command word -/

/-- Perform the command whose code stands in the command word (R428); another code answers 1 (R430). -/
def State.perform (s : State) : State :=
  match s.mailbox.num 0 4 with
  | 1 => s.regctxDo
  | 2 => s.deregctxDo
  | 3 => s.setpartDo
  | 4 => s.exportDo
  | 5 => s.attestDo
  | 6 => s.loadkeyDo
  | 7 => s.setlcsDo
  | 8 => s.loadfwDo
  | _ => s.status 1

/-- A command that waits goes on. -/
def State.noteMailbox (s : State) : State := if s.mbWait then s.perform else s

/-- A host request to the mailbox (R428): a write that reaches the command word gives a command. -/
def State.mailAccess (s : State) (offset : Nat) (write : Bool) (bytes : Nat) (data : List Byte) : State :=
  if !s.mbReady || 4096 < offset + (if write then data.length else bytes) then s.answer .unsupported
  else if !write then s.wake.answer (.data (s.mailbox.readN offset bytes))
  else if s.mbWait then s
  else
    let t := { s.wake with mailbox := s.mailbox.writeN offset data }.answer .done
    if offset < 4 && !data.isEmpty then t.perform else t

/-- HOST_CONFIG_ACCESS (R419): a function, 1,024 for PF0, answers configuration reads whether or not its context is
registered, and requests to its MSI-X vectors where it is. DESIGN CHOICE (log 75): what the configuration space and the
vectors hold is not stated, so that the bytes read are free and a write changes nothing. -/
def execHostConfigAccess (function : HostFunction) (s : State) : Out := .next <|
  let read := fun (s : State) => let c := s.fresh; c.2.answer (.data (leBytes 4 c.1.toNat))
  match function with
  | .config n => let s := s.wake; if !s.hostOpen || 1024 < n then s.answer .unsupported else read s
  | .vectors n write =>
    let s := s.wake
    if !s.hostOpen || 1024 ≤ n || !(s.ctx n).registered then s.answer .unsupported
    else if write then s.answer .done
    else read s
  | .mailbox offset write bytes data => s.mailAccess offset write bytes data

/-! ## Bring-up and power (R423, R432, R435, R436) -/

/-- The image of a component at a reset: the one staged last, or the one that the part came with. -/
def State.image (s : State) (comp : Nat) : List Byte :=
  ((s.staged.find? fun x => x.1 == comp).map Prod.snd).getD (Config.firmware comp)

/-- Verify the images in order and measure those that verify: the digest, and whether all did (R432). -/
def State.measure (s : State) : Nat × Bool :=
  [1, 2, 3, 4].foldl (fun acc c =>
    if acc.2 && signedBy Config.vendorKey (s.image c) then (extendDigest acc.1 (s.image c), true) else (acc.1, false))
    (0, true)

/-- What a reset leaves of the machine: the life cycle, the staged images and the host's memory. The agenda and the
counter of free values are the model's own. -/
def State.afterReset (s : State) : State :=
  { State.reset with
    lcs := s.lcs, staged := s.staged, mem := s.mem.filter fun c => isHostPa c.1, freeIx := s.freeIx, agenda := s.agenda }

/-- The scene that a die's supervisor starts as (R435): one thread of the supervisor context, in the code of its image.
DESIGN CHOICE (log 76): where its first slate is, its registers and its scratchpad are not stated, and free. -/
def State.supervisorScene (s : State) (die : Nat) : Scene :=
  let st := Config.supervisorStart die
  let k : Kernel := { code := 0, codeSize := (s.image 4).length, kconst := 0, kcSize := 0, entries := [st.1], regs := st.2.1
                      dscr := st.2.2, dxwin := 0 }
  { handlerScene k die 0 st.1 s.seqCtr 0 with
    sid := s.freeSid supCtx (s.scenes.length + 2) (BitVec.ofNat 32 s.seqCtr), handler := none }

/-- The supervisor starts on the first Director of a die (R435, step 5), its code in that core's instruction memory. -/
def State.startSupervisor (s : State) (die : Nat) : State :=
  let core := 64 * die + 48
  let image := s.image 4
  let rows := (List.range (min 64 ((image.length + 4095) / 4096))).map fun r =>
    ({ core := core, row := r, ctx := supCtx, kernel := 0, code := r, state := 2, bytes := (image.drop (4096 * r)).take 4096
       used := s.clock } : CodeRow)
  ({ s with scenes := s.scenes ++ [s.supervisorScene die], seqCtr := s.seqCtr + 1
            codeRows := s.codeRows ++ rows }).startScene s.scenes.length core (fun _ => false) 0

/-- The package ID (R423): the number of the switch port at which the lowest attached link port meets its plane, port 0
where that is attached, or none for a standalone package. -/
def portId : Option Nat := ((List.range 18).findSome? Config.switchPort).map Fin.val

/-- The attached link ports whose number disagrees with the package ID (R423). -/
def disagreeing : List Nat :=
  (List.range 18).filter fun p => (Config.switchPort p).any fun n => some n.val != portId

/-- BRING_UP (R423, R435), from reset or OFF: the wipe ends with every frame scrubbed (R365). A link port that disagrees with
the package ID is kept down and reported. The supervisor starts on every die, and the mailbox is ready. An image that does not
verify stops bring-up: only the mailbox then answers. -/
def execBringUp (s : State) : Out := .next <|
  if s.power != .boot && s.power != .off then s
  else
    let t := s.afterReset
    let m := t.measure
    let t := { t with fwDigest := m.1, fwOk := m.2, mbReady := true }
    if !m.2 then { t with power := .boot }
    else
      (List.range 4).foldl State.startSupervisor { t with
        power := .run, wiped := false, standalone := portId.isNone, pkgId := portId.getD 0
        portsDown := disagreeing, badPorts := disagreeing }

/-- POWER_LIMIT_REACHED (R436): scene admission pauses while the power estimate is at its limit. -/
def execPowerLimitReached (reached : Bool) (s : State) : Out := .next <|
  if s.power == .run then { s with powerLow := reached } else s

/-- STANDBY_WAKE (R436). -/
def execStandbyWake (s : State) : Out := .next s.wake

/-- POWER_OFF (R436): memory contents are lost, and links are down until bring-up. -/
def execPowerOff (s : State) : Out := .next { s.afterReset with power := .off, portsDown := List.range 18 }

end Sys2Proof.Machine
end

