-- ==== Sys2Proof/Machine/Transcend.lean ====
section
/-! DEFINITION. The transcendental instructions (R119, R192): the exact value between two rational bounds, the results
that R119 allows, and the fixed one that the part returns. -/

namespace Sys2Proof.Machine

/-! ## Fixed-point numbers of 256 fraction bits

Each operation truncates by less than one unit, and no result below takes more than a thousand operations of values
under sixteen, so that `slack` units on either side hold the exact value. -/

/-- One, in fixed point. -/
def fxOne : Nat := 2 ^ 256

/-- The units of error allowed for. -/
def slack : Nat := 2 ^ 24

/-- The product of fixed-point numbers. -/
def fxMul (a b : Nat) : Nat := a * b / fxOne

/-- Σ z^(2k+1) / (2k + 1) for k below `n`, alternating when `alt` is set: atanh z, or atan z. -/
def fxOdd (alt : Bool) (z : Nat) (n : Nat) : Nat :=
  let zz := fxMul z z
  let r := (List.range n).foldl (fun (acc : Nat × Nat × Nat) k =>
    let t := acc.1 / (2 * k + 1)
    (fxMul acc.1 zz, if alt && k % 2 == 1 then (acc.2.1, acc.2.2 + t) else (acc.2.1 + t, acc.2.2))) (z, 0, 0)
  r.2.1 - r.2.2

/-- ln 2 = 2 atanh (1/3). -/
def fxLn2 : Nat := 2 * fxOdd false (fxOne / 3) 90

/-- 2π = 32 atan (1/5) − 8 atan (1/239). -/
def fxTwoPi : Nat := 32 * fxOdd true (fxOne / 5) 70 - 8 * fxOdd true (fxOne / 239) 30

/-- e^y for y below 2. -/
def fxExp (y : Nat) : Nat :=
  ((List.range 80).foldl (fun (acc : Nat × Nat) k => (fxMul acc.1 y / (k + 1), acc.2 + acc.1)) (fxOne, 0)).2

/-- sin x (first term x) or cos x (first term 1) for x below 2: the alternating series from the term with exponent e. -/
def fxTrig (e x : Nat) : Nat :=
  let xx := fxMul x x
  let r := (List.range 40).foldl (fun (acc : Nat × Nat × Nat) k =>
    (fxMul acc.1 xx / ((2 * k + 1 + e) * (2 * k + 2 + e)),
      if k % 2 == 1 then (acc.2.1, acc.2.2 + acc.1) else (acc.2.1 + acc.1, acc.2.2)))
    (if e == 0 then fxOne else x, 0, 0)
  r.2.1 - r.2.2

/-- An exact value between two bounds of one sign: lo / den ≤ |value| ≤ hi / den. -/
structure Encl where
  neg : Bool
  lo  : Nat
  hi  : Nat
  den : Nat
  deriving DecidableEq, Repr, Inhabited

/-- A value known exactly. -/
def Encl.exact (neg : Bool) (n d : Nat) : Encl := { neg := neg, lo := n, hi := n, den := d }

/-- A fixed-point value with its slack. -/
def Encl.fx (neg : Bool) (v : Nat) : Encl := { neg := neg, lo := v - slack, hi := v + slack, den := fxOne }

/-! ## The exact values -/

/-- 2^f for |f| ≤ 1/2. -/
def enclExp2 (neg : Bool) (n d : Nat) : Encl :=
  if n == 0 then .exact false 1 1
  else
    let e := fxExp (fxMul (n * fxOne / d) fxLn2)
    .fx false (if neg then fxOne * fxOne / e else e)

/-- 1 / √(n / d). -/
def enclRsq (n d : Nat) : Encl :=
  let x := d * 4 ^ 400 / n
  let r := isqrt x
  if r * r * n == d * 4 ^ 400 then .exact false r (2 ^ 400) else { neg := false, lo := r, hi := r + 2, den := 2 ^ 400 }

/-- log2 (n / d): exact for a power of two. -/
def enclLog2 (n d : Nat) : Encl :=
  let e := leadExp n d
  let p := pow2 e
  let n := n * p.2
  let d := d * p.1
  if n == d then .exact (decide (e < 0)) e.natAbs 1
  else
    -- ln m = 2 atanh ((m − 1) / (m + 1)) with 1 < m < 2
    let l := 2 * fxOdd false ((n - d) * fxOne / (n + d)) 90 * fxOne / fxLn2
    let v : Int := e * (fxOne : Int) + l
    .fx (decide (v < 0)) v.natAbs

/-- sin 2πa (`shift` 0) or cos 2πa (`shift` 1), from the exact fraction of a turn: exact at every quarter turn. -/
def enclTurn (shift : Nat) (neg : Bool) (n d : Nat) : Encl :=
  -- four times the turn, so that a quarter is 1; a negative sine is the sine of the magnitude, negated
  let q := (4 * n / d + shift) % 4
  let r := 4 * n % d
  let flip := (neg && shift == 0) != decide (2 ≤ q)
  if r == 0 then
    (if q % 2 == 0 then .exact (neg && shift == 0) 0 1 else .exact flip 1 1)
  else
    let x := fxMul (r * fxOne / (4 * d)) fxTwoPi
    .fx flip (if q % 2 == 0 then fxTrig 1 x else fxTrig 0 x)

/-- tanh a = 1 − 2 / (e^2a + 1); past 100 it lies within 2^−200 of 1. -/
def enclTanh (neg : Bool) (n d : Nat) : Encl :=
  if 100 * d < n then { neg := neg, lo := fxOne - 2 ^ 56, hi := fxOne, den := fxOne }
  else
    let y := 2 * n * fxOne / d
    let e := fxExp (y % fxLn2) * 2 ^ (y / fxLn2)
    .fx neg (fxOne - 2 * fxOne * fxOne / (e + fxOne))

/-! ## The allowed results (R119) -/

/-- The error that R119 allows: ulps of the exact result, and an absolute error of 2^−abs. -/
structure Bound where
  ulps : Nat
  abs  : Option Nat
  deriving DecidableEq, Repr, Inhabited

/-- |x − y| ≤ b for fractions with signs. -/
def closeTo (xs : Bool) (xn xd : Nat) (ys : Bool) (yn yd bn bd : Nat) : Bool :=
  let r := addFrac xs xn xd (!ys) yn yd
  decide (r.2.1 * bd ≤ bn * r.2.2)

/-- A finite candidate lies within the bound of every value between the bounds of the exact one. -/
def Bound.admits (b : Bound) (e : Encl) (cand : Nat) : Bool :=
  match f32.val cand with
  | .fin s n d =>
    let q : Int := if e.lo == 0 then -149 else max (leadExp e.lo e.den) (-126) - 23
    let ulp := pow2 q
    let ok := fun (y : Nat) =>
      closeTo s n d e.neg y e.den (b.ulps * ulp.1) ulp.2 ||
      match b.abs with
      | some k => closeTo s n d e.neg y e.den 1 (2 ^ k)
      | none => false
    ok e.lo && ok e.hi
  | _ => false

/-- The result that the part returns: one fixed value within the bound for each input (R119). The spec does not say
which; a candidate that R119 does not allow gives way to the nearest value, and so does one for an exact result of 0,
1 or −1 of a sine or cosine. -/
def transResult (fn : Nat) (b : Bound) (a : Nat) (e : Encl) (fixed : Bool) : Nat :=
  let cand := (Config.transcendental fn (BitVec.ofNat 32 a)).toNat
  if !fixed && b.admits e cand then cand else (f32.round 0 (.fin e.neg (e.lo + e.hi) (2 * e.den))).1

/-- NX, UF and OF of a delivered result (R112). -/
def transFlags (e : Encl) (r : Nat) : Nat :=
  match f32.val r with
  | .fin s n d =>
    if e.lo == e.hi && n * e.den == e.lo * d && (s == e.neg || n == 0) then 0
    else flagNX + (if r % 2 ^ 31 < 2 ^ 23 then flagUF else 0)
  | _ => flagOF + flagNX

/-- A result with its flags. -/
def trans (fn : Nat) (b : Bound) (a : Nat) (e : Encl) (fixed : Bool := false) : Nat × Nat :=
  let r := transResult fn b a e fixed
  (r, transFlags e r)

/-- `FEXP2F` of a: R119, with the results that R259 gives. -/
def exp2F (a : Nat) : Nat × Nat :=
  match f32.val a with
  | .nan => (f32.nan, 0)
  | .inf _ => (f32.nan, flagNV)
  | .fin s n d =>
    if d < 2 * n then (f32.nan, flagNV)
    else trans 0 { ulps := 1, abs := none } a (enclExp2 s n d)
      ([0x00000000, 0x3F000000, 0xBF000000, 0xBDCCCC00, 0xBE999A00].contains a)

/-- `FRCP` of a. -/
def rcpF (a : Nat) : Nat × Nat :=
  match f32.val a with
  | .nan => (f32.nan, 0)
  | .inf s => (f32.signed s 0, 0)
  | .fin s n d =>
    if n == 0 then (f32.inf s, flagDZ) else trans 1 { ulps := 1, abs := none } a (.exact s d n)

/-- `FRSQ` of a. -/
def rsqF (a : Nat) : Nat × Nat :=
  match f32.val a with
  | .nan => (f32.nan, 0)
  | .inf s => if s then (f32.nan, flagNV) else (0, 0)
  | .fin s n d =>
    if n == 0 then (f32.inf s, flagDZ)
    else if s then (f32.nan, flagNV)
    else trans 2 { ulps := 1, abs := none } a (enclRsq n d)

/-- `FLOG2` of a. -/
def log2F (a : Nat) : Nat × Nat :=
  match f32.val a with
  | .nan => (f32.nan, 0)
  | .inf s => if s then (f32.nan, flagNV) else (a, 0)
  | .fin s n d =>
    if n == 0 then (f32.inf true, flagDZ)
    else if s then (f32.nan, flagNV)
    else
      -- in [0.5, 2] the bound is absolute, elsewhere it is one ulp
      trans 3 (if d ≤ 2 * n && n ≤ 2 * d then { ulps := 0, abs := some 22 } else { ulps := 1, abs := none }) a
        (enclLog2 n d) (n == d)

/-- `FSIN` (`shift` 0) or `FCOS` (`shift` 1) of a. -/
def turnF (shift a : Nat) : Nat × Nat :=
  match f32.val a with
  | .nan => (f32.nan, 0)
  | .inf _ => (f32.nan, flagNV)
  | .fin s n d => trans (4 + shift) { ulps := 0, abs := some 22 } a (enclTurn shift s n d) (4 * n % d == 0)

/-- `FTANH` of a. -/
def tanhF (a : Nat) : Nat × Nat :=
  match f32.val a with
  | .nan => (f32.nan, 0)
  | .inf s => (f32.signed s 0x3F800000, 0)
  | .fin s n d =>
    if n == 0 then (a, 0) else trans 6 { ulps := 2, abs := some 24 } a (enclTanh s n d)

/-! ## The instructions (R192) -/

/-- An instruction of the transcendental unit: result and flags arrive at completion (R144, R192). -/
def transUnit (i : Instr) (w : TWord) (s : State) (f : Nat → Nat × Nat) : Out :=
  runWord i s fun x s => .done <|
    let rs := x.lanes.map fun l => (l.2, f (s.opnd l.2 w.a).toNat)
    x.start s [] (allWrites w.d w.nw (rs.map fun r => (r.1, wordsOf 1 r.2.1))) (rs.map fun r => (r.1, r.2.2))

/-- `FEXP2F`. -/
def execFexp2f (w : TWord) (s : State) : Out := transUnit (.fexp2f w) w s exp2F

/-- `FRCP`. -/
def execFrcp (w : TWord) (s : State) : Out := transUnit (.frcp w) w s rcpF

/-- `FRSQ`. -/
def execFrsq (w : TWord) (s : State) : Out := transUnit (.frsq w) w s rsqF

/-- `FSQRT`: correctly rounded in the mode of XM. -/
def execFsqrt (w : TWord) (s : State) : Out := transUnit (.fsqrt w) w s (f32.sqrt (xmMode w))

/-- `FLOG2`. -/
def execFlog2 (w : TWord) (s : State) : Out := transUnit (.flog2 w) w s log2F

/-- `FSIN`. -/
def execFsin (w : TWord) (s : State) : Out := transUnit (.fsin w) w s (turnF 0)

/-- `FCOS`. -/
def execFcos (w : TWord) (s : State) : Out := transUnit (.fcos w) w s (turnF 1)

/-- `FTANH`. -/
def execFtanh (w : TWord) (s : State) : Out := transUnit (.ftanh w) w s tanhF

end Sys2Proof.Machine
end

