-- ==== Sys2Proof/Machine/Units.lean ====
section
/-! DEFINITION. The work of the units behind nodes and operations: launching and completing nodes (R285, R286, R99), tile
tasks (R283), copy nodes (R284), seals (R334, R337), the bins and the end of a pass (R346, R347) and the Motion and Vision
Engines (R351 to R353). -/

namespace Sys2Proof.Machine

/-! ## Launching nodes (R285) -/

/-- The die whose unit takes a record: the one it names, or the home of its line (R285, R452). -/
def State.nodeUnit (s : State) (ctx index n : Nat) : Nat :=
  if nodeDie n < 4 then nodeDie n
  else match (s.translate (unitReq ctx (s.ctx ctx).homeDie) (s.taskVa ctx index) false false none).1 with
    | .ok x => s.homeDieOf x.pa
    | .error _ => (s.ctx ctx).homeDie

/-- Armed records that have become ready are given the unit that takes them, as the homes of their lines are at that moment
(R452). -/
def State.noteNodes (s : State) : State :=
  if s.armed.all fun a => a.unit.isSome then s
  else { s with armed := s.armed.map fun a =>
    if a.unit.isSome || !s.nodeReady a.ctx a.index then a
    else match (s.taskRead (unitReq a.ctx (s.ctx a.ctx).homeDie) a.index 8).1 with
      | .ok n => { a with unit := some (s.nodeUnit a.ctx a.index n) }
      | .error _ => a }

/-- A node becomes FAILED (R280): it decrements nothing, and a record says why (R18, R286), with the buffer of the access
that failed (R382). -/
def State.nodeFails (s : State) (ctx index die : Nat) (f : FaultInfo) (buf : Nat := 0xFFFF) : State :=
  ((s.failNode ctx index die).postUnit ctx die f.kind f.va f.detail buf).nodeEnded ctx index tsFailed

/-- The words of a list of data records from an index on (R279). -/
def State.listWords (s : State) (r : Req) (index n : Nat) : Except FaultInfo (List Nat) × State :=
  (List.range ((n + 15) / 16)).foldl (fun acc i => match acc.1 with
    | .error f => (.error f, acc.2)
    | .ok ws =>
      let q := acc.2.taskRead r (index + i) 64
      match q.1 with
      | .error f => (.error f, q.2)
      | .ok x =>
        let x := q.2.asList r.ctx (index + i) x
        (.ok (ws ++ (List.range (min 16 (n - 16 * i))).map fun k => bitsOf x (32 * k + 31) (32 * k)), q.2))
    (.ok [], s)

/-- The next scene identifier of a context, unique among its live scenes (R22). -/
def State.takeSid (s : State) (ctx : Nat) : Word × State :=
  let k := s.freeSid ctx (s.scenes.length + 2) (s.ctx ctx).nextSid
  (k, s.modCtx ctx fun c => { c with nextSid := k + 1 })

/-- A scene that waits in its die's launch queue (R19, R281). -/
def queuedScene (q : SceneReq) (k : Kernel) (ctx part die unit prio seq : Nat) (sid : Word) (node : Option Nat)
    (consts : List Nat) : Scene :=
  { (default : Scene) with
    ctx := ctx, sid := sid, node := node, kernel := q.kernel, code := k.code, codeSize := k.codeSize, kconst := k.kconst
    kcSize := k.kcSize, entries := k.entries, entry := q.entry, nthr := q.nthr, cap := q.cap, regs := q.regs
    alloc := 4096 * q.scr, win := 1024 * q.xwin, slots := q.slots, quad := q.quad, arr := q.arr
    consts := consts.map (BitVec.ofNat 32), prio := prio, die := die, unit := unit, part := part, st := .queued, seq := seq
    nextTid := q.nthr }

/-- A scene node enters its queue; its launch is an acquire for every path of the scene (R99). -/
def State.launchScene (s : State) (ctx index die n seq : Nat) : State :=
  let r := unitReq ctx die
  let q := sceneReq n
  let k := s.sceneKernel r q
  let w := if q.nconst == 0 then (.ok [], k.2) else k.2.listWords r q.consts q.nconst
  match k.1, w.1 with
  | some e, .ok ws =>
    let sid := w.2.takeSid ctx
    ({ sid.2 with scenes := sid.2.scenes ++
        [queuedScene q e ctx (s.ctx ctx).part (nodeDie n) die (nodePrio n) seq sid.1 (some index) ws] } : State).acquireNode
      ctx index (.scene sid.2.scenes.length)
  | none, _ => w.2.nodeFails ctx index die { kind := 0x0A, va := s.taskVa ctx index, detail := 0 }
  | some _, .error f => w.2.nodeFails ctx index die f

/-- A node enters the queue of its kind: its run is the last of the machine's. -/
def State.launchRun (s : State) (ctx index die n seq : Nat) : State :=
  ({ s with nodes := s.nodes ++ [{ ctx := ctx, index := index, kind := nodeKind n, die := nodeDie n, unit := die
                                   prio := nodePrio n, seq := seq, begun := false, core := none, stage := 0
                                   progress := 0, got := [], held := none, wo := none, live := true }] } : State).acquireNode
    ctx index (.node s.nodes.length)

/-- Run `i` of a node, and a change of it. -/
def State.nodeRun (s : State) (i : Nat) : NodeRun := s.nodes.getD i default
def State.modRun (s : State) (i : Nat) (f : NodeRun → NodeRun) : State := { s with nodes := s.nodes.modify i f }

/-- A run has begun, or no run of its kind at its unit that has not comes before it, by priority and then by arming order
(R285). -/
def State.runFirst (s : State) (i : Nat) : Bool :=
  let x := s.nodeRun i
  x.begun || !(s.nodes.any fun y => y.live && !y.begun && y.kind == x.kind && y.unit == x.unit &&
    (x.prio < y.prio || (y.prio == x.prio && y.seq < x.seq)))

/-- A run is over: its node fails. -/
def State.runFails (s : State) (i : Nat) (f : FaultInfo) (buf : Nat) : State :=
  let x := s.nodeRun i
  (s.modRun i fun y => { y with live := false, core := none, got := [] }).nodeFails x.ctx x.index x.unit f buf

/-- Step 1 of a seal node (R337). -/
def State.startSeal (s : State) (i n : Nat) : State :=
  let x := s.nodeRun i
  let buf := bitsOf n 207 192
  let q := (sealStart (s.surfNodeReq i x.ctx x.unit) buf (bitOf n 208).toNat).run s
  match q.1 with
  | .error f => q.2.runFails i f buf
  | .ok _ => { q.2 with seals := q.2.seals ++ [{ ctx := x.ctx, die := x.unit, buf := buf, flags := (bitOf n 208).toNat
                                                 issuer := none, node := some i, done := false }] }

/-- The requests of an engine for a motion request: in the name of its instruction, or of its node (R351, R353). -/
def State.mveReqBy (s : State) (die eng ctx : Nat) (issuer node : Option Nat) : Req :=
  let unit := 0x4000 + 4 * die + eng
  match issuer, node with
  | some i, _ =>
    { ctx := ctx, die := die, unit := unit, core := (s.op i).core, who := some (s.opReader i 5)
      rep := (s.opThread (s.op i)).map fun th => (th, (s.op i).pc) }
  | none, some k => { ctx := ctx, die := die, unit := unit, core := 64 * die, who := some (s.nodeReader k 5) }
  | none, none => { ctx := ctx, die := die, unit := unit, core := 64 * die }

/-- The checks of a vision node (R353). -/
def State.startVision (s : State) (i n : Nat) : State :=
  let x := s.nodeRun i
  let d := bitsOf n 287 192 + (2 ^ 64 - 1) * 2 ^ 96
  let q := (mveCheck (s.mveReqBy x.unit 0 x.ctx none (some i)) d).run s
  match q.1 with
  | .error f => q.2.runFails i f (mvCur d)
  | .ok (y, rg) =>
    { q.2 with mveReqs := q.2.mveReqs ++ [{ die := x.unit, ctx := x.ctx, ticket := 0, desc := d, issuer := none
                                            node := some i, state := 0, eng := 0, refined := 0, final := [], hdr := y.hdr
                                            refBuf := y.refIdx (mvSlot d), refGen := rg }] }

/-- A host signal stores its value, as a release at system scope, and then raises its vector (R421). -/
def State.hostSignal (s : State) (i n : Nat) : Except FaultInfo Unit × State :=
  let x := s.nodeRun i
  let r := unitReq x.ctx x.unit
  let buf := bitsOf n 207 192
  let q := s.bufRecord r buf
  match q.1 with
  | .error f => (.error f, q.2)
  | .ok rec1 =>
    let off := bitsOf n 255 208
    let va := recBase rec1 + off
    if recExtent rec1 < off + 8 then (.error { kind := 3, va := va, detail := 0 }, q.2)
    else if !recAllows x.ctx rec1 1 then (.error { kind := 2, va := va, detail := 0 }, q.2)
    else
      let w := q.2.engineWrite r { bits := rec1, index := buf }
        ((leBytes 8 (bitsOf n 319 256)).zipIdx.map fun b => (va + b.2, b.1)) false
      match w.1 with
      | .ok _ _ =>
        let vec := bitsOf n 335 320
        let s : State := match (w.2.translate r va true false none).1 with
          | .ok a => if a.pkg == w.2.pkgId then w.2.releaseAt (.node i) 4 .mem a.pa 8 else w.2
          | .error _ => w.2
        (.ok (), if vec == 0xFFFF then s else { s with msix := s.msix ++ [(x.ctx, vec)] })
      | .held f => (.error f, w.2)
      | .post f => (.error f, w.2)
      | .wait _ => (.ok (), w.2)

/-- TASK_NODE_LAUNCH (R285): the unit takes a ready record, validates it, and launches it or fails it. -/
def execTaskNodeLaunch (ctx index : Nat) (s : State) : Out := .next <|
  match s.armed.find? fun a => a.ctx == ctx && a.index == index with
  | none => s
  | some a =>
    if !s.nodeReady ctx index || s.power != .run then s
    else
      let s := { s with armed := s.armed.filter fun b => b != a }
      let q := s.taskRead (unitReq ctx (s.ctx ctx).homeDie) index 64
      match q.1 with
      | .error _ => s
      | .ok n =>
        let die := a.unit.getD (q.2.nodeUnit ctx index n)
        let v := q.2.nodeValid (unitReq ctx die) n
        if !v.1 then v.2.nodeFails ctx index die { kind := 0x0A, va := s.taskVa ctx index, detail := 0 }
        else
          let t := v.2.taskAtomic (unitReq ctx die) index fun h =>
            if taskState h == tsArmed && taskPred h == 0 then some (withTaskState h tsLaunched) else none
          match t.1 with
          | .ok true =>
            let s := t.2.nodeLaunched ctx index (nodeKind n)
            if nodeKind n == 1 then s.launchScene ctx index die n a.seq
            else
              let i := s.nodes.length
              let s := s.launchRun ctx index die n a.seq
              if nodeKind n == 4 then s.startSeal i n else if nodeKind n == 5 then s.startVision i n else s
          | _ => v.2

/-! ## Completing nodes (R285, R99) -/

/-- A node's work is finished: COMPLETE, and then its successors' counts go down, in list order. It is a release of every
access of the node, which is that of agent `a`. -/
def State.completeNode (s : State) (ctx index die : Nat) (a : Agent) : State :=
  let r := unitReq ctx die
  let q := s.taskRead r index 16
  match q.1 with
  | .error f => q.2.postUnit ctx die f.kind f.va f.detail
  | .ok n =>
    let t := q.2.taskAtomic r index fun h =>
      if taskState h == tsLaunched then some (withTaskState h tsComplete) else none
    match t.1 with
    | .ok true =>
      let m := t.2.markOlds (t.2.nodeWrite a)
      let s := ((m.2.taskPa r index).elim m.2 fun pa => m.2.releaseBy a m.1 pa 8).nodeEnded ctx index tsComplete
      let w := if nodeSucc n == 2 ^ 32 - 1 then (.ok [], s) else s.listWords r (nodeSucc n) (nodeSuccN n)
      (match w.1 with
        | .error f => w.2.postUnit ctx die f.kind f.va f.detail
        | .ok ks => ks.foldl (fun (s : State) k => s.unitDecrement r k a m.1) w.2)
    | _ => t.2

/-- A run is over: its node is COMPLETE. -/
def State.runDone (s : State) (i : Nat) : State :=
  let x := s.nodeRun i
  (s.modRun i fun y => { y with live := false, core := none, got := [] }).completeNode x.ctx x.index x.unit (.node i)

/-- A buffer of a node: its record under the right, or the fault. -/
def State.nodeBuf (s : State) (r : Req) (index right : Nat) : Except FaultInfo BufRef × State :=
  let q := s.bufRecord r index
  match q.1 with
  | .error f => (.error f, q.2)
  | .ok b => (if recAllows r.ctx b right then .ok { bits := b, index := index }
      else .error { kind := 2, va := recBase b, detail := 0 }, q.2)

/-- How a node's work stands: a fault comes with the buffer of its access. -/
inductive NodeRes where
  | done
  /-- a translation fault holds it at its line (R286) -/
  | held (f : FaultInfo) (buf : Nat)
  | failed (f : FaultInfo) (buf : Nat)
  /-- it waits for a WO line -/
  | wait (w : WoWait)
  /-- it has not been dispatched -/
  | idle
  deriving DecidableEq, Repr, Inhabited

/-! ### Copy nodes (R284) -/

/-- The bytes that a copy node reads for a range of its source: zeros beyond the buffer (R229). -/
def State.copyNodeRead (s : State) (r : Req) (b : BufRef) (off n : Nat) : EngRes × State :=
  let have1 := min n (recExtent b.bits - off)
  if have1 == 0 then (.ok (List.replicate n 0) false, s)
  else
    let q := s.engineSpan r b (recBase b.bits + off) have1
    match q.1 with
    | .ok bs psn => (.ok (bs ++ List.replicate (n - have1) 0) psn, q.2)
    | e => (e, q.2)

/-- The lines of a copy node from its progress on: `k` more of them, line `i` of the destination range next. -/
def State.copyNodeRun (s : State) (r : Req) (src dst : BufRef) (soff doff len : Nat) : Nat → Nat → NodeRes × Nat × State
  | 0, i => (.done, i, s)
  | k + 1, i =>
    let spans := lineSpans (recBase dst.bits + doff) len
    match spans[i]? with
    | none => (.done, i, s)
    | some (va, n) =>
      let at1 := va - (recBase dst.bits + doff)
      let keep := min n (recExtent dst.bits - (doff + at1))
      if keep == 0 then s.copyNodeRun r src dst soff doff len k (i + 1)
      else
        let q := s.copyNodeRead r src (soff + at1) n
        match q.1 with
        | .held f => (.held f src.index, i, q.2)
        | .post f => (.failed f src.index, i, q.2)
        | .wait w => (.wait w, i, q.2)
        | .ok bs psn =>
          let w := q.2.engineWrite r dst ((bs.take keep).zipIdx.map fun b => (va + b.2, b.1)) psn
          match w.1 with
          | .held f => (.held f dst.index, i, w.2)
          | .post f => (.failed f dst.index, i, w.2)
          | _ => w.2.copyNodeRun r src dst soff doff len k (i + 1)

/-- A copy node's work. -/
def State.copyNode (s : State) (r : Req) (n progress : Nat) : NodeRes × Nat × State :=
  let len := bitsOf n 367 320
  if len == 0 then (.done, progress, s)
  else
    let a := s.nodeBuf r (bitsOf n 207 192) 0
    let b := a.2.nodeBuf r (bitsOf n 223 208) 1
    match a.1, b.1 with
    | .error f, _ => (.failed f (bitsOf n 207 192), progress, a.2)
    | _, .error f => (.failed f (bitsOf n 223 208), progress, b.2)
    | .ok src, .ok dst =>
      b.2.copyNodeRun r src dst (bitsOf n 271 224) (bitsOf n 319 272) len (len / 128 + 2) progress

/-! ### Tile tasks (R283) -/

/-- An operand of a tile task: its buffer, its offset and its bytes, and whether it is the bias, whose poisoned lines poison
outputs (R276), while none goes on past a poisoned line of the others (R273). -/
structure TileOperand where
  buf  : Nat
  off  : Nat
  len  : Nat
  bias : Bool
  deriving DecidableEq, Repr, Inhabited

/-- The operands of a tile task in the order of the sequence of R283: the weight image, the activation rows with their
scales, and the bias. -/
def tileOperands (n : Nat) : List TileOperand :=
  let rows := bitsOf n 391 384 + 1
  let op := fun (buf off len : Nat) (bias : Bool) => ({ buf := buf, off := off, len := len, bias := bias } : TileOperand)
  [op (bitsOf n 207 192) (bitsOf n 287 256) 33792 false, op (bitsOf n 223 208) (bitsOf n 319 288) (128 * rows) false,
    op (bitsOf n 223 208) (bitsOf n 319 288 + 32768) ((4 * rows + 127) / 128 * 128) false] ++
    (if bitsOf n 255 240 == 0xFFFF then [] else [op (bitsOf n 255 240) (bitsOf n 383 352) 1024 true])

/-- Read the parts of an operand that lie in one line of memory each, from the one on at which run `i` stands; what stops
it. -/
def State.tileParts (s : State) (r : Req) (i : Nat) (b : BufRef) (bias : Bool) : List (Nat × Nat) → Option NodeRes × State
  | [] => (none, s)
  | (va, n) :: rest =>
    let w := s.engineRead r b va n
    match w.1 with
    | .ok bs psn =>
      if psn && !bias then (some (.failed { kind := 0x0C, va := va, detail := 0 } b.index), w.2)
      else
        (w.2.modRun i fun x => { x with progress := x.progress + 1, got := x.got ++ bs.map fun y => (y, psn) }).tileParts r i b
          bias rest
    | .held f => (some (.held f b.index), w.2)
    | .post f => (some (.failed f b.index), w.2)
    | .wait v => (some (.wait v), w.2)

/-- Read one operand, within its buffer's EXTENT. -/
def State.tileOperand (s : State) (r : Req) (i : Nat) (o : TileOperand) : Option NodeRes × State :=
  let q := s.nodeBuf r o.buf 0
  match q.1 with
  | .error f => (some (.failed f o.buf), q.2)
  | .ok b =>
    if recExtent b.bits < o.off + o.len then
      (some (.failed { kind := 3, va := recBase b.bits + (max o.off (recExtent b.bits)) / 128 * 128, detail := 0 } o.buf), q.2)
    else
      let p := q.2.tileParts r i b o.bias ((lineSpans (recBase b.bits + o.off) o.len).drop (q.2.nodeRun i).progress)
      match p.1 with
      | some e => (some e, p.2)
      | none => (none, p.2.modRun i fun x => { x with stage := x.stage + 1, progress := 0 })

/-- The bytes of a run's operands so far. -/
def NodeRun.bytes (x : NodeRun) : List Byte := x.got.map Prod.fst

/-- Read the operands that are left. A T2 weight image that holds a bad code is refused when it is latched. -/
def State.tileLoad (s : State) (r : Req) (i n : Nat) : List TileOperand → Option NodeRes × State
  | [] => (none, s)
  | o :: rest =>
    let first := (s.nodeRun i).stage == 0
    let q := s.tileOperand r i o
    match q.1 with
    | some e => (some e, q.2)
    | none =>
      match (if first && bitsOf n 393 392 == 0 then badCode (Memory.writeN [] 0 (q.2.nodeRun i).bytes) else none) with
      | some (x, k) => (some (.failed { kind := 0x0C, va := 0, detail := x * 256 + k } 0xFFFF), q.2)
      | none => q.2.tileLoad r i n rest

/-- The output bytes of a node, each with whether its line is poisoned, from the part on at which it stands; a part lies in
one line of memory. -/
def State.tileWrite (s : State) (r : Req) (b : BufRef) (off : Nat) (out : List (Byte × Bool)) :
    Nat → Nat → NodeRes × Nat × State
  | 0, i => (.done, i, s)
  | k + 1, i =>
    match (lineSpans (recBase b.bits + off) out.length)[i]? with
    | none => (.done, i, s)
    | some (va, n) =>
      if recExtent b.bits < va + n - recBase b.bits then (.failed { kind := 3, va := va, detail := 0 } b.index, i, s)
      else
        let mine := (out.drop (va - recBase b.bits - off)).take n
        let w := s.engineWrite r b (mine.zipIdx.map fun x => (va + x.2, x.1.1)) (mine.any Prod.snd)
        match w.1 with
        | .held f => (.held f b.index, i, w.2)
        | .post f => (.failed f b.index, i, w.2)
        | _ => w.2.tileWrite r b off out k (i + 1)

/-- Lines of 128 bytes. -/
def chunks (bs : List Byte) : List (List Byte) := (List.range (bs.length / 128)).map fun i => (bs.drop (128 * i)).take 128

/-- The output rows of a tile task, as lines, none of them poisoned but those that use a poisoned bias line (R276): the
sequence of R283 on an array that holds no tile before it. -/
def tileOut (n : Nat) (w a sc : List Byte) (bias : Option (List Byte × List Bool)) : List (List Byte × Bool) :=
  let rows := bitsOf n 391 384 + 1
  let fmt := bitsOf n 393 392
  let out := bitsOf n 395 394
  let wm : Memory := Memory.writeN [] 0 w
  let bank : Bank := { fmt := fmt, weights := wm.filter fun c => c.1 < 4096 * weightBits fmt
                       scales := (wm.filter fun c => 32768 ≤ c.1 && c.1 < 33280).map fun c => (c.1 - 32768, c.2) }
  let m0 : MatArray := { MatArray.empty with active := bank }
  let m := (List.range rows).foldl (fun (m : MatArray) q =>
    (streamRow m (bitOf n 396) true (((a.drop (128 * q)).take 128).map BitVec.toInt) (leNat ((sc.drop (4 * q)).take 4)) q).1) m0
  let lines := chunks <| (List.range rows).flatMap fun q => (List.range 256).flatMap fun j =>
    leBytes (outBytes out) (drainOut (m.acc.get (256 * q + j)) (m.rowScale.get q) (m.active.scales.num (2 * j) 2)
      (bias.map fun b => leNat ((b.1.drop (4 * j)).take 4)) out (bitsOf n 447 416)).1
  let per := 128 / outBytes out
  lines.zipIdx.map fun l =>
    let cols := (List.range per).map fun k => l.2 % (256 / per) * per + k
    (l.1, bias.any fun b => cols.any fun j => b.2.getD (j / 32) false)

/-- The output bytes of a tile task whose operands are read. -/
def NodeRun.tileBytes (x : NodeRun) (n : Nat) : List (Byte × Bool) :=
  let rows := bitsOf n 391 384 + 1
  let scales := (4 * rows + 127) / 128 * 128
  let bs := x.bytes
  let bias := if bitsOf n 255 240 == 0xFFFF then none else
    let tail := x.got.drop (33792 + 128 * rows + scales)
    some (tail.map Prod.fst, (List.range 8).map fun k => ((tail.drop (128 * k)).take 128).any Prod.snd)
  (tileOut n (bs.take 33792) ((bs.drop 33792).take (128 * rows)) ((bs.drop (33792 + 128 * rows)).take scales) bias).flatMap
    fun l => l.1.map fun y => (y, l.2)

/-- A tile task's work, from where run `i` stands: its operands, and then its output. -/
def State.tileNode (s : State) (r : Req) (i n : Nat) : NodeRes × Nat × State :=
  let q := s.tileLoad r i n ((tileOperands n).drop (s.nodeRun i).stage)
  let x := q.2.nodeRun i
  match q.1 with
  | some e => (e, x.progress, q.2)
  | none =>
    let o := q.2.nodeBuf r (bitsOf n 239 224) 1
    match o.1 with
    | .error f => (.failed f (bitsOf n 239 224), x.progress, o.2)
    | .ok b =>
      let out := x.tileBytes n
      o.2.tileWrite r b (bitsOf n 351 320) out (out.length / 128 + 3) x.progress

/-- TILE_TASK_DISPATCH (R286): to the lowest free array of the partition, in the order of priority and arming. -/
def execTileTaskDispatch (ctx index : Nat) (s : State) : Out := .next <|
  match (indices s.nodes fun n => n.live && n.kind == 2 && n.core.isNone && n.ctx == ctx && n.index == index).head? with
  | none => s
  | some i =>
    let n := s.nodeRun i
    let free := fun (x : NodeRun) => (s.partCores (s.ctx x.ctx).part).find? fun k =>
      s.arrayFree k && s.mayRun x.ctx && (x.die == 7 || coreDie k == x.die)
    let before := s.nodes.any fun x => x.live && x.kind == 2 && x.core.isNone &&
      (n.prio < x.prio || (x.prio == n.prio && x.seq < n.seq)) && free x == free n
    match free n with
    | some k => if before || s.power != .run then s else s.modRun i fun x => { x with core := some k, begun := true }
    | none => s

/-- The requests of a run's engine: of class MTX for a tile task, of class CPY for a copy (R283, R284). -/
def State.runReq (s : State) (i : Nat) : Req :=
  let x := s.nodeRun i
  match x.kind with
  | 2 => { engineReq x.ctx (x.core.getD (64 * x.unit)) with who := some (s.nodeReader i 2) }
  | 3 => { unitReq x.ctx x.unit with who := some (s.nodeReader i 1) }
  | _ => unitReq x.ctx x.unit

/-- What a node's work comes to now. -/
def State.runNode (s : State) (i : Nat) : NodeRes × Nat × State :=
  let x := s.nodeRun i
  let q := s.taskRead (unitReq x.ctx x.unit) x.index 64
  match q.1 with
  | .error f => (.held f 0xFFFF, x.progress, q.2)
  | .ok n => match x.kind with
    | 2 => if x.core.isNone then (.idle, x.progress, q.2) else q.2.tileNode (s.runReq i) i n
    | 3 => q.2.copyNode (s.runReq i) n x.progress
    | 6 =>
      let h := q.2.hostSignal i n
      (match h.1 with
        | .ok _ => (.done, 0, h.2)
        | .error f => (.failed f (bitsOf n 207 192), 0, h.2))
    | _ => (.done, 0, q.2)

/-- A held node may go on: what held it translates now, or meets another fault (R286). -/
def State.nodeFree (s : State) (i : Nat) : Bool :=
  match (s.nodeRun i).held with
  | none => true
  | some f => match (s.translate (s.runReq i) f.va false false none).1 with
    | .ok _ => true
    | .error e => e.kind != f.kind || e.detail != f.detail

/-- A run waits for a WO line: the wait goes on from when it began, and at its end the node fails with WOWAIT (R89, R286). -/
def State.runWaits (s : State) (i : Nat) (old : Option WoWait) (v : WoWait) : State :=
  let x := s.nodeRun i
  let since := match old with
    | some o => if o.pkg == v.pkg && o.line == v.line then o.since else v.since
    | none => v.since
  if s.clock < since + s.woLimit x.place then s.modRun i fun y => { y with wo := some { v with since := since } }
  else s.runFails i { kind := 9, va := v.va, detail := 0 } v.buf

/-- The work of a run, as far as it comes now. -/
def State.runStep (s : State) (i : Nat) : State :=
  let x := s.nodeRun i
  if !s.runFirst i || !s.nodeFree i then s
  else
    let q := (s.modRun i fun y => { y with held := none, wo := none, begun := y.begun || y.kind != 2 }).runNode i
    let s := q.2.2
    match q.1 with
    | .done => s.runDone i
    | .failed f buf => s.runFails i f buf
    | .idle => s
    | .wait v => (s.modRun i fun y => { y with progress := q.2.1 }).runWaits i x.wo v
    | .held f buf =>
      let s := s.modRun i fun y => { y with progress := q.2.1, held := some f }
      if x.held == some f then s else s.postUnit x.ctx x.unit f.kind f.va (setBitN f.detail 15 true) buf

/-- TASK_NODE_COMPLETE (R285): a node's work finishes. That of a scene node is the end of its scene (R24); a seal and a
motion request end at their own events. -/
def execTaskNodeComplete (ctx index : Nat) (s : State) : Out := .next <|
  match (indices s.scenes fun c => c.st == .ended && c.ctx == ctx && c.node == some index).head?,
      (indices s.nodes fun n => n.live && n.ctx == ctx && n.index == index && n.kind != 4 && n.kind != 5).head? with
  | some sc, _ =>
    let c := s.scene sc
    ((s.modScene sc fun c => { c with node := none }).flushIp c.core c.ctx).completeNode ctx index c.unit (.scene sc)
  | none, some i => s.runStep i
  | none, none => s

/-! ## Seals (R334) -/

/-- The name under which a seal works: its operation's thread, or its node. -/
def State.sealReq (s : State) (j : SealJob) : Req :=
  match j.issuer, j.node with
  | some i, _ => s.surfOpReq i
  | none, some k => s.surfNodeReq k j.ctx j.die
  | none, none => surfReq j.ctx (64 * j.die)

/-- The completion of a seal is a release of its writes at package scope (R334). -/
def State.sealDone (s : State) (i : Nat) : State :=
  let m := s.markOlds fun y => y.owners.contains (.op i)
  (m.2.modOp i fun o => { o with rel := m.1 }).completeOp i

/-- SEAL_CODING (R334, steps 2 to 5): the coded bank takes over, or the fault is posted and the surface is open again. -/
def execSealCoding (job : Nat) (s : State) : Out := .next <|
  match s.seals[job]? with
  | none => s
  | some j =>
    if j.done || !(j.node.all s.runFirst) then s
    else
      let q := ({ s with seals := s.seals.modify job fun j => { j with done := true } } : State).sealRun
        (s.sealReq j) j.buf j.flags
      match q.1, j.issuer, j.node with
      | .ok _, some i, _ => q.2.sealDone i
      | .ok _, none, some k => q.2.runDone k
      | .error f, some i, _ => (q.2.opRecord (q.2.op i) f.kind j.buf f.va f.detail).completeOp i
      | .error f, none, some k => q.2.runFails k f j.buf
      | _, none, none => q.2

/-! ## Bins and passes (R345 to R347) -/

/-- The quad work of a bin (R346): quads in raster order, their visible primitives in ascending ID. -/
def quadWork (tris : List Tri) (zclear w h bin : Nat) : List QuadWork :=
  let bw := (w + 63) / 64
  (List.range 1024).flatMap fun k =>
    let x := 64 * (bin % bw) + 2 * (k % 32)
    let y := 64 * (bin / bw) + 2 * (k / 32)
    let vis := (List.range 4).map fun c =>
      if x + c % 2 < w && y + c / 2 < h then visibleAt tris zclear (x + c % 2) (y + c / 2) else none
    let tri := fun (t : Nat) => tris.getD t default
    let prims := (vis.filterMap id).eraseDups.mergeSort fun a b => !(tri b).before (tri a)
    prims.map fun p => { x := x, y := y, prim := p, own := vis.map fun v => v == some p }

/-- Lists of up to n elements, in order. -/
def groupsOf {α : Type} (n : Nat) (xs : List α) : List (List α) :=
  (List.range ((xs.length + n - 1) / n)).map fun i => (xs.drop (n * i)).take n

/-- One pixel scene enters its queue. -/
def State.pixelScene (s : State) (i : Nat) (q : SceneReq) (k : Kernel) (prio : Nat) (consts : List Nat) (work : List QuadWork) :
    State :=
  let p := s.pass i
  let sid := s.takeSid p.ctx
  let q := { q with nthr := 4 * work.length, cap := 4 * work.length, quad := true, arr := false }
  let c := { queuedScene q k p.ctx p.part p.die p.die prio s.seqCtr sid.1 none consts with pass := some i, work := work }
  { sid.2 with scenes := sid.2.scenes ++ [c], seqCtr := sid.2.seqCtr + 1 }

/-- BIN_FINAL (R346): a bin of a closed pass is final, and its pixel scenes are launched. -/
def execBinFinal (pass bin : Nat) (s : State) : Out := .next <|
  let p := s.pass pass
  let r := unitReq p.ctx p.die
  if p.state != 2 || p.final.contains bin || s.power != .run then s
  else match ((openPass r p.buf).run s).1 with
    | .error _ => s
    | .ok h =>
      if (h.w + 63) / 64 * ((h.h + 63) / 64) ≤ bin then s
      else
        let t := s.taskRead r h.pixNode 64
        match t.1 with
        | .error _ => s
        | .ok n =>
          let q := sceneReq n
          let k := t.2.sceneKernel r q
          let w := if q.nconst == 0 then (.ok [], k.2) else k.2.listWords r q.consts q.nconst
          match k.1, w.1 with
          | some e, .ok ws =>
            (groupsOf 512 (quadWork p.tris h.zclear h.w h.h bin)).foldl
              (fun (s : State) g => s.pixelScene pass q e (nodePrio n) ws g)
              (w.2.modPass pass fun p => { p with final := insertNat bin p.final })
          | _, _ => s

/-- PASS_DONE (R347): every bin is final and every pixel scene has ended. It is a release of every access of those
scenes. -/
def execPassDone (pass : Nat) (s : State) : Out := .next <|
  let p := s.pass pass
  let r := unitReq p.ctx p.die
  if p.state != 2 then s
  else
    let q := (openPass r p.buf).run s
    match q.1 with
    | .error _ => s
    | .ok h =>
      let mine := indices s.scenes fun c => c.pass == some pass
      if p.final.length < (h.w + 63) / 64 * ((h.h + 63) / 64) || mine.any fun sc => (s.scene sc).st != .ended then s
      else
        let cores := (mine.map fun sc => (s.scene sc).core).eraseDups
        let s := cores.foldl (fun (s : State) k => s.flushIp k p.ctx) q.2
        let s := ((h.put 3 h.prims h.drops).run s).2
        let s := s.modPass pass fun p => { p with state := 3 }
        let m := s.markOlds fun y => mine.any fun sc => s.sceneWrite sc y
        if h.done == 2 ^ 32 - 1 then m.2 else m.2.unitDecrement r h.done (.scene (mine.headD 0)) m.1

/-! ## The Motion and Vision Engines (R351 to R353) -/

/-- A motion request. -/
def State.mve (s : State) (i : Nat) : MveReq := s.mveReqs.getD i default

/-- Change a motion request. -/
def State.modMve (s : State) (i : Nat) (f : MveReq → MveReq) : State := { s with mveReqs := s.mveReqs.modify i f }

/-- The requests of an engine for a request, by its place in the list. -/
def State.mveReq (s : State) (i : Nat) : Req :=
  let q := s.mve i
  s.mveReqBy q.die q.eng q.ctx q.issuer q.node

/-- Result lines in scratchpad, each full when it is written (R351): `psn` marks them as poisoned instead. -/
def State.mveLines (s : State) (op a n : Nat) (bs : List Byte) (psn : Bool) : State :=
  if a == 2 ^ 32 - 1 then s
  else
    let sc := (s.op op).scene
    let s := s.keepFilled sc (s.opReader op 5) op
      ((List.range (if psn then 0 else n)).map fun k => (s.scene sc).spPhys (a + k))
    s.modScene sc fun c =>
      (List.range (n / 128)).foldl (fun (c : Scene) j =>
        let line := (List.range 128).map fun k => bs.getD (128 * j + k) 0
        (if psn then c else c.spWrite (a + 128 * j) line).fillLine (c.spPhys (a + 128 * j) / 128) (!psn) psn) c

/-- A request fails (R352). -/
def State.mveFails (s : State) (i : Nat) (f : FaultInfo) (buf : Nat) : State :=
  let q := s.mve i
  let s := s.modMve i fun q => { q with state := 4 }
  match q.issuer, q.node with
  | some o, _ =>
    let s := if q.state == 2 then s else s.mveLines o (mvOutc q.desc) (mvBytes q.desc) [] true
    let s := s.mveLines o (mvOutf q.desc) (mvBytes q.desc) [] true
    (s.opRecord (s.op o) f.kind buf f.va f.detail).completeOp o
  | none, some k => s.runFails k f buf
  | none, none => s

/-- The lowest engine of a die that runs no request. -/
def State.freeMve (s : State) (die : Nat) : Option Nat :=
  (List.range 4).find? fun e => !(s.mveReqs.any fun r => r.die == die && (r.state == 1 || r.state == 2) && r.eng == e)

/-- A request is the next of its queue: the instructions' on a die in their order, the nodes' by R285. -/
def State.mveFirst (s : State) (i : Nat) : Bool :=
  let q := s.mve i
  match q.node with
  | some k => s.runFirst k
  | none => (indices s.mveReqs fun r => r.die == q.die && r.state == 0 && r.node.isNone).head? == some i

/-- MVE_REQUEST_START (R351): a free engine of the die starts a request that is the next of its queue; the coarse results
are written. -/
def execMveRequestStart (request : Nat) (s : State) : Out := .next <|
  let q := s.mve request
  match s.freeMve q.die with
  | none => s
  | some e =>
    if q.state != 0 || s.mveReqs.length ≤ request || !s.mveFirst request || s.power != .run then s
    else
      let s := s.modMve request fun q => { q with eng := e }
      let s : State := q.node.elim s fun k => s.modRun k fun x => { x with begun := true }
      let m := (mveSearch (s.mveReq request) q.desc).run s
      match m.1 with
      | .error f => m.2.mveFails request f (mvCur q.desc)
      | .ok (y, coarse, final, n) =>
        let s := m.2.modMve request fun q =>
          { q with state := 1, final := final, refined := n, hdr := y.hdr, refBuf := y.refIdx (mvSlot q.desc)
                   refGen := y.refGen (mvSlot q.desc) }
        match q.issuer with
        | some o =>
          if mvOutc q.desc == 2 ^ 32 - 1 then s
          else (s.mveLines o (mvOutc q.desc) (mvBytes q.desc) coarse false).modMve request fun q =>
            { q with state := 2 }
        | none => s

/-- The reference still has its generation, and is sealed (R352). -/
def mveRefSame (r : Req) (q : MveReq) : SurfM Bool := do
  let s ← get
  let z := (openSurf r q.refBuf 1).run s
  set z.2
  match z.1 with
  | .error f => if f.kind == 2 && f.detail / 256 != 6 then return false else throw f
  | .ok y => return y.gen == q.refGen && y.state == 3

/-- The hints of a request (R351): one for each block, in the surface as the search read its header. -/
def mveHints (r : Req) (q : MveReq) : SurfM Unit := do
  let b ← openBuf r (mvCur q.desc) 3
  let y : Surf := { buf := b, hdr := q.hdr }
  (List.range (mvNbx q.desc * mvNby q.desc)).forM fun k =>
    y.put (y.hintAt (mvBx0 q.desc + k % mvNbx q.desc) (mvBy0 q.desc + k / mvNbx q.desc))
      ((q.final.drop (8 * k)).take 4 ++ leBytes 4 (mvSlot q.desc + 4))

/-- The final records of a vision node go to its buffer, as whole lines (R353): where it ends, and the buffer. -/
def State.visionOut (s : State) (r : Req) (index : Nat) (final : List Byte) : Option (FaultInfo × Nat) × State :=
  let q := s.taskRead r index 64
  match q.1 with
  | .error f => (some (f, 0xFFFF), q.2)
  | .ok n =>
    let buf := bitsOf n 303 288
    let b := q.2.nodeBuf r buf 1
    match b.1 with
    | .error f => (some (f, buf), b.2)
    | .ok ref =>
      let len := (final.length + 127) / 128
      let out := (List.range (128 * len)).map fun k => (final.getD k (0 : Byte), false)
      let w := b.2.tileWrite r ref (bitsOf n 351 320) out (len + 3) 0
      match w.1 with
      | .held f buf => (some (f, buf), w.2.2)
      | .failed f buf => (some (f, buf), w.2.2)
      | _ => (none, w.2.2)

/-- MVE_REQUEST_COMPLETE (R351, R352): the final records and the hints are written, unless the reference has changed. -/
def execMveRequestComplete (request : Nat) (s : State) : Out := .next <|
  let q := s.mve request
  let r := s.mveReq request
  if !(q.state == 1 || q.state == 2) then s
  else
    let m := (mveRefSame r q).run s
    match m.1 with
    | .error f => m.2.mveFails request f (mvCur q.desc)
    | .ok false => m.2.mveFails request { kind := 2, va := 0, detail := 0x0403 } (mvCur q.desc)
    | .ok true =>
      let h := if mvHint q.desc then (mveHints r q).run m.2 else (.ok (), m.2)
      match h.1, q.issuer, q.node with
      | .error f, _, _ => h.2.mveFails request f (mvCur q.desc)
      | .ok _, some o, _ =>
        ((h.2.mveLines o (mvOutf q.desc) (mvBytes q.desc) q.final false).modMve request fun q =>
          { q with state := 3 }).completeOp o
      | .ok _, none, some k =>
        let w := h.2.visionOut r (s.nodeRun k).index q.final
        (match w.1 with
          | none => (w.2.modMve request fun q => { q with state := 3 }).runDone k
          | some f => w.2.mveFails request f.1 f.2)
      | .ok _, none, none => h.2

end Sys2Proof.Machine
end

