-- ==== Sys2Proof/Machine/Dispatch.lean ====
section
/-! DEFINITION. Which meaning an instruction has: one arm for each constructor of `Instr`. -/

namespace Sys2Proof.Machine

def exec (i : Instr) (s : State) : Host.Outcome State Fault Refusal :=
  match i with
  | .nop w => Sys2Proof.Machine.execNop w s
  | .mov w => Sys2Proof.Machine.execMov w s
  | .movi w => Sys2Proof.Machine.execMovi w s
  | .iadd w => Sys2Proof.Machine.execIadd w s
  | .iaddi w => Sys2Proof.Machine.execIaddi w s
  | .isub w => Sys2Proof.Machine.execIsub w s
  | .iadd3 w => Sys2Proof.Machine.execIadd3 w s
  | .iaddc w => Sys2Proof.Machine.execIaddc w s
  | .isubb w => Sys2Proof.Machine.execIsubb w s
  | .imul w => Sys2Proof.Machine.execImul w s
  | .imulh w => Sys2Proof.Machine.execImulh w s
  | .imad w => Sys2Proof.Machine.execImad w s
  | .isad w => Sys2Proof.Machine.execIsad w s
  | .imin w => Sys2Proof.Machine.execImin w s
  | .imax w => Sys2Proof.Machine.execImax w s
  | .iabs w => Sys2Proof.Machine.execIabs w s
  | .and w => Sys2Proof.Machine.execAnd w s
  | .or w => Sys2Proof.Machine.execOr w s
  | .xor w => Sys2Proof.Machine.execXor w s
  | .andn w => Sys2Proof.Machine.execAndn w s
  | .lop3 w => Sys2Proof.Machine.execLop3 w s
  | .andi w => Sys2Proof.Machine.execAndi w s
  | .ori w => Sys2Proof.Machine.execOri w s
  | .xori w => Sys2Proof.Machine.execXori w s
  | .shl w => Sys2Proof.Machine.execShl w s
  | .shr w => Sys2Proof.Machine.execShr w s
  | .shf w => Sys2Proof.Machine.execShf w s
  | .bfx w => Sys2Proof.Machine.execBfx w s
  | .bfi w => Sys2Proof.Machine.execBfi w s
  | .popc w => Sys2Proof.Machine.execPopc w s
  | .clz w => Sys2Proof.Machine.execClz w s
  | .brev w => Sys2Proof.Machine.execBrev w s
  | .icmp w => Sys2Proof.Machine.execIcmp w s
  | .icmpi w => Sys2Proof.Machine.execIcmpi w s
  | .sel w => Sys2Proof.Machine.execSel w s
  | .plop w => Sys2Proof.Machine.execPlop w s
  | .pmovPack w => Sys2Proof.Machine.execPmovPack w s
  | .pmovUnpack w => Sys2Proof.Machine.execPmovUnpack w s
  | .shfl w => Sys2Proof.Machine.execShfl w s
  | .vote w => Sys2Proof.Machine.execVote w s
  | .ballot w => Sys2Proof.Machine.execBallot w s
  | .redux w => Sys2Proof.Machine.execRedux w s
  | .rdspec w => Sys2Proof.Machine.execRdspec w s
  | .rdspecClr w => Sys2Proof.Machine.execRdspecClr w s
  | .umov w => Sys2Proof.Machine.execUmov w s
  | .uiadd w => Sys2Proof.Machine.execUiadd w s
  | .bra w => Sys2Proof.Machine.execBra w s
  | .brx w => Sys2Proof.Machine.execBrx w s
  | .call w => Sys2Proof.Machine.execCall w s
  | .callR w => Sys2Proof.Machine.execCallR w s
  | .ret w => Sys2Proof.Machine.execRet w s
  | .reform w => Sys2Proof.Machine.execReform w s
  | .reformQuad w => Sys2Proof.Machine.execReformQuad w s
  | .exit w => Sys2Proof.Machine.execExit w s
  | .spawn w => Sys2Proof.Machine.execSpawn w s
  | .yield w => Sys2Proof.Machine.execYield w s
  | .join w => Sys2Proof.Machine.execJoin w s
  | .leave w => Sys2Proof.Machine.execLeave w s
  | .bar w => Sys2Proof.Machine.execBar w s
  | .barArr w => Sys2Proof.Machine.execBarArr w s
  | .barWait w => Sys2Proof.Machine.execBarWait w s
  | .sleep w => Sys2Proof.Machine.execSleep w s
  | .refill w => Sys2Proof.Machine.execRefill w s
  | .trap w => Sys2Proof.Machine.execTrap w s
  | .brkpt w => Sys2Proof.Machine.execBrkpt w s
  | .rgne w => Sys2Proof.Machine.execRgne w s
  | .rngpush w => Sys2Proof.Machine.execRngpush w s
  | .rngpop w => Sys2Proof.Machine.execRngpop w s
  | .fadd w => Sys2Proof.Machine.execFadd w s
  | .fsub w => Sys2Proof.Machine.execFsub w s
  | .fmul w => Sys2Proof.Machine.execFmul w s
  | .ffma w => Sys2Proof.Machine.execFfma w s
  | .faddi w => Sys2Proof.Machine.execFaddi w s
  | .fmuli w => Sys2Proof.Machine.execFmuli w s
  | .fmin w => Sys2Proof.Machine.execFmin w s
  | .fmax w => Sys2Proof.Machine.execFmax w s
  | .fcmp w => Sys2Proof.Machine.execFcmp w s
  | .fclass w => Sys2Proof.Machine.execFclass w s
  | .frnd w => Sys2Proof.Machine.execFrnd w s
  | .fexp2f w => Sys2Proof.Machine.execFexp2f w s
  | .fldexp w => Sys2Proof.Machine.execFldexp w s
  | .frcp w => Sys2Proof.Machine.execFrcp w s
  | .frsq w => Sys2Proof.Machine.execFrsq w s
  | .fsqrt w => Sys2Proof.Machine.execFsqrt w s
  | .flog2 w => Sys2Proof.Machine.execFlog2 w s
  | .fsin w => Sys2Proof.Machine.execFsin w s
  | .fcos w => Sys2Proof.Machine.execFcos w s
  | .ftanh w => Sys2Proof.Machine.execFtanh w s
  | .hadd2 w => Sys2Proof.Machine.execHadd2 w s
  | .hmul2 w => Sys2Proof.Machine.execHmul2 w s
  | .hfma2 w => Sys2Proof.Machine.execHfma2 w s
  | .hmnx2 w => Sys2Proof.Machine.execHmnx2 w s
  | .fdot2 w => Sys2Proof.Machine.execFdot2 w s
  | .idp4 w => Sys2Proof.Machine.execIdp4 w s
  | .cmul w => Sys2Proof.Machine.execCmul w s
  | .cmad w => Sys2Proof.Machine.execCmad w s
  | .cmag2 w => Sys2Proof.Machine.execCmag2 w s
  | .f2i w => Sys2Proof.Machine.execF2i w s
  | .i2f w => Sys2Proof.Machine.execI2f w s
  | .f2fNarrow w => Sys2Proof.Machine.execF2fNarrow w s
  | .f2fWiden w => Sys2Proof.Machine.execF2fWiden w s
  | .qnt w => Sys2Proof.Machine.execQnt w s
  | .dqnt w => Sys2Proof.Machine.execDqnt w s
  | .derivx w => Sys2Proof.Machine.execDerivx w s
  | .derivy w => Sys2Proof.Machine.execDerivy w s
  | .qswap w => Sys2Proof.Machine.execQswap w s
  | .raybox w => Sys2Proof.Machine.execRaybox w s
  | .raytri w => Sys2Proof.Machine.execRaytri w s
  | .loopn w => Sys2Proof.Machine.execLoopn w s
  | .fill w => Sys2Proof.Machine.execFill w s
  | .ldg w => Sys2Proof.Machine.execLdg w s
  | .stg w => Sys2Proof.Machine.execStg w s
  | .atomg w => Sys2Proof.Machine.execAtomg w s
  | .casg w => Sys2Proof.Machine.execCasg w s
  | .lds w => Sys2Proof.Machine.execLds w s
  | .sts w => Sys2Proof.Machine.execSts w s
  | .atoms w => Sys2Proof.Machine.execAtoms w s
  | .cass w => Sys2Proof.Machine.execCass w s
  | .ldsm w => Sys2Proof.Machine.execLdsm w s
  | .ldsmt w => Sys2Proof.Machine.execLdsmt w s
  | .stx w => Sys2Proof.Machine.execStx w s
  | .ldt w => Sys2Proof.Machine.execLdt w s
  | .stt w => Sys2Proof.Machine.execStt w s
  | .atomt w => Sys2Proof.Machine.execAtomt w s
  | .ldk w => Sys2Proof.Machine.execLdk w s
  | .prfg w => Sys2Proof.Machine.execPrfg w s
  | .fence w => Sys2Proof.Machine.execFence w s
  | .fencex w => Sys2Proof.Machine.execFencex w s
  | .cpy w => Sys2Proof.Machine.execCpy w s
  | .cpym w => Sys2Proof.Machine.execCpym w s
  | .cpyb w => Sys2Proof.Machine.execCpyb w s
  | .slotret w => Sys2Proof.Machine.execSlotret w s
  | .feset w => Sys2Proof.Machine.execFeset w s
  | .feqry w => Sys2Proof.Machine.execFeqry w s
  | .bufq w => Sys2Proof.Machine.execBufq w s
  | .pgreq w => Sys2Proof.Machine.execPgreq w s
  | .woarm w => Sys2Proof.Machine.execWoarm w s
  | .opclm w => Sys2Proof.Machine.execOpclm w s
  | .oprel w => Sys2Proof.Machine.execOprel w s
  | .opld w => Sys2Proof.Machine.execOpld w s
  | .opldg w => Sys2Proof.Machine.execOpldg w s
  | .wlatch w => Sys2Proof.Machine.execWlatch w s
  | .mstream w => Sys2Proof.Machine.execMstream w s
  | .mlut w => Sys2Proof.Machine.execMlut w s
  | .mdrain w => Sys2Proof.Machine.execMdrain w s
  | .mzero w => Sys2Proof.Machine.execMzero w s
  | .taskputResv w => Sys2Proof.Machine.execTaskputResv w s
  | .taskputCommit w => Sys2Proof.Machine.execTaskputCommit w s
  | .taskputFree w => Sys2Proof.Machine.execTaskputFree w s
  | .taskarm w => Sys2Proof.Machine.execTaskarm w s
  | .taskarmDec w => Sys2Proof.Machine.execTaskarmDec w s
  | .taskqry w => Sys2Proof.Machine.execTaskqry w s
  | .acbind w => Sys2Proof.Machine.execAcbind w s
  | .acunbind w => Sys2Proof.Machine.execAcunbind w s
  | .acparam w => Sys2Proof.Machine.execAcparam w s
  | .acqry w => Sys2Proof.Machine.execAcqry w s
  | .sld w => Sys2Proof.Machine.execSld w s
  | .sst w => Sys2Proof.Machine.execSst w s
  | .sstc w => Sys2Proof.Machine.execSstc w s
  | .sstmv w => Sys2Proof.Machine.execSstmv w s
  | .sstmvHint w => Sys2Proof.Machine.execSstmvHint w s
  | .ssealOpen w => Sys2Proof.Machine.execSsealOpen w s
  | .ssealSeal w => Sys2Proof.Machine.execSsealSeal w s
  | .sqry w => Sys2Proof.Machine.execSqry w s
  | .smat w => Sys2Proof.Machine.execSmat w s
  | .primemitTri w => Sys2Proof.Machine.execPrimemitTri w s
  | .primemitOpen w => Sys2Proof.Machine.execPrimemitOpen w s
  | .primemitClose w => Sys2Proof.Machine.execPrimemitClose w s
  | .visq w => Sys2Proof.Machine.execVisq w s
  | .mvereq w => Sys2Proof.Machine.execMvereq w s
  | .mveqry w => Sys2Proof.Machine.execMveqry w s
  | .rdsys w => Sys2Proof.Machine.execRdsys w s
  | .wrsys w => Sys2Proof.Machine.execWrsys w s
  | .waitev w => Sys2Proof.Machine.execWaitev w s
  | .frpop w => Sys2Proof.Machine.execFrpop w s
  | .resumeRec w => Sys2Proof.Machine.execResumeRec w s
  | .resumeScn w => Sys2Proof.Machine.execResumeScn w s
  | .swapout w => Sys2Proof.Machine.execSwapout w s
  | .swapin w => Sys2Proof.Machine.execSwapin w s
  | .scenekill w => Sys2Proof.Machine.execScenekill w s
  | .haltb w => Sys2Proof.Machine.execHaltb w s
  | .dump w => Sys2Proof.Machine.execDump w s
  | .reti w => Sys2Proof.Machine.execReti w s
  | .tlbinvRange w => Sys2Proof.Machine.execTlbinvRange w s
  | .tlbinvCtx w => Sys2Proof.Machine.execTlbinvCtx w s
  | .retype w => Sys2Proof.Machine.execRetype w s
  | .hashver w => Sys2Proof.Machine.execHashver w s
  | .ptwr w => Sys2Proof.Machine.execPtwr w s
  | .drain w => Sys2Proof.Machine.execDrain w s
  | .drainAbandon w => Sys2Proof.Machine.execDrainAbandon w s
  | .clauseStart core bay pipe => Sys2Proof.Machine.execClauseStart core bay pipe s
  | .holdAllowanceSpent take => Sys2Proof.Machine.execHoldAllowanceSpent take s
  | .schedulingRoundEnd => Sys2Proof.Machine.execSchedulingRoundEnd s
  | .idleBayReelDraw core bay => Sys2Proof.Machine.execIdleBayReelDraw core bay s
  | .sleepExpiry take => Sys2Proof.Machine.execSleepExpiry take s
  | .sceneAdmission scene => Sys2Proof.Machine.execSceneAdmission scene s
  | .taskNodeLaunch ctx index => Sys2Proof.Machine.execTaskNodeLaunch ctx index s
  | .tileTaskDispatch ctx index => Sys2Proof.Machine.execTileTaskDispatch ctx index s
  | .taskNodeComplete ctx index => Sys2Proof.Machine.execTaskNodeComplete ctx index s
  | .slotEmpty thread => Sys2Proof.Machine.execSlotEmpty thread s
  | .variableCompletion op => Sys2Proof.Machine.execVariableCompletion op s
  | .engineLineFill op => Sys2Proof.Machine.execEngineLineFill op s
  | .registerLineFill thread line => Sys2Proof.Machine.execRegisterLineFill thread line s
  | .codeRowLoad core scene row => Sys2Proof.Machine.execCodeRowLoad core scene row s
  | .asyncRecordHalt thread => Sys2Proof.Machine.execAsyncRecordHalt thread s
  | .copyFaultResume op => Sys2Proof.Machine.execCopyFaultResume op s
  | .woWaitTimeout thread => Sys2Proof.Machine.execWoWaitTimeout thread s
  | .engineWoWaitTimeout op => Sys2Proof.Machine.execEngineWoWaitTimeout op s
  | .swapSaveComplete scene => Sys2Proof.Machine.execSwapSaveComplete scene s
  | .sceneReadmission scene core => Sys2Proof.Machine.execSceneReadmission scene core s
  | .sceneRestoreComplete scene => Sys2Proof.Machine.execSceneRestoreComplete scene s
  | .quantumExpiry part => Sys2Proof.Machine.execQuantumExpiry part s
  | .partitionRestore part => Sys2Proof.Machine.execPartitionRestore part s
  | .handlerDispatch die bit => Sys2Proof.Machine.execHandlerDispatch die bit s
  | .waitevWake op => Sys2Proof.Machine.execWaitevWake op s
  | .timerExpiry die => Sys2Proof.Machine.execTimerExpiry die s
  | .evpendWrite die value => Sys2Proof.Machine.execEvpendWrite die value s
  | .timerWrite die value => Sys2Proof.Machine.execTimerWrite die value s
  | .eventryWrite die value => Sys2Proof.Machine.execEventryWrite die value s
  | .groupmodeWrite group value => Sys2Proof.Machine.execGroupmodeWrite group value s
  | .fqbaseWrite ctx value => Sys2Proof.Machine.execFqbaseWrite ctx value s
  | .supqbaseWrite die value => Sys2Proof.Machine.execSupqbaseWrite die value s
  | .dailycfgWrite die value => Sys2Proof.Machine.execDailycfgWrite die value s
  | .silcfgWrite die value => Sys2Proof.Machine.execSilcfgWrite die value s
  | .l2LineFill line error => Sys2Proof.Machine.execL2LineFill line error s
  | .l2LineWriteback line error => Sys2Proof.Machine.execL2LineWriteback line error s
  | .streamContextRelease accord handle write => Sys2Proof.Machine.execStreamContextRelease accord handle write s
  | .rowActivation frame line => Sys2Proof.Machine.execRowActivation frame line s
  | .conflictWindowEnd stack => Sys2Proof.Machine.execConflictWindowEnd stack s
  | .refreshManagement bank => Sys2Proof.Machine.execRefreshManagement bank s
  | .scrubLine frame => Sys2Proof.Machine.execScrubLine frame s
  | .migrationStep group => Sys2Proof.Machine.execMigrationStep group s
  | .sramSoftError store owner word => Sys2Proof.Machine.execSramSoftError store owner word s
  | .sealCoding job => Sys2Proof.Machine.execSealCoding job s
  | .binFinal pass bin => Sys2Proof.Machine.execBinFinal pass bin s
  | .passDone pass => Sys2Proof.Machine.execPassDone pass s
  | .mveRequestStart request => Sys2Proof.Machine.execMveRequestStart request s
  | .mveRequestComplete request => Sys2Proof.Machine.execMveRequestComplete request s
  | .hostConfigAccess function => Sys2Proof.Machine.execHostConfigAccess function s
  | .hostHdmAccess offset write bytes data => Sys2Proof.Machine.execHostHdmAccess offset write bytes data s
  | .hostAtomicWindowAccess ctx offset op compare value => Sys2Proof.Machine.execHostAtomicWindowAccess ctx offset op compare value s
  | .hostSnoop line data => Sys2Proof.Machine.execHostSnoop line data s
  | .remoteRequest pkg ctx pa request => Sys2Proof.Machine.execRemoteRequest pkg ctx pa request s
  | .flitRetry port => Sys2Proof.Machine.execFlitRetry port s
  | .linkPortDown port => Sys2Proof.Machine.execLinkPortDown port s
  | .planeRestored plane => Sys2Proof.Machine.execPlaneRestored plane s
  | .regctx payload => Sys2Proof.Machine.execRegctx payload s
  | .deregctx payload => Sys2Proof.Machine.execDeregctx payload s
  | .setpart payload => Sys2Proof.Machine.execSetpart payload s
  | .exportEntry payload => Sys2Proof.Machine.execExportEntry payload s
  | .attest payload => Sys2Proof.Machine.execAttest payload s
  | .loadkey payload => Sys2Proof.Machine.execLoadkey payload s
  | .setlcs payload => Sys2Proof.Machine.execSetlcs payload s
  | .loadfw payload => Sys2Proof.Machine.execLoadfw payload s
  | .bringUp => Sys2Proof.Machine.execBringUp s
  | .thermalTrip => Sys2Proof.Machine.execThermalTrip s
  | .powerLimitReached reached => Sys2Proof.Machine.execPowerLimitReached reached s
  | .standbyWake => Sys2Proof.Machine.execStandbyWake s
  | .powerOff => Sys2Proof.Machine.execPowerOff s

end Sys2Proof.Machine
end

