-- ==== Sys2Proof/Machine/Turns.lean ====
section
/-! DEFINITION. The turns of the machine's agents: what each does, and the default order in which they move when the
agenda names none. The spec leaves the interleaving open (R15, R33); the default is one order among those it allows. -/

namespace Sys2Proof.Machine

/-- An event of the part, which no word encodes. -/
def isEvent (i : Instr) : Bool := i.opcode == 0x100

/-- What holds before a turn without anybody's doing: results that are due have arrived (R143), takes whose clause is ready
are noted for the round (R31, R36), records that have become ready have their unit (R452), and a mailbox command that waited goes
on (R428). -/
def State.between (s : State) : State := (s.settle s.clock).noteReady.noteNodes.noteMailbox

/-- The clocks run: STANDBY gates them everywhere, and OFF has none (R436). -/
def State.clocked (s : State) : Bool := s.power == .run || s.power == .boot

/-- An event that needs no clock of the package: the host's requests and mailbox commands, which leave STANDBY, and the
changes of power (R435, R436). -/
def needsNoClock (i : Instr) : Bool :=
  match i with
  | .hostConfigAccess .. | .hostHdmAccess .. | .hostAtomicWindowAccess .. | .regctx _ | .deregctx _ | .setpart _
  | .exportEntry _ | .attest _ | .loadkey _ | .setlcs _ | .loadfw _ | .bringUp | .standbyWake | .powerOff => true
  | _ => false

/-- One turn: a take's next word, an event, or cycles of the clock. Where the clocks are gated nothing goes on that needs
one (R436). -/
def State.turn (s : State) : Turn → Out
  | .word tk =>
    match if s.clocked then s.nextWord tk else none with
    | some (i, s) => exec i s
    | none => .next s
  | .ev i => if isEvent i && (s.clocked || needsNoClock i) then exec i s else .next s
  | .tick n => .next { s with clock := if s.clocked then s.clock + n else s.clock }

/-! ## Events that could happen now -/

/-- Takes that occupy a pipe: the word of the one that issued longest ago, or what its hold comes to. -/
def State.issuingTurn (s : State) : Option Turn :=
  let ks := indices s.takes fun t => match t.st with
    | .issuing _ => !t.betweenSteps || s.canIssue t.scene
    | _ => false
  (ks.foldl (fun (best : Option Nat) k => match best with
    | none => some k
    | some b => if (s.take k).last < (s.take b).last then some k else some b) none).map fun k =>
      if 64 ≤ (s.take k).holds && s.wordWaits k then .ev (.holdAllowanceSpent k)
      else match (s.absentLines k).head? with
        | some l => .ev (.registerLineFill l.1 l.2)
        | none => .word k

/-- A clause start for each ready take on a free pipe of its bay. -/
def State.clauseTurns (s : State) : List Instr :=
  (List.range s.takes.length).flatMap fun k =>
    let t := s.take k
    if !s.takeReady k then []
    else ([false, true].filter fun p => !s.pipeBusy t.core t.bay p).map fun p => .clauseStart t.core t.bay p

/-- The code rows that takes wait for. -/
def State.rowTurns (s : State) : List Instr :=
  (List.range s.takes.length).flatMap fun k =>
    let t := s.take k
    if t.st == .ended || !s.canIssue t.scene then []
    else (s.missingRows t.core (s.scene t.scene) ((s.scene t.scene).codeOff t.pc)).map fun r => .codeRowLoad t.core t.scene r

/-- The register lines that the words of suspended takes wait for (R54). -/
def State.lineTurns (s : State) : List Instr :=
  (List.range s.takes.length).flatMap fun k =>
    let t := s.take k
    if t.st == .suspended && s.canIssue t.scene then (s.absentLines k).map fun l => .registerLineFill l.1 l.2 else []

/-- What may happen to threads and takes. -/
def State.threadTurns (s : State) : List Instr :=
  (indices s.threads fun t => t.exited && !t.gone && t.cue.toList.all (· == 0)).map .slotEmpty ++
  (indices s.threads fun t => t.haltNext).map .asyncRecordHalt ++
  (indices s.takes fun t => t.sleep != 0).map .sleepExpiry ++
  (indices s.threads fun t => t.wo.isSome).map .woWaitTimeout

/-- What may happen to scenes. -/
def State.sceneTurns (s : State) : List Instr :=
  (List.range s.scenes.length).flatMap fun k => match (s.scene k).st with
    | .queued => [.sceneAdmission k]
    | .saving => [.swapSaveComplete k]
    | .restoring => [.sceneRestoreComplete k]
    | .ended => ((s.scene k).node.toList).map fun n => .taskNodeComplete (s.scene k).ctx n
    | .ready => ((s.bestCore (s.readmissible k)).toList).map fun core => .sceneReadmission k core
    | _ => []

/-- What may happen to operations under way. -/
def State.opTurns (s : State) : List Instr :=
  (indices s.ops fun o => !o.done).flatMap fun k =>
    [.waitevWake k, .copyFaultResume k, .engineWoWaitTimeout k, .engineLineFill k, .variableCompletion k]

/-- The lowest bin of a closed pass that is not final (R346). -/
def State.nextBin (s : State) (k : Nat) : List Nat :=
  let p := s.pass k
  match ((openPass (unitReq p.ctx p.die) p.buf).run s).1 with
  | .ok h => ((List.range ((h.w + 63) / 64 * ((h.h + 63) / 64))).find? fun b => !p.final.contains b).toList
  | .error _ => []

/-- What may happen in the units. -/
def State.unitTurns (s : State) : List Instr :=
  (s.armed.map fun a => .taskNodeLaunch a.ctx a.index) ++
  ((s.nodes.filter fun n => n.live).flatMap fun n => [.tileTaskDispatch n.ctx n.index, .taskNodeComplete n.ctx n.index]) ++
  (indices s.seals fun j => !j.done).map .sealCoding ++
  (indices s.mveReqs fun r => r.state < 3).flatMap (fun k => [.mveRequestStart k, .mveRequestComplete k]) ++
  (indices s.passes fun p => p.state == 2).flatMap (fun k => (s.nextBin k).map (.binFinal k) ++ [.passDone k]) ++
  (s.scrubs.map fun x => .scrubLine x.frame) ++
  s.bindings.flatMap fun b =>
    (b.rd.toList.flatMap fun f => f.streams.map fun a => .streamContextRelease a b.handle false) ++
    b.wr.toList.flatMap fun f => f.streams.map fun a => .streamContextRelease a b.handle true

/-- What may happen on the dies and in the partitions. -/
def State.dieTurns (s : State) : List Instr :=
  ((List.range 4).flatMap fun d => .timerExpiry d :: (List.range 7).map (.handlerDispatch d)) ++
  (if s.sliced || s.parts.toList.any (·.closing) then (List.range 48).map .quantumExpiry else []) ++
  (if s.scenes.any fun c => c.st == .suspended then (List.range 48).map .partitionRestore else []) ++
  ((s.reels.filter fun r => r.live).flatMap fun r => (List.range 4).map (.idleBayReelDraw r.core))

/-- An event would change the state, the counter of free values apart. -/
def State.moves (s : State) (i : Instr) : Bool :=
  match exec i s with
  | .next t => decide ({ t with freeIx := s.freeIx } ≠ s)
  | _ => false

/-- The turn that comes next when the agenda is empty: bring-up, the end of a due round, the word of a take that issues,
the first event that changes something, and else one cycle of the clock. -/
def State.defaultTurn (s : State) : Turn :=
  if !s.mbReady && s.power == .boot then .ev .bringUp
  else if !s.clocked then .tick 1
  else if s.power == .run && 64 * (s.rounds + 1) ≤ s.clock then .ev .schedulingRoundEnd
  else match s.issuingTurn with
    | some t => t
    | none =>
      let due := s.dieTurns ++ s.threadTurns ++ s.clauseTurns ++ s.rowTurns ++ s.lineTurns ++ s.opTurns ++ s.unitTurns ++ s.sceneTurns
      match due.find? s.moves with
      | some i => .ev i
      | none => .tick 1

/-- The turn that a step takes, and the state with the rest of the agenda. -/
def State.nextTurn (s : State) : Turn × State :=
  match s.agenda with
  | t :: rest => (t, { s with agenda := rest })
  | [] => (s.defaultTurn, s)

/-! ## Placing a word -/

/-- The code row that the placed word stands in: a slate of its class and count, and the word. -/
def placedRow (core ctx : Nat) (n : Nat) (i : Instr) : CodeRow :=
  let slate := opClass i.opcode * 2 ^ 60 + (i.words - 1) * 2 ^ 56
  { core := core, row := 0, ctx := ctx, kernel := 0, code := 0, state := 2, bytes := leBytes 8 slate ++ leBytes 32 n
    used := 0 }

/-- The thread that runs the placed word. -/
def placedThread (scene take : Nat) : Thread :=
  { (default : Thread) with
    scene := scene, tid := 0, slot := 0, pc := 0, v := List.replicate 256 0, place := .take take
    cached := [0, 1, 2, 3, 4, 5, 6, 7, 8] }

/-- Its scene, in the supervisor context for a privileged word. -/
def placedScene (core ctx thread seq : Nat) : Scene :=
  { (default : Scene) with
    ctx := ctx, sid := BitVec.ofNat 32 seq, codeSize := 4096, entries := [0], nthr := 1, cap := 1, regs := 256, alloc := 4096
    die := coreDie core, part := 0, core := core, groups := [0], st := .resident, nextTid := 1, threads := [thread] }

/-- Its take, which has issued the slate and stands before word 0 in pipe A of bay 0. -/
def placedTake (core scene thread words clock : Nat) : Take :=
  { (default : Take) with
    core := core, scene := scene, bay := 0, lanes := [(0, thread)], st := .issuing false, pc := 0, cnt := words, last := clock }

/-- Place an instruction where the next step fetches it: a take of a new scene stands before it, its code row is loaded
and its register lines are present, and the take has the next turn. -/
def State.place (s : State) (n : Nat) (i : Instr) : State :=
  let sup := decide (0xE0 ≤ i.opcode)
  let core := if sup then 48 else 0
  let ctx := if sup then supCtx else 0
  let th := s.threads.length
  let sc := s.scenes.length
  let tk := s.takes.length
  let s := if sup || (s.ctx 0).registered then s else s.setCtx 0 { Ctx.reset with registered := true }
  { s with
    power := .run, mbReady := true, fwOk := true, wiped := false
    threads := s.threads ++ [placedThread sc tk]
    scenes := s.scenes ++ [placedScene core ctx th sc]
    takes := s.takes ++ [placedTake core sc th i.words s.clock]
    codeRows := placedRow core ctx n i :: s.codeRows
    agenda := [.word tk] }

end Sys2Proof.Machine
end

