-- ==== Sys2Proof/Machine/Step.lean ====
section
/-! DEFINITION. One step of the machine: one turn of one of its agents; and the placing of an instruction for the next
step. -/

namespace Sys2Proof.Machine

/-- One step. -/
def step (s : State) : Host.Outcome State Fault Refusal := s.between.nextTurn.2.turn s.between.nextTurn.1

/-- The state in which the next step fetches and runs the instruction whose bits are `w`. A word that the decoder refuses
is placed as a `NOP`'s row would be, with its own bits. -/
def State.withFetchWord (s : State) (nbits w : Nat) : State :=
  s.place (w % 2 ^ nbits) ((decodeTableWord nbits w).getD (.nop (tWord 0)))

end Sys2Proof.Machine
end

