-- ==== Sys2Proof/Safety.lean ====
section
/-! DEFINITION. What counts as a safe run, and the words in which claims speak of one instruction: when a word issues,
where its take stands afterwards, which results are on their way, what it has started and what it leaves alone. -/

namespace Sys2Proof

/-- The machine goes on from a state. -/
def GoesOn (s : Machine.State) : Prop := ∃ t, Machine.step s = .next t

/-- The machine goes on for `n` steps. -/
def GoesOnFor : Nat → Machine.State → Prop
  | 0, _ => True
  | n + 1, s => ∃ t, Machine.step s = .next t ∧ GoesOnFor n t

namespace Machine

/-- A take's clause occupies a pipe. -/
def TakeState.issues : TakeState → Bool
  | .issuing _ => true
  | _ => false

/-- The word as its meaning sees it, in the state in which it issues. -/
def State.atIssue (s : State) (c : Cur) (i : Instr) : WordCtx := (s.issue c i).wordCtx c i

/-- The state in which the meaning of a word that issues begins: the register lines that it names (R54) and the code rows that
hold it (R396) count as used. -/
def State.begun (s : State) (c : Cur) (i : Instr) : State :=
  let x := s.atIssue c i
  ((s.issue c i).useLines i x.lanes).useRows x.scene x.core x.addr i.words

/-- The word of the take under way issues: the take occupies a pipe, the word is active in some lane, nothing holds it
(R32, R54, R56, R397), it names no main register beyond the scene's count (R53), and no register word that it
meets is in error in an active lane (R372). -/
def issues (i : Instr) (s : State) (c : Cur) : Bool :=
  decide (s.cur = some c) && ((s.begun c i).take c.take).st.issues && !(s.atIssue c i).lanes.isEmpty &&
    !wordHolds (s.issue c i) (((s.issue c i).take c.take).progress != 0) (s.atIssue c i).lanes i && !(s.atIssue c i).outside (s.issue c i) &&
    (s.atIssue c i).lanes.all fun l => !meetsError i l.1 ((s.begun c i).thread l.2).bad

/-- From the state `u` in which a word issued to `t`, its take has moved past it: to the next word, or, past the last
word of the clause, to the address after it with its pipe free (R143, R171). -/
def StandsPast (u t : State) (c : Cur) (i : Instr) : Prop :=
  (t.take c.take).lanes = (u.take c.take).lanes ∧
  if (u.take c.take).cnt ≤ (u.take c.take).pos + i.words then
    (t.take c.take).st = .waiting ∧ (t.take c.take).pos = 0 ∧ (t.take c.take).pc = c.addr + BitVec.ofNat 64 (8 * i.words)
  else (t.take c.take).st = (u.take c.take).st ∧ (t.take c.take).pos = (u.take c.take).pos + i.words

/-- A value is on its way to a register of a thread, readable from cycle `due` on (R143). -/
def Arrives (t : State) (th : Nat) (dst : Dest) (value : DWord) (due : Nat) : Prop :=
  ({ write := { thread := th, dest := dst, value := value }, due := due } : Pending) ∈ t.pend

/-- From `u` to `t` a word has started as an operation: it stands last among them, not complete, in the given lanes and
with its captured operands (R139, R144). -/
def Started (u t : State) (x : WordCtx) (lanes : List (Nat × Nat)) (args : List Nat) (ws : List RegWrite) : Prop :=
  ∃ o : Op, t.ops = u.ops ++ [o] ∧ o.instr = x.instr ∧ o.lanes = lanes ∧ o.scene = x.scene ∧ o.core = x.core ∧
    o.pc = x.addr ∧ o.issued = t.clock ∧ o.cue = x.instr.cueFlag ∧ o.args = args ∧ o.writes = ws ∧ o.done = false ∧
    o.progress = 0

/-- Two states agree in every part but the threads, the takes, the scenes and the results on their way: all of memory,
every supervisor and context register, operations, reels, casts and tables, the notes of the cycle's uniform writes apart. -/
def SameElse (u t : State) : Prop :=
  ({ t with threads := u.threads, takes := u.takes, scenes := u.scenes, pend := u.pend, uniB := u.uniB } : State) = u

/-- A thread is as before but for its FPSR and its cue flags. -/
def SameThread (u t : State) (th : Nat) : Prop :=
  ({ t.thread th with fpsr := (u.thread th).fpsr, cue := (u.thread th).cue } : Thread) = u.thread th

/-- Every write of memory, or of a scene's scratchpad, is ordered before the reader (R96), so that it reads the bytes that
stand there. -/
def Sees (s : State) (r : Reader) (space : Space) : Prop := ∀ y ∈ s.olds, y.space = space → y.ordered r = true

/-- The L2 has room for one more line of any kind, so that an access displaces nothing from it (R10). -/
def State.roomy (s : State) : Bool := 3 * (s.l2.length + 1) ≤ l2Lines

/-- From `u` to `t` no register has changed but the first `n` of D in some threads, or in their scenes for a uniform D. -/
def OnlyDest (u t : State) (d : Sel) (n : Nat) (ths : List Nat) : Prop :=
  (∀ th, (th ∉ ths ∨ selClass d ≠ .main → (t.thread th).v = (u.thread th).v) ∧
    (th ∉ ths ∨ selClass d ≠ .operand → (t.thread th).o = (u.thread th).o) ∧
    (th ∉ ths ∨ selClass d ≠ .pred → (t.thread th).p = (u.thread th).p) ∧
    ∀ k, (∀ j < n, destOf d j ≠ some (.v k)) → (t.thread th).reg k = (u.thread th).reg k) ∧
  (selClass d ≠ .uniform → t.scenes = u.scenes) ∧
  ∀ k, ({ t.scene k with uni := (u.scene k).uni } : Scene) = u.scene k

/-- The register that a destination names in a thread holds a value. -/
def DestHolds (t : State) (th : Nat) (v : Word) : Dest → Prop
  | .v k => k < (t.thread th).v.length → (t.thread th).reg k = v
  | .o k => k < 8 → (t.thread th).o.toList.getD k 0 = v
  | _ => True

/-- Every take but one is as before. -/
def SameTakes (u t : State) (tk : Nat) : Prop := ∀ k, k ≠ tk → t.take k = u.take k

/-- A per-lane word delivers to D: where it issues without NW, it answers a next state past it, and in every active lane
a value of which `f` holds, from the state at issue, the lane and its thread, is on its way to register k of D, with the
delay of the word's group (R143). -/
def Delivers (i : Instr) (d : Sel) (nw : Bool) (k : Nat) (f : State → Nat → Nat → Word → Prop) : Prop :=
  ∀ s c, issues i s c = true → nw = false → ∀ l ∈ (s.atIssue c i).lanes, ∀ v, f (s.begun c i) l.1 l.2 v →
    ∃ t, exec i s = .next t ∧ StandsPast (s.begun c i) t c i ∧
      ∀ dst, (selClass d = .main ∨ selClass d = .operand) → destOf d k = some dst →
        Arrives t l.2 dst (v.setWidth 64) ((s.begun c i).clock + (groupDelay (opGroup i.opcode)).2)

/-- A per-lane word delivers a truth value to the predicate D. -/
def DeliversPred (i : Instr) (d : Sel) (nw : Bool) (f : State → Nat → Nat → Bool) : Prop :=
  ∀ s c, issues i s c = true → nw = false → ∀ l ∈ (s.atIssue c i).lanes,
    ∃ t, exec i s = .next t ∧ StandsPast (s.begun c i) t c i ∧
      (selClass d = .pred → Arrives t l.2 (.p (selReg d)) (if f (s.begun c i) l.1 l.2 then 1 else 0)
        ((s.begun c i).clock + (groupDelay (opGroup i.opcode)).2))

/-- A word answers a next state past it with a write in every active lane: `f` gives the register and the value. -/
def Writes (i : Instr) (f : State → Nat → Nat → List (Dest × DWord)) : Prop :=
  ∀ s c, issues i s c = true → ∀ l ∈ (s.atIssue c i).lanes,
    ∃ t, exec i s = .next t ∧ StandsPast (s.begun c i) t c i ∧ ∀ e ∈ f (s.begun c i) l.1 l.2,
      Arrives t l.2 e.1 e.2 ((s.begun c i).clock + (groupDelay (opGroup i.opcode)).2)

/-- A word that acts once for its take acts: it issues, its take is inside no stepped word, `rep` is its reporting lane,
and every operand it names is the same in all its active lanes (R229, R271, R397). -/
def acts (i : Instr) (s : State) (c : Cur) (ops : List (Sel × Nat)) (rep : Nat × Nat) : Bool :=
  issues i s c && ((s.begun c i).take c.take).progress == 0 &&
    decide ((s.atIssue c i).reporter (s.begun c i) = some rep) &&
    ops.all fun o => uniformIn (s.atIssue c i) (s.begun c i) o.1 o.2

/-- From the state `u` in which a stepped word issued to `t`, its take stays at it, inside its steps (R34). -/
def StandsIn (u t : State) (c : Cur) : Prop :=
  (t.take c.take).lanes = (u.take c.take).lanes ∧ (t.take c.take).st = (u.take c.take).st ∧
    (t.take c.take).pos = (u.take c.take).pos ∧ (t.take c.take).progress = u.ops.length + 1

/-- Nothing but takes, operations and cue flags differs. -/
def StartsOnly (v t : State) (tk : Nat) : Prop :=
  ({ t with ops := v.ops, takes := v.takes, threads := v.threads } : State) = v ∧ SameTakes v t tk ∧
    ∀ th, SameThread v t th ∧ (t.thread th).fpsr = (v.thread th).fpsr

/-- A word of the Variable group starts as an operation in all its active lanes and has no other effect: it answers a next
state past it. `v` is the state at issue with the caches that its checks have filled. -/
def Starts (i : Instr) (s : State) (c : Cur) (v : State) (args : List Nat) (ws : List RegWrite) : Prop :=
  ∃ t, exec i s = .next t ∧ StandsPast v t c i ∧ Started v t (s.atIssue c i) (s.atIssue c i).lanes args ws ∧
    StartsOnly v t c.take

/-- The first step of a stepped word starts its operation: the take goes on past it where that step was its last, and
otherwise stays at it. -/
def Begins (i : Instr) (s : State) (c : Cur) (v : State) (args : List Nat) (last : Bool) : Prop :=
  ∃ t, exec i s = .next t ∧ Started v t (s.atIssue c i) (s.atIssue c i).lanes args [] ∧ StartsOnly v t c.take ∧
    if last then StandsPast v t c i else StandsIn v t c

/-- Integer words of format T whose result is computed lane by lane into a register (R149 to R170). -/
def intWords (w : TWord) : List Instr :=
  [.mov w, .sel w, .uiadd w, .iadd w, .isub w, .iadd3 w, .imul w, .imulh w, .imad w, .isad w, .imin w, .imax w, .iabs w,
   .iaddc w, .isubb w, .and w, .or w, .xor w, .andn w, .lop3 w, .shl w, .shr w, .shf w, .bfx w, .bfi w, .popc w, .clz w,
   .brev w, .icmp w, .pmovPack w, .shfl w, .vote w, .ballot w]

/-- Floating-point, packed, complex, conversion, quad and ray words of format T of the Short and Long groups (R185 to
R206), with `REDUX` and `RDSPEC`. -/
def floatWords (w : TWord) : List Instr :=
  [.fadd w, .fsub w, .fmul w, .ffma w, .fmin w, .fmax w, .fcmp w, .fclass w, .frnd w, .fldexp w, .hadd2 w, .hmul2 w,
   .hfma2 w, .hmnx2 w, .fdot2 w, .idp4 w, .cmul w, .cmad w, .cmag2 w, .f2i w, .i2f w, .f2fNarrow w, .f2fWiden w, .qnt w,
   .dqnt w, .derivx w, .derivy w, .qswap w, .raybox w, .raytri w, .redux w, .rdspec w]

/-- The words of format I that write a register. -/
def immWords (w : IWord) : List Instr := [.movi w, .iaddi w, .andi w, .ori w, .xori w, .faddi w, .fmuli w]

end Machine

end Sys2Proof
end

