-- ==== Sys2Proof/Certificates/Slice0/Obligations.lean ====
section
/-! DEFINITION. The statements for the provers. A claim of `Sys2Proof.Claim` is a part of one of them. -/

open Sys2Proof Sys2Proof.Machine

/-- The per-lane words of the Short and Long groups complete: the take stands past each of them, and past `NOP`; of all but
`PMOV.unpack`, `UMOV` and `NOP` a result is on its way, in every active lane, to the word's latch and, without NW, to the first
register of D (R57, R143, R149, R151). `PMOV.unpack` has no value for the latch (log entry 24), and `UMOV` of an inactive source
lane has no result (R153). -/
def Sys2Proof.Claim.LaneWordsComplete : Prop :=
  ∀ (w : TWord) (v : IWord) (i : Instr) (d : Sel) (nw : Bool) (s : State) (c : Cur),
    issues i s c = true →
    (((i ∈ intWords w ∨ i ∈ floatWords w ∨ i = .plop w ∨ i = .rdspecClr w) ∧ d = w.d ∧ nw = w.nw) ∨
        (i ∈ immWords v ∧ d = v.d ∧ nw = v.nw) ∨ i = .icmpi v ∧ d = 0x150 ∧ nw = true →
      ∃ t, exec i s = .next t ∧ StandsPast (s.begun c i) t c i ∧ ∀ l ∈ (s.atIssue c i).lanes,
        (∃ x, Arrives t l.2 (.b (c.pos % 4)) x ((s.begun c i).clock + (groupDelay (opGroup i.opcode)).1)) ∧
        (nw = false → (selClass d = .main ∨ selClass d = .operand) → ∀ dst, destOf d 0 = some dst →
          ∃ x, Arrives t l.2 dst x ((s.begun c i).clock + (groupDelay (opGroup i.opcode)).2))) ∧
    (i ∈ [Instr.nop w, .pmovUnpack w, .umov w] → ∃ t, exec i s = .next t ∧ StandsPast (s.begun c i) t c i)

/-- The control words complete, but for barriers and `REFILL`, whose completion other statements give (R171, R172, R175, R176, R179,
R181 to R183): a transfer whose targets are aligned leaves every active lane in a take that stands at its target; after a regrouping,
an end, a start at an entry, a change of membership, a pause, a trap, a region or a range the take stands at the next clause. -/
def Sys2Proof.Claim.ControlWordsComplete : Prop :=
  ∀ (w : JWord) (i : Instr) (s : State) (c : Cur), issues i s c = true →
    let u := s.begun c i
    let x := s.atIssue c i
    let jump := c.addr + 8 * w.tgt.signExtend 64
    (∀ tgt : Nat → DWord,
      (i = .bra w ∨ i = .call w) ∧ (∀ th, tgt th = jump) ∨
        i = .brx w ∧ (∀ th, tgt th = jump + 8 * (u.opnd th w.a).signExtend 64) ∨
        (i = .callR w ∨ i = .ret w) ∧ (∀ th, tgt th = u.opnd64 th w.a) →
      (∀ l ∈ x.lanes, (tgt l.2).toNat % 8 = 0) →
      ∃ t, exec i s = .next t ∧ ∀ l ∈ x.lanes, ∃ k, l ∈ (t.take k).lanes ∧ (t.take k).pc = tgt l.2) ∧
    (i ∈ [Instr.reform w, .reformQuad w, .exit w, .join w, .leave w, .yield w, .sleep w, .trap w, .brkpt w, .rgne w, .rngpush w,
        .rngpop w] ∨
        i = .spawn w ∧ (u.scene x.scene).code ≤ jump.toNat ∧ jump.toNat - (u.scene x.scene).code ∈ (u.scene x.scene).entries →
      ∃ t, exec i s = .next t ∧ (t.take c.take).pc = c.addr + 8 ∧ (t.take c.take).pos = 0)

/-- The frame of the per-lane words: nothing changes but their take, results on their way, FPSR bits that are set and
cue flags that are raised in active lanes, and uniform registers where D names one (R58, R112, R139, R149). What comes on its way
is a result of an active lane for the word's latch, for a register of D without NW, for the predicates of an `IADDC`, an `ISUBB`, a
`PMOV.unpack` or an `ICMPI`, or for the word's cue flag. `RDSPEC.clr` clears FPSR in the active lanes (R170). -/
def Sys2Proof.Claim.PerLaneWordsFrame : Prop :=
  ∀ (w : TWord) (v : IWord) (i : Instr) (d : Sel) (nw : Bool) (s : State) (c : Cur) (t : State),
    ((i ∈ intWords w ∨ i ∈ floatWords w ∨ i ∈ [Instr.plop w, .pmovUnpack w, .umov w, .rdspecClr w]) ∧ d = w.d ∧ nw = w.nw) ∨
      ((i ∈ immWords v ∨ i = .icmpi v) ∧ d = v.d ∧ nw = v.nw) →
    issues i s c = true → exec i s = .next t →
    SameElse (s.begun c i) t ∧ SameTakes (s.begun c i) t c.take ∧
    (∀ q ∈ (s.begun c i).pend, q ∈ t.pend) ∧
    (∀ q ∈ t.pend, q ∈ (s.begun c i).pend ∨ (∃ l ∈ (s.atIssue c i).lanes, l.2 = q.write.thread) ∧
      (q.write.dest = .b (c.pos % 4) ∨ nw = false ∧ i ≠ .icmpi v ∧ (∃ k, destOf d k = some q.write.dest) ∨
        (∃ n, i.cueFlag = some n ∧ q.write.dest = .cue n) ∨
        (i = .iaddc w ∨ i = .isubb w) ∧ selClass w.c = .pred ∧ q.write.dest = .p (selReg w.c) ∨
        i = .pmovUnpack w ∧ (∃ j < 8, 0 < j ∧ q.write.dest = .p j) ∨
        i = .icmpi v ∧ nw = false ∧ q.write.dest = .p (v.d.toNat % 8))) ∧
    (∀ th, SameThread (s.begun c i) t th ∧ ((∃ m, (t.thread th).fpsr = ((s.begun c i).thread th).fpsr ||| m) ∨
      i = .rdspecClr w ∧ (t.thread th).fpsr = 0)) ∧
    (∀ th, (∀ l ∈ (s.atIssue c i).lanes, l.2 ≠ th) → t.thread th = (s.begun c i).thread th) ∧
    (∀ k, ({ t.scene k with uni := ((s.begun c i).scene k).uni } : Scene) = (s.begun c i).scene k) ∧
    (selClass d ≠ .uniform → t.scenes = (s.begun c i).scenes)

/-- The integer words set no flag of FPSR but SAT (R149). -/
def Sys2Proof.Claim.IntegerWordsSetOnlySat : Prop :=
  ∀ (w : TWord) (i : Instr) (s : State) (c : Cur) (t : State), i ∈ intWords w → issues i s c = true →
    exec i s = .next t → ∀ th, ∃ m : Word, (m = 0 ∨ m = BitVec.ofNat 32 flagSAT) ∧
      (t.thread th).fpsr = ((s.begun c i).thread th).fpsr ||| m

/-- `IADDI` writes wrap(a + IMM32, 32) in each active lane (R155). -/
def Sys2Proof.Claim.IaddiAdds : Prop :=
  ∀ v : IWord, Delivers (.iaddi v) v.d v.nw 0 fun u _ th x => x = u.opnd th v.a + v.imm

/-- The logic words (R157); those of format T are well formed with MOD 0 only. -/
def Sys2Proof.Claim.LogicWords : Prop :=
  ∀ (w : TWord) (v : IWord),
    Delivers (.and w) w.d w.nw 0 (fun u _ th v => v = (u.opnd th w.a &&& u.opnd th w.b)) ∧
    Delivers (.or w) w.d w.nw 0 (fun u _ th v => v = (u.opnd th w.a ||| u.opnd th w.b)) ∧
    Delivers (.xor w) w.d w.nw 0 (fun u _ th v => v = (u.opnd th w.a ^^^ u.opnd th w.b)) ∧
    Delivers (.andn w) w.d w.nw 0 (fun u _ th v => v = (u.opnd th w.a &&& ~~~u.opnd th w.b)) ∧
    Delivers (.andi v) v.d v.nw 0 (fun u _ th x => x = u.opnd th v.a &&& v.imm) ∧
    Delivers (.ori v) v.d v.nw 0 (fun u _ th x => x = u.opnd th v.a ||| v.imm) ∧
    Delivers (.xori v) v.d v.nw 0 (fun u _ th x => x = u.opnd th v.a ^^^ v.imm) ∧
    ∀ i ∈ [Instr.and w, .or w, .xor w, .andn w], i.wellFormed → w.mod = 0

/-- The 32-bit moves: `MOVI` writes its immediate, `MOV` its source with a NaN's bits unchanged, `SEL` one source or the
other (R108, R152). -/
def Sys2Proof.Claim.MoveWords : Prop :=
  ∀ (w : TWord) (v : IWord),
    Delivers (.movi v) v.d v.nw 0 (fun _ _ _ x => x = v.imm) ∧
    (w.mod = 0 → Delivers (.mov w) w.d w.nw 0 (fun u _ th v => v = (u.opnd th w.a)) ∧
      Delivers (.sel w) w.d w.nw 0 (fun u _ th v => v = (if u.opnd th w.c ≠ 0 then u.opnd th w.a else u.opnd th w.b)))

/-- Unsigned and signed 32-bit arithmetic without `.sat` wraps (R104, R154): type codes 0 (`.s32`) and 1 (`.u32`). -/
def Sys2Proof.Claim.WordArithmeticWraps : Prop :=
  ∀ w : TWord, w.mod.toNat < 2 →
    Delivers (.iadd w) w.d w.nw 0 (fun u _ th v => v = (u.opnd th w.a + u.opnd th w.b)) ∧
    Delivers (.isub w) w.d w.nw 0 (fun u _ th v => v = (u.opnd th w.a - u.opnd th w.b)) ∧
    Delivers (.iadd3 w) w.d w.nw 0 (fun u _ th v => v = (u.opnd th w.a + u.opnd th w.b + u.opnd th w.c)) ∧
    Delivers (.imul w) w.d w.nw 0 (fun u _ th v => v = (u.opnd th w.a * u.opnd th w.b))

/-- A signed 32-bit sum under `.sat` past the largest value is the largest value (R104, R154). -/
def Sys2Proof.Claim.SaturatingSum : Prop :=
  ∀ w : TWord, w.mod = 8 → Delivers (.iadd w) w.d w.nw 0 fun u _ th v => v =
    if (u.opnd th w.a).toInt + (u.opnd th w.b).toInt > 0x7FFFFFFF then 0x7FFFFFFF
    else if (u.opnd th w.a).toInt + (u.opnd th w.b).toInt < -0x80000000 then 0x80000000
    else u.opnd th w.a + u.opnd th w.b

/-- Shifts of 32-bit words take the whole amount: a left shift, or an unsigned right shift, by 32 or more gives zero
(R159). -/
def Sys2Proof.Claim.ShiftWords : Prop :=
  ∀ w : TWord, w.mod = 1 →
    Delivers (.shl w) w.d w.nw 0 (fun u _ th v => v =
      (if 32 ≤ (u.opnd th w.b).toNat then 0 else u.opnd th w.a <<< (u.opnd th w.b).toNat)) ∧
    Delivers (.shr w) w.d w.nw 0 (fun u _ th v => v =
      (if 32 ≤ (u.opnd th w.b).toNat then 0 else u.opnd th w.a >>> (u.opnd th w.b).toNat))

/-- `LOP3` takes each bit of its result from the truth table at a + 2 b + 4 d, where d is the old value of D (R158). -/
def Sys2Proof.Claim.Lop3Table : Prop :=
  ∀ w : TWord, Delivers (.lop3 w) w.d w.nw 0 fun u _ th v => ∀ i < 32, v.getLsbD i =
    w.c.getLsbD (((u.opnd th w.a).getLsbD i).toNat + 2 * ((u.opnd th w.b).getLsbD i).toNat +
      4 * ((u.opnd th w.d).getLsbD i).toNat)

/-- `PLOP` is `LOP3` on one bit: pA, pB and the old pD index the table (R164). -/
def Sys2Proof.Claim.PlopTable : Prop :=
  ∀ w : TWord, selClass w.a = .pred → selClass w.b = .pred →
    DeliversPred (.plop w) w.d w.nw fun u _ th =>
      w.c.getLsbD (((u.thread th).pred (selReg w.a)).toNat + 2 * ((u.thread th).pred (selReg w.b)).toNat +
        4 * ((u.thread th).pred (selReg w.d)).toNat)

/-- `PMOV` moves the predicates as a group (R165); p0 reads as 1 (R59). -/
def Sys2Proof.Claim.PmovGroup : Prop :=
  ∀ w : TWord,
    Delivers (.pmovPack w) w.d w.nw 0 (fun u _ th v => v.toNat < 256 ∧ v.getLsbD 0 = true ∧
      ∀ j < 8, v.getLsbD j = (u.thread th).pred j) ∧
    Writes (.pmovUnpack w) fun u _ th =>
      [1, 2, 3, 4, 5, 6, 7].map fun j => (.p j, if (u.opnd th w.a).getLsbD j then 1 else 0)

/-- `ICMPI` writes pj with the test of its condition code (R163). -/
def Sys2Proof.Claim.IcmpiTests : Prop :=
  ∀ v : IWord, Writes (.icmpi v) fun u _ th =>
    let a := u.opnd th v.a
    if v.nw then [] else [(.p (v.d.toNat % 8), if (match v.d.toNat / 8 % 16 with
      | 0 => a == v.imm
      | 1 => a != v.imm
      | 2 => a.slt v.imm
      | 3 => a.sle v.imm
      | 4 => v.imm.slt a
      | 5 => v.imm.sle a
      | 6 => a.ult v.imm
      | 7 => a.ule v.imm
      | 8 => v.imm.ult a
      | _ => v.imm.ule a) then 1 else 0)]

/-- `ICMP` of 32-bit operands gives the comparison AND opnd(C), to a predicate and as 1 or 0 to a register (R162): the
signed type in XM[3:2] = 0, the unsigned in 1. -/
def Sys2Proof.Claim.IcmpCompares : Prop :=
  ∀ w : TWord, w.xm.toNat / 4 < 2 →
    let test := fun (u : State) (th : Nat) =>
      let a := u.opnd th w.a
      let b := u.opnd th w.b
      (match w.mod.toNat, w.xm.toNat / 4 with
        | 0, _ => a == b
        | 1, _ => a != b
        | 2, 0 => a.slt b
        | 2, _ => a.ult b
        | 3, 0 => a.sle b
        | 3, _ => a.ule b
        | 4, 0 => b.slt a
        | 4, _ => b.ult a
        | _, 0 => b.sle a
        | _, _ => b.ule a) && u.opnd th w.c != 0
    DeliversPred (.icmp w) w.d w.nw (fun u _ th => test u th) ∧
    Delivers (.icmp w) w.d w.nw 0 (fun u _ th v => v = if test u th then 1 else 0)

/-- Carry and borrow go to the predicate C, and the sum or difference wraps (R156): a carry-in is read under XM[2] = 0. -/
def Sys2Proof.Claim.CarryAndBorrow : Prop :=
  ∀ w : TWord,
    let cin := fun (u : State) (th : Nat) => if w.xm.getLsbD 2 then 0 else (u.opnd th w.c).toNat
    Delivers (.iaddc w) w.d w.nw 0 (fun u _ th v => v.toNat =
      ((u.opnd th w.a).toNat + (u.opnd th w.b).toNat + cin u th) % 2 ^ 32) ∧
    Delivers (.isubb w) w.d w.nw 0 (fun u _ th v => (v.toNat : Int) =
      (((u.opnd th w.a).toNat : Int) - (u.opnd th w.b).toNat - cin u th) % 2 ^ 32) ∧
    (selClass w.c = .pred →
      Writes (.iaddc w) (fun u _ th => [(.p (selReg w.c),
        if 2 ^ 32 ≤ (u.opnd th w.a).toNat + (u.opnd th w.b).toNat + cin u th then 1 else 0)]) ∧
      Writes (.isubb w) (fun u _ th => [(.p (selReg w.c),
        if (u.opnd th w.a).toNat < (u.opnd th w.b).toNat + cin u th then 1 else 0)]))

/-- `NOP` has no effect but its step (R151). -/
def Obligations.NopDoesNothing : Prop :=
  ∀ (w : TWord) (s : State) (c : Cur), issues (.nop w) s c = true →
    ∃ t, exec (.nop w) s = .next t ∧ StandsPast (s.begun c (.nop w)) t c (.nop w) ∧
      ({ t with takes := (s.begun c (.nop w)).takes } : State) = s.begun c (.nop w) ∧
      SameTakes (s.begun c (.nop w)) t c.take

/-- `UMOV` writes a uniform register of the scene at issue (R58, R153): opnd(A) of lane j, where lane j is active. Where
it is not, or where pipe B has written the register in the same cycle before a word of pipe A, it keeps its value. -/
def Sys2Proof.Claim.UmovWrites : Prop :=
  ∀ (w : TWord) (s : State) (c : Cur) (l0 : Nat × Nat), w.nw = false → selClass w.d = .uniform → selReg w.d < 64 →
    issues (.umov w) s c = true → (s.atIssue c (.umov w)).lanes.head? = some l0 →
    let u := s.begun c (.umov w)
    let sc := (u.thread l0.2).scene
    sc < u.scenes.length →
    ∃ t, exec (.umov w) s = .next t ∧ StandsPast u t c (.umov w) ∧ (t.scene sc).uniReg (selReg w.d) =
      if (s.atIssue c (.umov w)).pipeB = false ∧ (u.clock, sc, selReg w.d) ∈ u.uniB then (u.scene sc).uniReg (selReg w.d)
      else match (s.atIssue c (.umov w)).lanes.find? fun (y : Nat × Nat) => y.1 == (u.opnd l0.2 w.b).toNat % 32 with
      | some j => u.opnd j.2 w.a
      | none => (u.scene sc).uniReg (selReg w.d)

/-- `UIADD` on 32 bits writes the wrapped sum to a uniform register of the scene at issue (R58, R153); where pipe B has
written the register in the same cycle before a word of pipe A, that value stands. -/
def Sys2Proof.Claim.UiaddWrites : Prop :=
  ∀ (w : TWord) (s : State) (c : Cur) (l0 : Nat × Nat), w.nw = false → selClass w.d = .uniform → selReg w.d < 64 →
    w.mod = 0 → issues (.uiadd w) s c = true → (s.atIssue c (.uiadd w)).lanes.head? = some l0 →
    let u := s.begun c (.uiadd w)
    let sc := (u.thread l0.2).scene
    sc < u.scenes.length →
    ∃ t, exec (.uiadd w) s = .next t ∧ StandsPast u t c (.uiadd w) ∧
      (t.scene sc).uniReg (selReg w.d) =
        if (s.atIssue c (.uiadd w)).pipeB = false ∧ (u.clock, sc, selReg w.d) ∈ u.uniB then (u.scene sc).uniReg (selReg w.d)
        else u.opnd l0.2 w.a + u.opnd l0.2 w.b

/-- `SHFL.lane` gives the source lane's opnd(A), or opnd(C) where the source is not active (R166); `QSWAP` the partner's
or the lane's own (R203). -/
def Sys2Proof.Claim.LaneExchange : Prop :=
  ∀ (w : TWord) (s : State) (c : Cur) (l : Nat × Nat) (dst : Dest), w.nw = false →
    (selClass w.d = .main ∨ selClass w.d = .operand) → destOf w.d 0 = some dst →
    (issues (.shfl w) s c = true → w.mod = 0 → l ∈ (s.atIssue c (.shfl w)).lanes →
      let u := s.begun c (.shfl w)
      ∃ t, exec (.shfl w) s = .next t ∧ StandsPast u t c (.shfl w) ∧ Arrives t l.2 dst
        ((match (s.atIssue c (.shfl w)).lanes.find? fun (y : Nat × Nat) => y.1 == (u.opnd l.2 w.b).toNat % 32 with
          | some y => u.opnd y.2 w.a
          | none => u.opnd l.2 w.c).setWidth 64) (u.clock + 6)) ∧
    (issues (.qswap w) s c = true → l ∈ (s.atIssue c (.qswap w)).lanes →
      let u := s.begun c (.qswap w)
      ∃ t, exec (.qswap w) s = .next t ∧ StandsPast u t c (.qswap w) ∧ Arrives t l.2 dst
        ((match (s.atIssue c (.qswap w)).lanes.find? fun (y : Nat × Nat) => y.1 == l.1 ^^^ (w.mod.toNat + 1) with
          | some y => u.opnd y.2 w.a
          | none => u.opnd l.2 w.a).setWidth 64) (u.clock + 4))

/-- `BALLOT` writes to every active lane the mask whose bit j is 1 when lane j is active and its opnd(A) is not 0 (R168). -/
def Sys2Proof.Claim.BallotMasks : Prop :=
  ∀ (w : TWord) (s : State) (c : Cur) (l : Nat × Nat) (dst : Dest) (v : Word), w.nw = false →
    (selClass w.d = .main ∨ selClass w.d = .operand) → destOf w.d 0 = some dst → issues (.ballot w) s c = true →
    l ∈ (s.atIssue c (.ballot w)).lanes →
    let u := s.begun c (.ballot w)
    (∀ j < 32, v.getLsbD j = (s.atIssue c (.ballot w)).lanes.any fun y => y.1 == j && u.opnd y.2 w.a != 0) →
    ∃ t, exec (.ballot w) s = .next t ∧ StandsPast u t c (.ballot w) ∧ Arrives t l.2 dst (v.setWidth 64) (u.clock + 4)

/-- `VOTE` tests opnd(A) over the active lanes (R167): any, all and none, to a predicate. -/
def Sys2Proof.Claim.VoteTests : Prop :=
  ∀ (w : TWord) (s : State) (c : Cur) (l : Nat × Nat), w.nw = false → selClass w.d = .pred → w.mod.toNat < 3 →
    issues (.vote w) s c = true → l ∈ (s.atIssue c (.vote w)).lanes →
    let u := s.begun c (.vote w)
    let holds := fun (y : Nat × Nat) => u.opnd y.2 w.a != 0
    let xs := (s.atIssue c (.vote w)).lanes
    ∃ t, exec (.vote w) s = .next t ∧ StandsPast u t c (.vote w) ∧
      Arrives t l.2 (.p (selReg w.d)) (if (match w.mod.toNat with
        | 0 => xs.any holds
        | 1 => xs.all holds
        | _ => !xs.any holds) then 1 else 0) (u.clock + 4)

/-- `RDSPEC` reads special values (R60, R170): colour, thread identifier, scene identifier, helper, slot, core, region
counter and FPSR. `RDSPEC.clr` reads FPSR and clears it in the same lanes. -/
def Obligations.SpecialValues : Prop :=
  ∀ w : TWord, selClass w.a = .integer →
    Delivers (.rdspec w) w.d w.nw 0 (fun u _ th v => v = BitVec.ofNat 32 (match selReg w.a with
      | 0 => (u.thread th).slot % 32
      | 1 => (u.thread th).tid
      | 2 => (u.scene (u.thread th).scene).sid.toNat
      | 4 => u.clock
      | 6 => if (u.thread th).helper then 1 else 0
      | 7 => (u.thread th).rgnCnt.toNat
      | 9 => (u.thread th).slot
      | 10 => (u.scene (u.thread th).scene).core
      | 12 => (u.scene (u.thread th).scene).cap
      | _ => (u.thread th).fpsr.toNat) ∧ selReg w.a ∈ [0, 1, 2, 4, 6, 7, 9, 10, 12, 16]) ∧
    Delivers (.rdspecClr w) w.d w.nw 0 (fun u _ th v => v = (u.thread th).fpsr) ∧
    ∀ s c, issues (.rdspecClr w) s c = true → ∃ t, exec (.rdspecClr w) s = .next t ∧
      StandsPast (s.begun c (.rdspecClr w)) t c (.rdspecClr w) ∧
      ∀ l ∈ (s.atIssue c (.rdspecClr w)).lanes, (t.thread l.2).fpsr = 0

/-- An FP32 sum, difference, product or fused product with a NaN input is the canonical NaN, whatever its payload, and
so are `FADDI` and `FMULI` (R108); under `.sat` the NaN becomes +0 (R186, R187). -/
def Sys2Proof.Claim.NanIsCanonical : Prop :=
  ∀ (w : TWord) (v : IWord),
    let nan := fun (x : Word) => 0x7F800000 < x.toNat % 2 ^ 31
    let res : Word := if w.xm.getLsbD 2 then 0 else 0x7FC00000
    Delivers (.fadd w) w.d w.nw 0 (fun u _ th r => (nan (u.opnd th w.a) ∨ nan (u.opnd th w.b)) ∧ r = res) ∧
    Delivers (.fsub w) w.d w.nw 0 (fun u _ th r => (nan (u.opnd th w.a) ∨ nan (u.opnd th w.b)) ∧ r = res) ∧
    Delivers (.fmul w) w.d w.nw 0 (fun u _ th r => (nan (u.opnd th w.a) ∨ nan (u.opnd th w.b)) ∧ r = res) ∧
    Delivers (.ffma w) w.d w.nw 0 (fun u _ th r =>
      (nan (u.opnd th w.a) ∨ nan (u.opnd th w.b) ∨ nan (u.opnd th w.c)) ∧ r = res) ∧
    Delivers (.faddi v) v.d v.nw 0 (fun u _ th r => (nan (u.opnd th v.a) ∨ nan v.imm) ∧ r = 0x7FC00000) ∧
    Delivers (.fmuli v) v.d v.nw 0 (fun u _ th r => (nan (u.opnd th v.a) ∨ nan v.imm) ∧ r = 0x7FC00000)

/-- `FMIN` and `FMAX` (R118): one NaN operand is ignored, two give the canonical NaN, and −0 is ordered below +0. -/
def Sys2Proof.Claim.MinMaxRules : Prop :=
  ∀ w : TWord,
    let nan := fun (x : Word) => 0x7F800000 < x.toNat % 2 ^ 31
    let rule := fun (both : Word) (u : State) (_ th : Nat) (r : Word) =>
      let a := u.opnd th w.a
      let b := u.opnd th w.b
      (nan a ∧ nan b ∧ r = 0x7FC00000) ∨ (nan a ∧ ¬ nan b ∧ r = b) ∨ (¬ nan a ∧ nan b ∧ r = a) ∨
        (((a = 0 ∧ b = 0x80000000) ∨ (a = 0x80000000 ∧ b = 0)) ∧ r = both)
    Delivers (.fmin w) w.d w.nw 0 (rule 0x80000000) ∧ Delivers (.fmax w) w.d w.nw 0 (rule 0)

/-- A comparison with a NaN is false but for `.ne` and `.nan`, and `FCLASS` finds the class 8 of every NaN (R188,
R189). -/
def Sys2Proof.Claim.NanCompares : Prop :=
  ∀ w : TWord,
    let nan := fun (x : Word) => 0x7F800000 < x.toNat % 2 ^ 31
    Delivers (.fcmp w) w.d w.nw 0 (fun u _ th r => (nan (u.opnd th w.a) ∨ nan (u.opnd th w.b)) ∧ w.mod.toNat < 8 ∧
      r = if (w.mod = 1 ∨ w.mod = 7) ∧ u.opnd th w.c ≠ 0 then 1 else 0) ∧
    Delivers (.fclass w) w.d w.nw 0 (fun u _ th r => nan (u.opnd th w.a) ∧ r = if w.c.getLsbD 8 then 1 else 0)

/-- Every word of the transcendental unit starts as an operation of its lanes, with a result for D in each lane and none
for a latch (R144, R192). -/
def Sys2Proof.Claim.TranscendentalsStart : Prop :=
  ∀ (w : TWord) (i : Instr) (s : State) (c : Cur),
    i ∈ [Instr.fexp2f w, .frcp w, .frsq w, .fsqrt w, .flog2 w, .fsin w, .fcos w, .ftanh w] → issues i s c = true →
    ∃ t ws, exec i s = .next t ∧ StandsPast (s.begun c i) t c i ∧
      Started (s.begun c i) t (s.atIssue c i) (s.atIssue c i).lanes [] ws ∧ t.pend = (s.begun c i).pend ∧
      ∀ l ∈ (s.atIssue c i).lanes, w.nw = false → (selClass w.d = .main ∨ selClass w.d = .operand) →
        ∀ dst, destOf w.d 0 = some dst → ∃ v, ({ thread := l.2, dest := dst, value := v } : RegWrite) ∈ ws

/-- Special cases of the transcendental table (R119): `FRCP`, `FRSQ` and `FLOG2` of the zeros and of +infinity. -/
def Sys2Proof.Claim.TranscendentalSpecialCases : Prop :=
  ∀ (w : TWord) (i : Instr) (f : Word → Option Word) (s : State) (c : Cur) (l : Nat × Nat) (dst : Dest) (v : Word),
    (i, f) ∈ [
      (Instr.frcp w, fun (a : Word) => if a = 0 then some 0x7F800000 else if a = 0x80000000 then some 0xFF800000
        else if a = 0x7F800000 then some 0 else if a = 0xFF800000 then some 0x80000000 else none),
      (Instr.frsq w, fun (a : Word) => if a = 0 then some 0x7F800000 else if a = 0x80000000 then some 0xFF800000
        else if a = 0x7F800000 then some 0 else none),
      (Instr.flog2 w, fun (a : Word) => if a = 0 ∨ a = 0x80000000 then some 0xFF800000
        else if a = 0x7F800000 then some 0x7F800000 else if a = 0x3F800000 then some 0 else none)] →
    issues i s c = true → w.nw = false → (selClass w.d = .main ∨ selClass w.d = .operand) → destOf w.d 0 = some dst →
    l ∈ (s.atIssue c i).lanes → f ((s.begun c i).opnd l.2 w.a) = some v →
    ∃ t ws, exec i s = .next t ∧ StandsPast (s.begun c i) t c i ∧
      Started (s.begun c i) t (s.atIssue c i) (s.atIssue c i).lanes [] ws ∧
      ({ thread := l.2, dest := dst, value := v.setWidth 64 } : RegWrite) ∈ ws

/-! ## Control -/

/-- `BRA`, `BRX`, `CALL`, `CALL.r` and `RET` (R171, R172, R173, R174): where the targets of the active lanes are aligned,
every active lane goes on at its target and every other lane at the next clause. No other take changes; of the threads nothing
changes but the take that they stand in and, for a call, D of the active lanes; and no other part of the machine changes. -/
def Obligations.TransfersGoToTargets : Prop :=
  ∀ (w : JWord) (i : Instr) (tgt : State → DWord → Nat → DWord) (s : State) (c : Cur),
    (i, tgt) ∈ [
      (Instr.bra w, fun (_ : State) (a : DWord) (_ : Nat) => a + 8 * w.tgt.signExtend 64),
      (Instr.brx w, fun (u : State) (a : DWord) (th : Nat) =>
        a + 8 * w.tgt.signExtend 64 + 8 * (u.opnd th w.a).signExtend 64),
      (Instr.call w, fun (_ : State) (a : DWord) (_ : Nat) => a + 8 * w.tgt.signExtend 64),
      (Instr.callR w, fun (u : State) (_ : DWord) (th : Nat) => u.opnd64 th w.a),
      (Instr.ret w, fun (u : State) (_ : DWord) (th : Nat) => u.opnd64 th w.a)] →
    issues i s c = true →
    let u := s.begun c i
    let xs := (s.atIssue c i).lanes
    (∀ l ∈ xs, (tgt u c.addr l.2).toNat % 8 = 0) →
    ∃ t, exec i s = .next t ∧
      (∀ l ∈ (u.take c.take).lanes, ∃ k, l ∈ (t.take k).lanes ∧ (t.take k).st = .waiting ∧
        (t.take k).pc = if l ∈ xs then tgt u c.addr l.2 else c.addr + 8) ∧
      (∀ k, k ≠ c.take → k < u.takes.length → t.take k = u.take k) ∧ SameElse u t ∧ t.pend = u.pend ∧
      (i = .bra w ∨ i = .brx w ∨ i = .ret w → t.scenes = u.scenes ∧ t.uniB = u.uniB ∧
        ∀ th, ({ t.thread th with place := (u.thread th).place } : Thread) = u.thread th) ∧
      (i = .call w ∨ i = .callR w → OnlyDest u t w.d 2 (xs.map Prod.snd) ∧
        ∀ th, ({ t.thread th with place := (u.thread th).place, v := (u.thread th).v, o := (u.thread th).o
                                  p := (u.thread th).p, bad := (u.thread th).bad } : Thread) = u.thread th)

/-- A register-supplied target that is no multiple of 8 raises ALIGN in its lane: the thread leaves its take, stopped at
the word, parked or halted as its context's policy says (R173, R378). -/
def Obligations.MisalignedTargetStops : Prop :=
  ∀ (w : JWord) (i : Instr) (tgt : State → DWord → Nat → DWord) (s : State) (c : Cur) (l : Nat × Nat),
    (i, tgt) ∈ [
      (Instr.brx w, fun (u : State) (a : DWord) (th : Nat) =>
        a + 8 * w.tgt.signExtend 64 + 8 * (u.opnd th w.a).signExtend 64),
      (Instr.callR w, fun (u : State) (_ : DWord) (th : Nat) => u.opnd64 th w.a),
      (Instr.ret w, fun (u : State) (_ : DWord) (th : Nat) => u.opnd64 th w.a)] →
    issues i s c = true →
    let u := s.begun c i
    (s.atIssue c i).lanes = [l] → l.2 < u.threads.length → (tgt u c.addr l.2).toNat % 8 ≠ 0 →
    (u.thread l.2).place = .take c.take →
    ∃ t, exec i s = .next t ∧ (t.thread l.2).pc = c.addr ∧ (t.thread l.2).place = .nowhere ∧
      (t.thread l.2).halted = u.halts (u.scene (u.thread l.2).scene).ctx 5 ∧
      (t.thread l.2).parked = !u.halts (u.scene (u.thread l.2).scene).ctx 5 ∧
      ∀ y ∈ (t.take c.take).lanes, y.2 ≠ l.2

/-- `CALL` to an aligned target, and `CALL.r` to aligned targets, write the address of the next clause to the pair D, of main or of
operand registers, in each active lane (R174). -/
def Obligations.CallsLink : Prop :=
  ∀ (w : JWord) (i : Instr) (s : State) (c : Cur), issues i s c = true →
    let u := s.begun c i
    i = .call w ∧ (c.addr + 8 * w.tgt.signExtend 64).toNat % 8 = 0 ∨
      i = .callR w ∧ (∀ l ∈ (s.atIssue c i).lanes, (u.opnd64 l.2 w.a).toNat % 8 = 0) →
    ∃ t, exec i s = .next t ∧ ∀ l ∈ (s.atIssue c i).lanes, l.2 < u.threads.length →
      (selClass w.d = .main ∨ selClass w.d = .operand) → ∀ k < 2, ∀ dst, destOf w.d k = some dst →
        DestHolds t l.2 (((c.addr + 8) >>> (32 * k)).setWidth 32) dst

/-- `EXIT` ends the thread of each active lane, which leaves its slot empty where its cue flags are all zero (R24, R175);
memory, the operations under way and the supervisor's and the contexts' registers are unchanged. Where no such thread is a
member of a cast, they leave their take, its other lanes go on at the next clause, and no other thread and no other take
changes; a scene with a slot that is still occupied goes on unchanged, and so does every scene of no such thread. -/
def Sys2Proof.Claim.ExitEndsThreads : Prop :=
  ∀ (w : JWord) (s : State) (c : Cur), issues (.exit w) s c = true →
    let u := s.begun c (.exit w)
    let xs := (s.atIssue c (.exit w)).lanes
    ∃ t, exec (.exit w) s = .next t ∧ (t.take c.take).pc = c.addr + 8 ∧
      (∀ l ∈ xs, l.2 < u.threads.length → (t.thread l.2).exited = true ∧
        (t.thread l.2).gone = ((u.thread l.2).gone || (u.thread l.2).cue.toList.all (· == 0))) ∧
      t.mem = u.mem ∧ t.ops = u.ops ∧ t.dies = u.dies ∧ t.ctxs = u.ctxs ∧
      ((∀ l ∈ xs, l.2 < u.threads.length ∧ (u.thread l.2).place = .take c.take ∧ u.castOf l.2 = none ∧
          (u.scene (u.thread l.2).scene).st ≠ .suspended) →
        ({ t with threads := u.threads, takes := u.takes, reels := u.reels, scenes := u.scenes } : State) = u ∧
        (∀ th, (∀ l ∈ xs, l.2 ≠ th) → t.thread th = u.thread th) ∧
        (∀ k, (∀ l ∈ xs, (u.thread l.2).scene ≠ k) → t.scene k = u.scene k) ∧
        ((∀ l ∈ xs, ∃ j ∈ (u.scene (u.thread l.2).scene).threads, (∀ y ∈ xs, y.2 ≠ j) ∧ (u.thread j).gone = false) →
          t.scenes = u.scenes ∧ t.reels = u.reels ∧ SameTakes u t c.take ∧
          (t.take c.take).lanes = (u.take c.take).lanes.filter fun y => !(xs.any fun l => l.2 == y.2)))

/-- `REFORM`, and `REFORM.quad` in a scene without quad alignment, file an active lane in a reel of the next clause,
while one of the core's 64 reels is free (R27, R28, R175). -/
def Obligations.ReformFiles : Prop :=
  ∀ (w : JWord) (i : Instr) (s : State) (c : Cur) (l : Nat × Nat), i = .reform w ∨ i = .reformQuad w →
    issues i s c = true →
    let u := s.begun c i
    let x := s.atIssue c i
    x.lanes = [l] → l.2 < u.threads.length → (u.thread l.2).place = .take c.take →
    (i = .reformQuad w → (u.scene x.scene).quad = false) →
    (u.reels.filter fun r => r.core == x.core && r.live).length < 64 →
    ∃ t r, exec i s = .next t ∧ (t.thread l.2).place = .reel r ∧ (t.thread l.2).pc = c.addr + 8 ∧
      l ∈ (t.reel r).lanes ∧ (t.reel r).live = true ∧ (t.reel r).pc = c.addr + 8 ∧ (t.reel r).core = x.core ∧
      (t.reel r).scene = x.scene ∧ (∀ y ∈ (t.take c.take).lanes, y.2 ≠ l.2) ∧ t.mem = u.mem

/-- `SPAWN` at an entry of the kernel (R17, R23, R176): the active lanes that are no helpers, in order, each start a thread
with the lowest unused identifier, at the entry, with opnd(A) in v0, as long as the scene has capacity; D receives the
identifier, and all ones in every other active lane. The threads that were there keep all but D of theirs, and memory,
operations and casts are unchanged. -/
def Sys2Proof.Claim.SpawnStarts : Prop :=
  ∀ (w : JWord) (s : State) (c : Cur), issues (.spawn w) s c = true →
    let u := s.begun c (.spawn w)
    let x := s.atIssue c (.spawn w)
    let sc := u.scene x.scene
    let tgt := c.addr + 8 * w.tgt.signExtend 64
    let makers := x.lanes.filter fun l => !(u.thread l.2).helper
    let n := min makers.length (sc.cap - sc.nextTid)
    x.scene < u.scenes.length → (∀ l ∈ x.lanes, l.2 < u.threads.length) → (x.lanes.map Prod.snd).Nodup →
    (selClass w.d = .main ∨ selClass w.d = .operand) → sc.code ≤ tgt.toNat → tgt.toNat - sc.code ∈ sc.entries →
    ∃ t, exec (.spawn w) s = .next t ∧ (t.take c.take).pc = c.addr + 8 ∧
      t.threads.length = u.threads.length + n ∧ (t.scene x.scene).nextTid = sc.nextTid + n ∧
      (∀ k < n, let y := t.thread (u.threads.length + k)
        y.tid = sc.nextTid + k ∧ y.pc = tgt ∧ y.scene = x.scene ∧ y.helper = false ∧ y.fpsr = 0 ∧ y.exited = false ∧
        (0 < sc.regs → y.reg 0 = u.opnd (makers.getD k default).2 w.a)) ∧
      (∀ k < makers.length, ∀ dst, destOf w.d 0 = some dst → DestHolds t (makers.getD k default).2
        (if k < n then BitVec.ofNat 32 (sc.nextTid + k) else 0xFFFFFFFF) dst) ∧
      (∀ l ∈ x.lanes, (u.thread l.2).helper = true → ∀ dst, destOf w.d 0 = some dst → DestHolds t l.2 0xFFFFFFFF dst) ∧
      (∀ th < u.threads.length, ({ t.thread th with v := (u.thread th).v, o := (u.thread th).o
                                                    bad := (u.thread th).bad } : Thread) = u.thread th) ∧
      t.mem = u.mem ∧ t.ops = u.ops ∧ t.casts = u.casts

/-- `SPAWN` at an address that is no entry raises ILLOP with cause 0x0D in every active lane, starts no thread and writes no D (R176,
R378): each thread leaves its take, stopped at the word, parked or halted by the policy of ILLOP, with its registers as they were,
and, where the context has no fault queue and no record waits, the records stand in lane order. -/
def Sys2Proof.Claim.SpawnChecksEntry : Prop :=
  ∀ (w : JWord) (s : State) (c : Cur), issues (.spawn w) s c = true →
    let u := s.begun c (.spawn w)
    let x := s.atIssue c (.spawn w)
    let sc := u.scene x.scene
    let tgt := c.addr + 8 * w.tgt.signExtend 64
    ¬ (sc.code ≤ tgt.toNat ∧ tgt.toNat - sc.code ∈ sc.entries) →
    ∃ t, exec (.spawn w) s = .next t ∧ t.threads.length = u.threads.length ∧ t.pend = u.pend ∧ t.scenes = u.scenes ∧
      (∀ th, (t.thread th).v = (u.thread th).v ∧ (t.thread th).o = (u.thread th).o ∧ (t.thread th).p = (u.thread th).p) ∧
      (∀ l ∈ x.lanes, l.2 < u.threads.length →
        (t.thread l.2).halted = u.halts (u.scene (u.thread l.2).scene).ctx 0x0A ∧
        (t.thread l.2).parked = !u.halts (u.scene (u.thread l.2).scene).ctx 0x0A ∧ (t.thread l.2).pc = c.addr) ∧
      (sc.ctx < 1024 → (u.ctx sc.ctx).fqBase = 0 → u.held = [] → (x.lanes.map Prod.snd).Nodup →
        (∀ l ∈ x.lanes, l.2 < u.threads.length ∧ (u.thread l.2).scene = x.scene) →
        t.held.map (fun h => (h.queue, h.fault.kind, h.fault.detail, h.fault.tid)) =
          x.lanes.map fun l => (sc.ctx, 0x0A, 0x0D + 256 * c.pos, (u.thread l.2).tid))

/-- `JOIN` of a lane (R42, R177): the key 0xFFFF_FFFF joins nothing and gives all ones; a thread of no cast whose key no
cast of its context and die has becomes rank 0 of a new cast, while the die holds fewer than 256. -/
def Sys2Proof.Claim.JoinEnters : Prop :=
  ∀ (w : JWord) (s : State) (c : Cur) (l : Nat × Nat), issues (.join w) s c = true →
    let u := s.begun c (.join w)
    let key := u.opnd l.2 w.a
    let sc := u.scene (u.thread l.2).scene
    (s.atIssue c (.join w)).lanes = [l] → l.2 < u.threads.length → selClass w.d = .main →
    selReg w.d < (u.thread l.2).v.length →
    ∃ t, exec (.join w) s = .next t ∧
      (key = 0xFFFFFFFF → t.casts = u.casts ∧ (t.thread l.2).reg (selReg w.d) = 0xFFFFFFFF) ∧
      (key ≠ 0xFFFFFFFF → u.castOf l.2 = none →
        (∀ k ∈ u.casts, ¬ (k.live = true ∧ k.ctx = sc.ctx ∧ k.die = coreDie sc.core ∧ k.key = key)) →
        (u.casts.filter fun k => k.live && k.die == coreDie sc.core).length < 256 →
        (t.thread l.2).reg (selReg w.d) = 0 ∧ ∃ k, t.casts = u.casts ++ [k] ∧ k.live = true ∧ k.key = key ∧
          k.ctx = sc.ctx ∧ k.die = coreDie sc.core ∧ k.members.map Member.thread = [l.2] ∧ k.phase = 0)

/-- `LEAVE` of a lane ends its thread's membership; in a lane of no cast it has no effect (R43, R177). -/
def Sys2Proof.Claim.LeaveEndsMembership : Prop :=
  ∀ (w : JWord) (s : State) (c : Cur) (l : Nat × Nat), issues (.leave w) s c = true →
    let u := s.begun c (.leave w)
    (s.atIssue c (.leave w)).lanes = [l] →
    ∃ t, exec (.leave w) s = .next t ∧ t.mem = u.mem ∧
      match u.castOf l.2 with
      | none => t.casts = u.casts ∧ t.threads = u.threads
      | some i => ∀ m ∈ (t.cast i).members, m.thread ≠ l.2

/-- `BAR`, `BAR.arr` and `BAR.wait` of a member that has not arrived, while another member is still awaited: the
arrival is recorded for the member's phase, and a waiting thread leaves its take and stands at the next clause (R44,
R178). -/
def Sys2Proof.Claim.BarriersArriveAndWait : Prop :=
  ∀ (w : JWord) (i : Instr) (arrives waits : Bool) (s : State) (c : Cur) (l : Nat × Nat) (k : Nat) (m m' : Member),
    (i, arrives, waits) ∈ [(Instr.bar w, true, true), (Instr.barArr w, true, false), (Instr.barWait w, false, true)] →
    issues i s c = true →
    let u := s.begun c i
    (s.atIssue c i).lanes = [l] → l.2 < u.threads.length → (u.thread l.2).place = .take c.take →
    u.castOf l.2 = some k → (u.cast k).member l.2 = some m → m.arrived = none →
    m' ∈ (u.cast k).members → m'.thread ≠ l.2 → m'.since ≤ (u.cast k).phase → m'.arrived ≠ some (u.cast k).phase →
    ∃ t m2, exec i s = .next t ∧ (t.cast k).member l.2 = some m2 ∧ (t.cast k).phase = (u.cast k).phase ∧
      m2.arrived = (if arrives then some (max (u.cast k).phase m.since) else none) ∧
      (arrives = true → waits = true → m2.waiting = some (max (u.cast k).phase m.since)) ∧
      (arrives = true → waits = false → m2.waiting = none) ∧
      (arrives = false → m2.waiting = some (u.cast k).phase) ∧
      (waits = true → (t.thread l.2).place = .nowhere ∧ (t.thread l.2).pc = c.addr + 8) ∧
      (waits = false → (t.thread l.2).place = .take c.take)

/-- A phase completes when the last awaited member arrives: `BAR` of the one member of a cast opens the next phase and
releases the thread (R44, R46). -/
def Sys2Proof.Claim.LastArrivalCompletes : Prop :=
  ∀ (w : JWord) (s : State) (c : Cur) (l : Nat × Nat) (k : Nat) (m : Member), issues (.bar w) s c = true →
    let u := s.begun c (.bar w)
    (s.atIssue c (.bar w)).lanes = [l] → l.2 < u.threads.length → (u.thread l.2).place = .take c.take →
    u.castOf l.2 = some k → (u.cast k).live = true → (u.cast k).members = [m] → m.thread = l.2 → m.arrived = none →
    m.again = none → m.since ≤ (u.cast k).phase →
    ∃ t, exec (.bar w) s = .next t ∧ (t.cast k).phase = (u.cast k).phase + 1 ∧ ∃ m2, (t.cast k).members = [m2] ∧
      m2.thread = l.2 ∧ m2.arrived = none ∧ m2.waiting = none

/-- `BAR` in a lane whose thread belongs to no cast raises PROT with detail 0: the thread leaves its take, stopped at the
word, and no cast changes (R178). The record is held where the context has no fault queue. -/
def Sys2Proof.Claim.BarOutsideCastStops : Prop :=
  ∀ (w : JWord) (i : Instr) (s : State) (c : Cur) (l : Nat × Nat), i ∈ [Instr.bar w, .barArr w, .barWait w] →
    issues i s c = true →
    let u := s.begun c i
    let ctx := (u.scene (u.thread l.2).scene).ctx
    (s.atIssue c i).lanes = [l] → l.2 < u.threads.length → (u.thread l.2).place = .take c.take → u.castOf l.2 = none →
    ∃ t, exec i s = .next t ∧ t.casts = u.casts ∧ (t.thread l.2).pc = c.addr ∧ (t.thread l.2).place = .nowhere ∧
      (t.take c.take).lanes = ((u.take c.take).lanes.filter fun y => y.2 != l.2) ∧
      (t.thread l.2).halted = u.halts ctx 2 ∧ (t.thread l.2).parked = !u.halts ctx 2 ∧
      (ctx < 1024 → (u.ctx ctx).fqBase = 0 → u.held = [] →
        t.held.map (fun h => (h.queue, h.fault.kind, h.fault.detail, h.fault.tid)) = [(ctx, 2, 0, (u.thread l.2).tid)])

/-- `YIELD` gives up the take's claim, and `SLEEP` holds it for the largest of its lanes' counts, at most 2^20 cycles
(R179); the take stands at the next clause, and nothing else changes. -/
def Obligations.YieldAndSleep : Prop :=
  ∀ (w : JWord) (i : Instr) (s : State) (c : Cur), i = .yield w ∨ i = .sleep w → issues i s c = true →
    let u := s.begun c i
    ∃ t, exec i s = .next t ∧ (t.take c.take).pc = c.addr + 8 ∧ (t.take c.take).st = .waiting ∧
      ({ t with takes := u.takes } : State) = u ∧ SameTakes u t c.take ∧
      (i = .yield w → (t.take c.take).yielded = true) ∧
      (i = .sleep w → (∀ l ∈ (s.atIssue c i).lanes, min (u.opnd l.2 w.a).toNat (2 ^ 20) ≤ (t.take c.take).sleep) ∧
        ∃ l ∈ (s.atIssue c i).lanes, (t.take c.take).sleep = min (u.opnd l.2 w.a).toNat (2 ^ 20))

/-- `REFILL` of a lane that is no helper removes the oldest entry of a queue that holds one, and gives all ones from an
empty one (R180, R349). The queue lies in the scene's allocation, its lines full, unpoisoned and without errors, and an
engine's writes there have been ordered before the thread (R97). -/
def Obligations.RefillDequeues : Prop :=
  ∀ (w : JWord) (s : State) (c : Cur) (l : Nat × Nat), issues (.refill w) s c = true →
    let u := s.begun c (.refill w)
    let x := s.atIssue c (.refill w)
    let sc := u.scene x.scene
    let h := (u.opnd l.2 w.a).toNat
    let head := sc.spNum h 4
    x.lanes = [l] → x.scene < u.scenes.length → l.2 < u.threads.length → (u.thread l.2).helper = false →
    selClass w.d = .main → selReg w.d < (u.thread l.2).v.length →
    queueOk sc h = true → sc.empty = [] → sc.poison = [] → sc.bad = [] → Sees u (u.threadReader l.2) (.sp x.scene) →
    ∃ t, exec (.refill w) s = .next t ∧
      if head = sc.spNum (h + 4) 4 then
        (t.thread l.2).reg (selReg w.d) = 0xFFFFFFFF ∧ (t.scene x.scene).sp = sc.sp
      else
        (t.thread l.2).reg (selReg w.d) =
          BitVec.ofNat 32 (sc.spNum (sc.spNum (h + 12) 4 + 4 * (head % 2 ^ sc.spNum (h + 8) 1)) 4) ∧
        (t.scene x.scene).spNum h 4 = (head + 1) % 2 ^ 32

/-- `TRAP` in each active lane that is no helper, and `BRKPT` in each active lane, set the region's start to the next
clause, leave its counter, and stop the thread at the word, parked or halted by the policy (R181, R378). -/
def Obligations.TrapsStop : Prop :=
  ∀ (w : JWord) (i : Instr) (kind : Nat) (s : State) (c : Cur),
    (i, kind) ∈ [(Instr.trap w, 0x13), (Instr.brkpt w, 0x14)] → issues i s c = true →
    let u := s.begun c i
    ∃ t, exec i s = .next t ∧ ∀ l ∈ (s.atIssue c i).lanes, l.2 < u.threads.length →
      (i = .trap w → (u.thread l.2).helper = false) →
      (t.thread l.2).rgnPc = c.addr + 8 ∧ (t.thread l.2).rgnCnt = (u.thread l.2).rgnCnt ∧
      (t.thread l.2).pc = c.addr ∧
      (t.thread l.2).halted = u.halts (u.scene (u.thread l.2).scene).ctx kind ∧
      (t.thread l.2).parked = !u.halts (u.scene (u.thread l.2).scene).ctx kind

/-- `RGNE` enters a region: in each active lane the region starts at the next clause and its counter is one higher.
`RNGPUSH` and `RNGPOP` open and close a labelled range up to 16 deep in each active lane (R182, R183). No thread has anything
else changed; no part of the machine but threads and the take changes for `RGNE`, nor for the others where no die captures
events of the context (R443). -/
def Obligations.RegionsAndRanges : Prop :=
  ∀ (w : JWord) (i : Instr) (s : State) (c : Cur), i ∈ [Instr.rgne w, .rngpush w, .rngpop w] → issues i s c = true →
    let u := s.begun c i
    let x := s.atIssue c i
    (x.lanes.map Prod.snd).Nodup →
    ∃ t, exec i s = .next t ∧ (t.take c.take).pc = c.addr + 8 ∧ (t.take c.take).lanes = (u.take c.take).lanes ∧
      SameTakes u t c.take ∧
      (∀ th, ({ t.thread th with rgnPc := (u.thread th).rgnPc, rgnCnt := (u.thread th).rgnCnt
                                 ranges := (u.thread th).ranges } : Thread) = u.thread th) ∧
      (∀ th, (∀ l ∈ x.lanes, l.2 ≠ th) → t.thread th = u.thread th) ∧
      (i = .rgne w ∨ (∀ d < 4, (u.die d).silCfg.toNat % 4 = 0 ∨ (u.die d).silCfg.toNat / 2 ^ 16 % 1024 ≠ x.ctx u) →
        ({ t with threads := u.threads, takes := u.takes } : State) = u) ∧
      ∀ l ∈ x.lanes, l.2 < u.threads.length →
        (i = .rgne w → (t.thread l.2).rgnPc = c.addr + 8 ∧ (t.thread l.2).rgnCnt = (u.thread l.2).rgnCnt + 1 ∧
          (t.thread l.2).ranges = (u.thread l.2).ranges) ∧
        (i ≠ .rgne w → (t.thread l.2).rgnPc = (u.thread l.2).rgnPc ∧ (t.thread l.2).rgnCnt = (u.thread l.2).rgnCnt) ∧
        (i = .rngpush w → (t.thread l.2).ranges =
          if 16 ≤ (u.thread l.2).ranges.length then (u.thread l.2).ranges else u.opnd l.2 w.a :: (u.thread l.2).ranges) ∧
        (i = .rngpop w → (t.thread l.2).ranges = (u.thread l.2).ranges.tail)

/-! ## Memory -/

/-- Scratchpad loads of one lane return the bytes at their address, and tagged loads likewise through a scratchpad
pointer of the own core (R63, R70, R71, R219, R221); an engine's writes there have been ordered before the thread (R97). The
access is performed at issue (log entry 7). -/
def Obligations.ScratchpadLoads : Prop :=
  ∀ (w : MWord) (i : Instr) (s : State) (c : Cur) (l : Nat × Nat) (a : Nat),
    issues i s c = true →
    let u := s.begun c i
    let x := s.atIssue c i
    let sc := u.scene x.scene
    let n := memBytes w.mod.toNat
    x.lanes = [l] →
    (i = .lds w ∧ a = ((u.opnd l.2 w.a).toNat + w.imm.toNat) % 2 ^ 32) ∨
      (i = .ldt w ∧ bitsOf (u.opnd64 l.2 w.a).toNat 63 56 = 0x1F ∧
        a = (u.opnd64 l.2 w.a).toNat % 2 ^ 56 + w.imm.toNat) →
    a % n = 0 → a + n ≤ sc.alloc + sc.win → sc.spEmpty a n = false → sc.spPoisoned a n = false → sc.spBad a n = false →
    Sees u (u.threadReader l.2) (.sp x.scene) → (u.take c.take).holds + bankCycles (spWords n [(l.2, a)]) ≤ 64 →
    ∃ t, exec i s = .next t ∧ StandsPast u t c i ∧
      Started u t x [l] [] (allWrites w.d w.nw [(l.2, loadWords w.mod.toNat (sc.spRead a n))]) ∧
      t.mem = u.mem ∧ ∀ k, (t.scene k).sp = (u.scene k).sp

/-- Scratchpad stores of one lane that is no helper put the low bytes of D at their address and change no other byte of
the scratchpad, and tagged stores likewise (R70, R219, R221), at issue (log entry 7). -/
def Sys2Proof.Claim.ScratchpadStores : Prop :=
  ∀ (w : MWord) (i : Instr) (s : State) (c : Cur) (l : Nat × Nat) (a : Nat),
    issues i s c = true →
    let u := s.begun c i
    let x := s.atIssue c i
    let sc := u.scene x.scene
    let n := memBytes w.mod.toNat
    x.lanes = [l] → x.scene < u.scenes.length → (u.thread l.2).helper = false →
    (i = .sts w ∧ a = ((u.opnd l.2 w.a).toNat + w.imm.toNat) % 2 ^ 32) ∨
      (i = .stt w ∧ bitsOf (u.opnd64 l.2 w.a).toNat 63 56 = 0x1F ∧
        a = (u.opnd64 l.2 w.a).toNat % 2 ^ 56 + w.imm.toNat) →
    w.mod.toNat < 5 → a % n = 0 → a + n ≤ sc.alloc + sc.win → sc.spBadPart a n = false →
    (u.take c.take).holds + bankCycles (spWords n [(l.2, a)]) ≤ 64 →
    ∃ t, exec i s = .next t ∧ StandsPast u t c i ∧ Started u t x [l] [] [] ∧ t.mem = u.mem ∧
      (t.scene x.scene).spNum a n = u.opndN l.2 w.d ((n + 3) / 4) % 2 ^ (8 * n) ∧
      (∀ p, (∀ k < n, p ≠ sc.spPhys (a + k)) → (t.scene x.scene).sp.read p = sc.sp.read p) ∧
      ∀ k, k ≠ x.scene → t.scene k = u.scene k

/-- Scratchpad atomics of one lane that is no helper return the old value and store the new one (R219, R224): the wrapped
32-bit sum, and the exchanged value; `CASS` stores its second operand where the first matches (R225). The access is performed at issue (log entry 7). -/
def Obligations.ScratchpadAtomics : Prop :=
  ∀ (w : MWord) (i : Instr) (s : State) (c : Cur) (l : Nat × Nat) (a : Nat),
    issues i s c = true →
    let u := s.begun c i
    let x := s.atIssue c i
    let sc := u.scene x.scene
    let old := sc.spNum a 4
    let new := if i = .cass w then
        (if old = (u.opndWord l.2 w.d 0).toNat then (u.opndWord l.2 w.d 1).toNat else old)
      else if w.mod = 0 then (old + (u.opnd l.2 w.d).toNat) % 2 ^ 32 else (u.opnd l.2 w.d).toNat
    x.lanes = [l] → x.scene < u.scenes.length → (u.thread l.2).helper = false →
    (i = .atoms w ∧ (w.mod = 0 ∨ w.mod = 9) ∧ a = ((u.opnd l.2 w.a).toNat + w.imm.toNat) % 2 ^ 32) ∨
      (i = .cass w ∧ w.mod = 0 ∧ a = ((u.opnd l.2 w.a).toNat + w.imm.toNat) % 2 ^ 32) ∨
      (i = .atomt w ∧ (w.mod = 0 ∨ w.mod = 9) ∧ bitsOf (u.opnd64 l.2 w.a).toNat 63 56 = 0x1F ∧
        a = (u.opnd64 l.2 w.a).toNat % 2 ^ 56 + w.imm.toNat) →
    a % 4 = 0 → a + 4 ≤ sc.alloc + sc.win → sc.spEmpty a 4 = false → sc.spPoisoned a 4 = false → sc.spBad a 4 = false →
    (u.take c.take).holds + bankCycles (spWords 4 [(l.2, a)]) ≤ 64 →
    ∃ t, exec i s = .next t ∧ StandsPast u t c i ∧
      Started u t x [l] [] (allWrites w.d w.nw [(l.2, [BitVec.ofNat 32 old])]) ∧ t.mem = u.mem ∧
      (t.scene x.scene).spNum a 4 = new ∧
      ∀ p, (∀ k < 4, p ≠ sc.spPhys (a + k)) → (t.scene x.scene).sp.read p = sc.sp.read p

/-- `LDG` of one lane returns the bytes of memory at the address that its record and its translation give (R67, R78,
R218): an SC page, or a line of which the core's L1 holds no copy, written where the page is WO, through a record that no
formula is bound to, on a page that no watchpoint watches; an engine's writes of memory have been ordered before the thread
(R97), and the L1 and the L2 have room for a line. The access is performed at issue (log entry 7). -/
def Obligations.GlobalLoads : Prop :=
  ∀ (w : MWord) (s : State) (c : Cur) (l : Nat × Nat) (bits va : Nat) (xl : Xlat), issues (.ldg w) s c = true →
    let u := s.begun c (.ldg w)
    let x := s.atIssue c (.ldg w)
    let n := memBytes w.mod.toNat
    let idx := mIndex u x w
    let q := u.bufRecord (x.req u) idx
    let r := q.2.lineCheck (x.req u) { bits := bits, index := idx } 0 va
    x.lanes = [l] → q.1 = .ok bits → formAddr bits (mOffset u w bits l.2) n = .ok va → r.1 = .ok xl →
    recBound bits = false → xl.watch = false → xl.pkg = u.pkgId → u.linePsn (lineOf xl.pa) = false →
    (xl.cm = 0 ∨ (u.l1Find x.core xl.pkg (lineOf xl.pa) = none ∧ (xl.cm = 2 → u.lineWr (lineOf xl.pa) = true) ∧
      (u.l1.filter fun y => y.core == x.core).length < l1Lines)) →
    mProbe w = false → Sees u (u.threadReader l.2) .mem → u.roomy = true →
    ∃ t, exec (.ldg w) s = .next t ∧ StandsPast u t c (.ldg w) ∧
      Started u t x [l] [] (allWrites w.d w.nw [(l.2, loadWords w.mod.toNat (u.mem.readN xl.pa n))]) ∧ t.mem = u.mem

/-- `STG` of one lane that is no helper puts the low bytes of D at the translated address of an SC or RC page and changes
no other byte of memory (R67, R82, R218), at issue (log entry 7), while a map of the stack's scrub unit is free (R365) and the L2
has room for a line. -/
def Obligations.GlobalStores : Prop :=
  ∀ (w : MWord) (s : State) (c : Cur) (l : Nat × Nat) (bits va : Nat) (xl : Xlat), issues (.stg w) s c = true →
    let u := s.begun c (.stg w)
    let x := s.atIssue c (.stg w)
    let n := memBytes w.mod.toNat
    let idx := mIndex u x w
    let q := u.bufRecord (x.req u) idx
    let r := q.2.lineCheck (x.req u) { bits := bits, index := idx } 1 va
    x.lanes = [l] → (u.thread l.2).helper = false → q.1 = .ok bits →
    formAddr bits (mOffset u w bits l.2) n = .ok va → r.1 = .ok xl →
    recBound bits = false → xl.watch = false → xl.pkg = u.pkgId → u.linePsn (lineOf xl.pa) = false → xl.cm < 2 →
    u.mapsFull (frameOf xl.pa) = false → u.roomy = true → w.mod.toNat < 5 → mProbe w = false →
    ∃ t, exec (.stg w) s = .next t ∧ StandsPast u t c (.stg w) ∧ Started u t x [l] [] [] ∧
      t.mem.num xl.pa n = u.opndN l.2 w.d ((n + 3) / 4) % 2 ^ (8 * n) ∧
      ∀ p, p < xl.pa ∨ xl.pa + n ≤ p → t.mem.read p = u.mem.read p

/-- Global atomics of one lane that is no helper at an SC or RC page return the old value and store the new one (R80,
R224, R225): the wrapped 32-bit sum of `ATOMG.add`, and the second operand of `CASG` where the first matches. The access
is performed at issue (log entry 7), while a map of the stack's scrub unit is free (R365) and the L2 has room for a line. -/
def Obligations.GlobalAtomics : Prop :=
  ∀ (w : MWord) (i : Instr) (s : State) (c : Cur) (l : Nat × Nat) (bits va : Nat) (xl : Xlat),
    i = .atomg w ∨ i = .casg w → issues i s c = true →
    let u := s.begun c i
    let x := s.atIssue c i
    let idx := mIndex u x w
    let q := u.bufRecord (x.req u) idx
    let r := q.2.lineCheck (x.req u) { bits := bits, index := idx } 2 va
    let old := u.mem.num xl.pa 4
    let new := if i = .casg w then
        (if old = (u.opndWord l.2 w.d 0).toNat then (u.opndWord l.2 w.d 1).toNat else old)
      else (old + (u.opnd l.2 w.d).toNat) % 2 ^ 32
    w.mod = 0 → x.lanes = [l] → (u.thread l.2).helper = false → q.1 = .ok bits →
    formAddr bits (mOffset u w bits l.2) 4 = .ok va → r.1 = .ok xl →
    recBound bits = false → xl.watch = false → xl.pkg = u.pkgId → u.linePsn (lineOf xl.pa) = false → xl.cm < 2 →
    u.mapsFull (frameOf xl.pa) = false → u.roomy = true → mProbe w = false →
    ∃ t, exec i s = .next t ∧ StandsPast u t c i ∧
      Started u t x [l] [] (allWrites w.d w.nw [(l.2, [BitVec.ofNat 32 old])]) ∧
      t.mem.num xl.pa 4 = new ∧ ∀ p, p < xl.pa ∨ xl.pa + 4 ≤ p → t.mem.read p = u.mem.read p

/-- A lane's offset that is no multiple of the access width raises ALIGN, and an aligned one whose access goes past EXTENT raises
BOUND, before any access (R67, R218): the thread of a lane that is no helper leaves
its take and stands at the word, memory keeps every byte, and the record names the buffer and the address. The context has no fault
queue, so that the record is held, and neither Sillage nor dailies record (R442, R443). -/
def Obligations.GlobalAddressFaults : Prop :=
  ∀ (w : MWord) (i : Instr) (n : Nat) (s : State) (c : Cur) (l : Nat × Nat) (bits : Nat),
    (i, n) ∈ [(Instr.ldg w, memBytes w.mod.toNat), (Instr.stg w, memBytes w.mod.toNat), (Instr.atomg w, atomBytes w),
      (Instr.casg w, casBytes w)] → issues i s c = true →
    let u := s.begun c i
    let x := s.atIssue c i
    let ctx := (u.scene x.scene).ctx
    let off := mOffset u w bits l.2
    let kind := if off % n ≠ 0 then 5 else 3
    x.lanes = [l] → l.2 < u.threads.length → (u.thread l.2).helper = false → (u.thread l.2).scene = x.scene →
    (u.thread l.2).place = .take c.take →
    ctx < 1024 → (u.ctx ctx).fqBase = 0 → (∀ d < 4, (u.die d).silCfg.toNat % 4 = 0) →
    (u.die (coreDie x.core)).dailyCfg.getLsbD 0 = false → u.held = [] →
    (u.bufRecord (x.req u) (mIndex u x w)).1 = .ok bits → off % n ≠ 0 ∨ recExtent bits < off + n →
    ∃ t, exec i s = .next t ∧ t.mem = u.mem ∧ t.ops = u.ops ∧ (t.thread l.2).pc = c.addr ∧ (t.thread l.2).place = .nowhere ∧
      (t.thread l.2).halted = u.halts ctx kind ∧ (t.thread l.2).parked = !u.halts ctx kind ∧
      ∃ h, t.held = [h] ∧ h.queue = ctx ∧ h.fault.kind = kind ∧ h.fault.buf = mIndex u x w % 2 ^ 16 ∧
        h.fault.va = recBase bits + off ∧ h.fault.detail = 0 ∧ h.fault.tid = (u.thread l.2).tid

/-- `STX` of one lane that is no helper, to a core of its cast on which one member scene has a window, writes the back
bank of that window and nothing else of its store (R73, R222). -/
def Sys2Proof.Claim.ExchangeStores : Prop :=
  ∀ (w : MWord) (s : State) (c : Cur) (l : Nat × Nat) (sc : Nat), issues (.stx w) s c = true →
    let u := s.begun c (.stx w)
    let n := memBytes w.mod.toNat
    let v := ((u.opnd l.2 w.a).toNat + w.imm.toNat) % 2 ^ 32
    let y := u.scene sc
    (s.atIssue c (.stx w)).lanes = [l] → (u.thread l.2).helper = false → w.mod.toNat < 5 → sc < u.scenes.length →
    u.castScenes l.2 (v / 2 ^ 28) = some [sc] → v % 2 ^ 28 + n ≤ y.win → y.bad = [] →
    ∃ t, exec (.stx w) s = .next t ∧ StandsPast u t c (.stx w) ∧ Started u t (s.atIssue c (.stx w)) [l] [] [] ∧
      (∀ k < n, (t.scene sc).sp.read (y.backPhys (v % 2 ^ 28 + k)) = (storeBytes u w l.2).getD k 0) ∧
      (∀ p, (∀ k < n, p ≠ y.backPhys (v % 2 ^ 28 + k)) → (t.scene sc).sp.read p = y.sp.read p) ∧ t.mem = u.mem

/-- `LDK` of one lane inside the constant bank returns the bank's bytes (R62, R220), at issue (log entry 7), through a page that
no watchpoint watches. -/
def Sys2Proof.Claim.ConstantLoads : Prop :=
  ∀ (w : MWord) (s : State) (c : Cur) (l : Nat × Nat) (xl : Xlat) (bs : List Byte), issues (.ldk w) s c = true →
    let u := s.begun c (.ldk w)
    let x := s.atIssue c (.ldk w)
    let sc := u.scene x.scene
    let n := memBytes w.mod.toNat
    let a := (u.opnd l.2 w.a).toNat + w.imm.toNat
    let q := u.translate (x.req u) (sc.kconst + a) false false none
    x.lanes = [l] → a % n = 0 → a + n ≤ sc.kcSize → q.1 = .ok xl → xl.watch = false →
    (q.2.virtRead (x.req u) (sc.kconst + a) n).1 = .ok (bs, false) →
    ∃ t, exec (.ldk w) s = .next t ∧ StandsPast u t c (.ldk w) ∧
      Started u t x [l] [] (allWrites w.d w.nw [(l.2, loadWords w.mod.toNat bs)]) ∧ t.mem = u.mem

/-- A fragment load whose supplying lanes all name good rows starts in every active lane, with a result for each
fragment (R226); the scratchpad is unchanged. Lane l of `LDSM` receives elements (l mod 8, 2 floor(l / 8)) and the one after it in
the row, and of `LDSMT` those of the transposed fragment; the rows of lanes that are not active are zero, and no older bytes of the
scratchpad can be seen. It reads at issue (log entry 7). -/
def Sys2Proof.Claim.FragmentLoads : Prop :=
  ∀ (w : MWord) (i : Instr) (s : State) (c : Cur), i = .ldsm w ∨ i = .ldsmt w → issues i s c = true →
    let u := s.begun c i
    let x := s.atIssue c i
    let sc := u.scene x.scene
    let el := fun (f r k : Nat) => match x.lanes.find? fun (y : Nat × Nat) => y.1 == 4 * r + f with
      | some y => sc.spNum (swz (fragRow u w y.2) (w.mod.toNat / 4) + 2 * k) 2
      | none => 0
    (∀ l ∈ x.lanes, l.1 < 32 ∧ ((∃ f < fragN w, ∃ r < 8, l.1 = 4 * r + f) →
      fragRow u w l.2 % 16 = 0 ∧ fragRow u w l.2 + 16 ≤ sc.alloc + sc.win)) →
    sc.empty = [] → sc.poison = [] → sc.bad = [] → (∀ y ∈ u.olds, y.space ≠ .sp x.scene) →
    (u.take c.take).holds + bankCycles (((List.range (fragN w)).flatMap fun f => (List.range 8).filterMap fun r =>
      (fragLane x f r).map fun l => l).flatMap fun l => (List.range 4).map fun k =>
        swz (fragRow u w l.2) (w.mod.toNat / 4) / 4 + k) ≤ 64 →
    ∃ t ws, exec i s = .next t ∧ StandsPast u t c i ∧ Started u t x x.lanes [] ws ∧ t.scenes = u.scenes ∧ t.mem = u.mem ∧
      (w.nw = false → selClass w.d = .main → ∀ l ∈ x.lanes, ∀ f < fragN w,
        let p := l.1 % 8
        let q := 2 * (l.1 / 8)
        let v := if i = .ldsm w then el f p q + el f p (q + 1) * 2 ^ 16 else el f q p + el f (q + 1) p * 2 ^ 16
        ({ thread := l.2, dest := .v (selReg w.d + f), value := BitVec.ofNat 64 v } : RegWrite) ∈ ws)

/-- `FENCE` starts in its lanes; after it the core's L1 holds no line but those of IP pages, and for a scope of the die or
wider the core's record cache is empty (R66, R84, R227). That copies of WO pages leave the L1 too is the model's choice (log entry
55). -/
def Sys2Proof.Claim.FencesAcquire : Prop :=
  ∀ (w : MWord) (s : State) (c : Cur), issues (.fence w) s c = true →
    let u := s.begun c (.fence w)
    let x := s.atIssue c (.fence w)
    ∃ t, exec (.fence w) s = .next t ∧ StandsPast u t c (.fence w) ∧ Started u t x x.lanes [] [] ∧
      (∀ y ∈ t.l1, y.core = x.core → y.ip = true) ∧
      (2 ≤ w.mod.toNat → ∀ y ∈ t.recCache, y.core ≠ x.core) ∧ t.mem = u.mem ∧ t.scenes = u.scenes

/-- `FENCEX` starts in its lanes; the LSU bit of its before-mask leaves no dirty IP line of the context in the core's L1,
with the LSU bit of its after-mask too it leaves none at all (R75, R93, R228). -/
def Sys2Proof.Claim.FencexWritesBack : Prop :=
  ∀ (w : MWord) (s : State) (c : Cur), issues (.fencex w) s c = true →
    let u := s.begun c (.fencex w)
    let x := s.atIssue c (.fencex w)
    let own := fun (y : L1Line) => y.core = x.core ∧ y.ctx = x.ctx u ∧ y.ip = true
    ∃ t, exec (.fencex w) s = .next t ∧ StandsPast u t c (.fencex w) ∧ Started u t x x.lanes [] [] ∧
      (w.imm.getLsbD 0 = true → ∀ y ∈ t.l1, own y → y.dirty = []) ∧
      (w.imm.getLsbD 0 = true → w.a.getLsbD 0 = true → ∀ y ∈ t.l1, ¬ own y) ∧
      (w.imm.getLsbD 0 = false → t.mem = u.mem)

/-- After a `FENCEX` of scene scope or wider with LSU in its before-mask, the writes of each active lane's thread come
before every operation of a class of the after-mask that the thread starts later, in the scope (R76, R96); where it writes no dirty
line back, every write that was held is held still, with its bytes. -/
def Sys2Proof.Claim.FencexOrders : Prop :=
  ∀ (w : MWord) (s : State) (c : Cur) (th : Nat) (r : Reader), issues (.fencex w) s c = true →
    let u := s.begun c (.fencex w)
    let x := s.atIssue c (.fencex w)
    w.mod ≠ 0 → w.imm.getLsbD 0 = true → 0 < r.cls → r.cls < 7 → w.a.getLsbD r.cls = true →
    th ∈ x.lanes.map Prod.snd → th ∈ r.threads → u.ops.length ≤ r.first →
    (w.mod = 2 → r.die = coreDie (u.scene (u.thread th).scene).core) →
    ∃ t, exec (.fencex w) s = .next t ∧
      (∀ y ∈ t.olds, y.cls = 0 → .thread th ∈ y.owners → y.ordered r = true) ∧
      ((∀ y ∈ u.l1, y.core = x.core → y.dirty = []) → t.olds.length = u.olds.length ∧
        ∀ j < u.olds.length, (t.olds.getD j default).bytes = (u.olds.getD j default).bytes ∧
          (t.olds.getD j default).owners = (u.olds.getD j default).owners)

/-- Without a `FENCEX`, a reader of another class sees a whole granule as it stands or as it stood before a write of it that
is held for it, never a mixture; with every write ordered before it, it sees what stands there (R97). -/
def Sys2Proof.Claim.GranulesAreWhole : Prop :=
  ∀ (s : State) (r : Reader) (g : Nat) (bs : List Byte), bs.length = 16 →
    ((s.seeBytes r (16 * g) bs).1 = bs ∨
      ∃ y ∈ s.olds, y.space = .mem ∧ y.gran = g ∧ y.ordered r = false ∧
        (s.seeBytes r (16 * g) bs).1 = (List.range 16).map fun k => y.bytes.getD k 0) ∧
    (Sees s r .mem → s.seeBytes r (16 * g) bs = (bs, s))

/-- `FESET` of a lane whose lines lie in the allocation leaves every line it names empty and unpoisoned, and the bytes of
the store as they were; `FEQRY` reads the full and the poison bit of each line (R71, R237), each at issue (log entry 7). -/
def Obligations.FullEmptyControl : Prop :=
  ∀ (w : MWord) (i : Instr) (s : State) (c : Cur) (l : Nat × Nat), i = .feset w ∨ i = .feqry w → issues i s c = true →
    let u := s.begun c i
    let x := s.atIssue c i
    let sc := u.scene x.scene
    let a := ((u.opnd l.2 w.a).toNat + w.imm.toNat) / 128 * 128
    let lines := sc.spLines a (128 * (w.mod.toNat + 1))
    x.lanes = [l] → x.scene < u.scenes.length → a + 128 * (w.mod.toNat + 1) ≤ sc.alloc + sc.win →
    ∃ t ws, exec i s = .next t ∧ StandsPast u t c i ∧ Started u t x [l] [] ws ∧ t.mem = u.mem ∧
      (t.scene x.scene).sp = sc.sp ∧
      (i = .feset w → ws = [] ∧ ∀ y ∈ lines, y ∈ (t.scene x.scene).empty ∧ y ∉ (t.scene x.scene).poison) ∧
      (i = .feqry w → t.scenes = u.scenes ∧ ∃ v : Word, ws = allWrites w.d w.nw [(l.2, [v])] ∧
        ∀ k < lines.length, k < 16 → (v.getLsbD k = !(sc.empty.contains (lines.getD k 0)) ∧
          v.getLsbD (16 + k) = sc.poison.contains (lines.getD k 0)))

/-- `BUFQ` of an index past the table, and of a record that is invalid, by its own fields or because its handle is not that of its
binding, gives 0; of a valid record it gives the extent and the element size (R65, R238). -/
def Sys2Proof.Claim.BufqAnswers : Prop :=
  ∀ (w : MWord) (s : State) (c : Cur), issues (.bufq w) s c = true →
    let u := s.begun c (.bufq w)
    let x := s.atIssue c (.bufq w)
    let idx := mIndex u x w
    let answers := fun (v : Nat) => ∃ t, exec (.bufq w) s = .next t ∧ StandsPast u t c (.bufq w) ∧ t.mem = u.mem ∧
      Started u t x x.lanes [] (allWrites w.d w.nw (x.lanes.map fun l => (l.2, [BitVec.ofNat 32 v])))
    (u.bufCntOf (x.req u) ≤ idx → answers 0) ∧
    ∀ r, idx < u.bufCntOf (x.req u) → (u.readRecord (x.req u) idx).1 = .ok r →
      (recBad r = true ∨ (u.readRecord (x.req u) idx).2.recAgrees (x.req u) idx r = false → answers 0) ∧
      (recBad r = false → (u.readRecord (x.req u) idx).2.recAgrees (x.req u) idx r = true →
        (w.mod = 0 → answers (bitsOf r 111 64 % 2 ^ 32)) ∧ (w.mod = 2 → answers (2 ^ bitsOf r 162 160)))

/-- `PGREQ` and `PRFG` start in their lanes, raise no fault in any thread and change no byte of the context's memory
(R239, R240). The context has no fault queue, so that a page request is held, and the core's L1 has no dirty line to write
back (R93). -/
def Sys2Proof.Claim.RequestsAndPrefetches : Prop :=
  ∀ (w : MWord) (i : Instr) (s : State) (c : Cur), i = .pgreq w ∨ i = .prfg w → issues i s c = true →
    let u := s.begun c i
    let x := s.atIssue c i
    x.ctx u < 1024 → (u.ctx (x.ctx u)).fqBase = 0 → (∀ d < 4, (u.die d).silCfg.toNat % 4 = 0) → u.held = [] →
    u.bindings = [] →
    (∀ y ∈ u.l1, y.core = x.core → y.dirty = []) →
    ∃ t, exec i s = .next t ∧ StandsPast u t c i ∧ Started u t x x.lanes [] [] ∧ t.mem = u.mem ∧
      ∀ th, (t.thread th).parked = (u.thread th).parked ∧ (t.thread th).halted = (u.thread th).halted

/-- `WOARM` of one lane that is no helper returns the lines it names to the unwritten state, and keeps their bytes (R86,
R241), at issue (log entry 7). -/
def Obligations.WoarmUnwrites : Prop :=
  ∀ (w : MWord) (s : State) (c : Cur) (l : Nat × Nat) (bits : Nat) (lines : List Nat), issues (.woarm w) s c = true →
    let u := s.begun c (.woarm w)
    let x := s.atIssue c (.woarm w)
    let idx := mIndex u x w
    let q := u.bufRecord (x.req u) idx
    x.lanes = [l] → (u.thread l.2).helper = false → q.1 = .ok bits →
    (armLane q.2 (x.req u) { bits := bits, index := idx } (mOffset u w bits l.2) (w.mod.toNat + 1)).1 = .ok lines →
    ∃ t, exec (.woarm w) s = .next t ∧ StandsPast u t c (.woarm w) ∧ Started u t x [l] [] [] ∧ t.mem = u.mem ∧
      ∀ y ∈ lines, t.lineWr y = false

/-! ## Stepped words, copies -/

/-- `FILL` of a range in at most 16 lines writes its value to every element of its range and to no other byte (R212). -/
def Sys2Proof.Claim.FillWrites : Prop :=
  ∀ (w : TWord) (s : State) (c : Cur) (l : Nat × Nat), acts (.fill w) s c [] l = true →
    let u := s.begun c (.fill w)
    let x := s.atIssue c (.fill w)
    let sc := u.scene x.scene
    let sz := fillBytes w
    let start := (u.opnd l.2 w.a).toNat
    let count := (u.opnd l.2 w.c).toNat
    x.lanes = [l] → x.scene < u.scenes.length → 0 < count → start % 128 + sz * count ≤ 2048 → start % sz = 0 →
    start + sz * count ≤ sc.alloc + sc.win → sc.bad = [] →
    ∃ t, exec (.fill w) s = .next t ∧ StandsPast u t c (.fill w) ∧ t.mem = u.mem ∧
      (∀ k < count, (t.scene x.scene).spNum (start + sz * k) sz = (u.opnd l.2 w.b).toNat % 2 ^ (8 * sz)) ∧
      (∀ p, (∀ k < sz * count, p ≠ sc.spPhys (start + k)) → (t.scene x.scene).sp.read p = sc.sp.read p) ∧
      ∀ k, k ≠ x.scene → t.scene k = u.scene k

/-- `LOOPN` over aligned arrays inside the scratchpad, with no line empty, poisoned or in error, completes where it has at
most 16 iterations, and goes on inside its steps where it has more (R34, R209, R210); one iteration on unsigned 32-bit
elements writes the wrapped sum (R207). -/
def Sys2Proof.Claim.LoopNests : Prop :=
  ∀ (w : LWord) (s : State) (c : Cur) (rep : Nat × Nat), acts (.loopn w) s c [] rep = true →
    let u := s.begun c (.loopn w)
    let x := s.atIssue c (.loopn w)
    let sc := u.scene x.scene
    let sz := elemBytes w.typ.toNat
    let base := fun (o : Nat) => (sc.uniReg ([w.sd, w.sa, w.sb].getD o 0).toNat).toNat
    x.scene < u.scenes.length → sc.empty = [] → sc.poison = [] → sc.bad = [] →
    Sees u (u.takeReader (x.lanes.map Prod.snd)) (.sp x.scene) →
    (∀ o < 3, base o % sz = 0 ∧ 0 ≤ nestLowest w (base o) o ∧
      nestHighest w (base o) o + sz ≤ ((sc.alloc + sc.win : Nat) : Int)) →
    ∃ t, exec (.loopn w) s = .next t ∧ t.mem = u.mem ∧ t.ops.length = u.ops.length + 1 ∧
      (if nestTotal w ≤ 16 then StandsPast u t c (.loopn w) else StandsIn u t c) ∧
      (∀ k, k ≠ x.scene → t.scene k = u.scene k) ∧
      (nestTotal w = 1 → w.typ = 4 → w.eop = 1 → w.flags = 0 →
        (t.scene x.scene).spNum (base 0) 4 = (sc.spNum (base 1) 4 + sc.spNum (base 2) 4) % 2 ^ 32 ∧
        ∀ p, (∀ k < 4, p ≠ sc.spPhys (base 0 + k)) → (t.scene x.scene).sp.read p = sc.sp.read p)

/-- `CPY` of one lane that is no helper starts as a copy of its element between the scratchpad address in D and its offset
of the buffer (R231); what it moves is moved line by line later. -/
def Sys2Proof.Claim.LaneCopiesStart : Prop :=
  ∀ (w : MWord) (s : State) (c : Cur) (l : Nat × Nat) (bits : Nat), issues (.cpy w) s c = true →
    let u := s.begun c (.cpy w)
    let x := s.atIssue c (.cpy w)
    let n := 4 * 2 ^ (w.mod.toNat % 4)
    let out := w.mod.getLsbD 2
    let idx := mIndex u x w
    let q := u.bufRecord (x.req u) idx
    x.lanes = [l] → (u.thread l.2).helper = false → q.1 = .ok bits →
    cpyLaneFault (u.scene x.scene) bits (u.opnd l.2 w.d).toNat (mOffset u w bits l.2) n = none →
    recAllows (x.ctx u) bits (if out then 1 else 0) = true →
    ∃ t, exec (.cpy w) s = .next t ∧ StandsPast u t c (.cpy w) ∧ t.mem = u.mem ∧ t.scenes = u.scenes ∧
      Started u t x [l] [0, bits, idx % 2 ^ 16, if out then 1 else 0, n, (u.opnd l.2 w.d).toNat, mOffset u w bits l.2] []

/-- `CPYB` with a good record and descriptor whose tile lies in the scratchpad starts as a copy of the tile; its take goes
on after 16 rows (R34, R232, R233). -/
def Sys2Proof.Claim.BulkCopiesStart : Prop :=
  ∀ (w : MWord) (s : State) (c : Cur) (rep : Nat × Nat) (r : Nat), acts (.cpyb w) s c [] rep = true →
    let u := s.begun c (.cpyb w)
    let x := s.atIssue c (.cpyb w)
    let d := descOf (u.scene x.scene) w.s.toNat
    let q := bulkCheck x u d false
    q.1 = .ok r → tdSpa d + tdExtent d r ≤ (u.scene x.scene).alloc + (u.scene x.scene).win →
    Begins (.cpyb w) s c (q.2.dailyTick x.core (x.ctx q.2)).2 [16, r, tdBuf d, if tdDir d then 1 else 0, d]
      (tdNz d * tdNy d ≤ 16)

/-- `CPYM` (R235, R236): with no bit of its mask set it copies nothing; to member cores with a free slot it starts as a copy
to them and takes one slot of each. -/
def Sys2Proof.Claim.MulticastsStart : Prop :=
  ∀ (w : MWord) (s : State) (c : Cur) (rep : Nat × Nat) (r i own : Nat), acts (.cpym w) s c [] rep = true →
    let u := s.begun c (.cpym w)
    let x := s.atIssue c (.cpym w)
    let d := descOf (u.scene x.scene) w.s.toNat
    let mask := u.opnd rep.2 w.a
    let q := bulkCheck x u d true
    let nums := (List.range 16).filter fun n => mask.getLsbD n
    let k := u.cast i
    (mask.setWidth 16 = 0#16 → ∃ t, exec (.cpym w) s = .next t ∧ StandsPast u t c (.cpym w) ∧ t.mem = u.mem ∧
      t.casts = u.casts ∧ Started u t x x.lanes [16, 0, 0, 0, 0] []) ∧
    (mask.setWidth 16 ≠ 0#16 → u.castOf rep.2 = some i → k.numOf x.core = some own →
      (∀ n ∈ nums, (k.coreOf n).isSome ∧ k.freeOf own n ≠ 0) → q.1 = .ok r →
      ∃ t, exec (.cpym w) s = .next t ∧ t.mem = u.mem ∧
        Started u t x x.lanes ([16, r, tdBuf d, 0, d, i, nums.length] ++ nums) [] ∧
        (if tdNz d * tdNy d ≤ 16 then StandsPast u t c (.cpym w) else StandsIn u t c) ∧
        ∀ n < 16, (t.cast i).freeOf own n = if n ∈ nums then k.freeOf own n - 1 else k.freeOf own n)

/-- `SLOTRET` gives back one slot of a member core's counter, which stays at most 15 (R236). -/
def Sys2Proof.Claim.SlotReturns : Prop :=
  ∀ (w : MWord) (s : State) (c : Cur) (l : Nat × Nat) (i own : Nat), issues (.slotret w) s c = true →
    let u := s.begun c (.slotret w)
    let x := s.atIssue c (.slotret w)
    let from1 := (u.opnd l.2 w.a).toNat % 16
    x.lanes.head? = some l → (u.thread l.2).helper = false → u.castOf l.2 = some i →
    ((u.cast i).coreOf from1).isSome → (u.cast i).numOf x.core = some own →
    ∃ t, exec (.slotret w) s = .next t ∧ StandsPast u t c (.slotret w) ∧ Started u t x x.lanes [] [] ∧ t.mem = u.mem ∧
      (t.cast i).freeOf from1 own = min 15 ((u.cast i).freeOf from1 own + 1) ∧
      ∀ k, k ≠ i → t.cast k = u.cast k

/-! ## Operand slots and the matrix array -/

/-- Slots (R268, R272, R273): `OPCLM` claims the lowest unclaimed reserved slot and gives its number, or all ones; `OPREL`,
`OPLD` and `OPLDG` start with a claimed slot and the lines that their operands name. -/
def Obligations.OperandSlots : Prop :=
  ∀ (w : TWord) (i : Instr) (s : State) (c : Cur) (rep : Nat × Nat),
    let u := s.begun c i
    let x := s.atIssue c i
    let sc := u.scene x.scene
    let slot := (u.opnd rep.2 w.a).toNat
    x.scene < u.scenes.length → sc.slots ≤ sc.oslots.length → seqFull u x.core = false →
    (i = .opclm w → acts i s c [] rep = true → ∃ t, exec i s = .next t ∧ StandsPast u t c i ∧ t.mem = u.mem ∧
      match (List.range sc.slots).find? fun n => !(sc.slot n).claimed with
      | some n => Started u t x x.lanes [0, n] (sameWrites w.d w.nw x.lanes [BitVec.ofNat 32 n]) ∧
          ((t.scene x.scene).slot n).claimed = true ∧ ∀ k, k ≠ n → (t.scene x.scene).slot k = sc.slot k
      | none => Started u t x x.lanes [0, 0] (sameWrites w.d w.nw x.lanes [0xFFFFFFFF]) ∧ t.scenes = u.scenes) ∧
    (slotCause u x.scene slot false = none →
      (i = .oprel w → acts i s c [(w.a, 1)] rep = true → Starts i s c u [0, slot] []) ∧
      ∀ first n, lineCtl (u.opnd rep.2 w.c).toNat = some (first, n) →
        (i = .opld w → acts i s c [(w.a, 1), (w.b, 1), (w.c, 1)] rep = true → (u.opnd rep.2 w.b).toNat % 128 = 0 →
          (u.opnd rep.2 w.b).toNat + 128 * n ≤ sc.alloc + sc.win →
          Starts i s c u [0, slot, first, n, (u.opnd rep.2 w.b).toNat] []) ∧
        (i = .opldg w → acts i s c [(w.a, 1), (w.c, 1)] rep = true →
          let p := uniPair sc w.b
          let q := u.bufRecord (x.req u) p.1
          ∀ r, p.2 % 128 = 0 → q.1 = .ok r → recAllows (x.ctx u) r 0 = true → p.2 + 128 * n ≤ recExtent r →
            Starts i s c q.2 [0, slot, first, n, r, p.1, p.2] []))

/-- The words of the matrix array start, in a scene that has it, with the slot and the rows that their operands name (R270,
R271, R274 to R276); a stream or a drain of more than 16 rows stays in its steps (R34). Of the drains `.i8` alone has the operand C. -/
def Obligations.MatrixArray : Prop :=
  ∀ (w : TWord) (i : Instr) (s : State) (c : Cur) (rep : Nat × Nat),
    let u := s.begun c i
    let x := s.atIssue c i
    let sc := u.scene x.scene
    let slot := (u.opnd rep.2 w.a).toNat
    let rows := (u.opnd rep.2 w.b).toNat
    seqFull u x.core = false → streamBusy u x.core x.tk = false → sc.arr = true →
    (slotCause u x.scene slot true = none →
      (i = .wlatch w → acts i s c [(w.a, 1)] rep = true → Starts i s c u [0, slot] []) ∧
      (i = .mstream w ∨ i = .mlut w → acts i s c [(w.a, 1), (w.b, 1)] rep = true →
        ∀ s0 n a0, rowCtl rows true = some (s0, n, a0) → Begins i s c u [16, slot, s0, n, a0] (n ≤ 16))) ∧
    ∀ s0 n a0, rowCtl rows false = some (s0, n, a0) →
      (i = .mzero w → acts i s c [(w.b, 1)] rep = true → Starts i s c u [0, 0, 0, n, a0] []) ∧
      (i = .mdrain w → acts i s c ((w.b, 1) :: if w.mod.toNat % 4 = 2 then [(w.c, 1)] else []) rep = true →
        let p := uniPair sc w.a
        p.1 % 128 = 0 → p.1 + 256 * outBytes (w.mod.toNat % 4) * n ≤ sc.alloc + sc.win →
        (w.mod.getLsbD 2 = true → p.2 % 128 = 0 ∧ p.2 + 1024 ≤ sc.alloc + sc.win) →
        Begins i s c u [16, 0, p.1, n, a0, p.2, (u.opnd rep.2 w.c).toNat] (n ≤ 16))

/-! ## Tasks, Accords, surfaces, passes and motion -/

/-- The task instructions start in their lanes, each lane that is no helper with its arguments (R288, R289): `TASKPUT.resv`
for 1 to 64 records, `TASKPUT.commit` with 64 good bytes of the scratchpad, `TASKPUT.free` with a record of the area,
`TASKARM` and `TASKARM.dec` with any, each lane's a release of what its thread has written before (R287). The core's task
sequencer has room (R270). -/
def Sys2Proof.Claim.TaskWords : Prop :=
  ∀ (w : TWord) (i : Instr) (s : State) (c : Cur), issues i s c = true →
    let u := s.begun c i
    let x := s.atIssue c i
    let sc := u.scene x.scene
    let live := x.lanes.filter fun l => !(u.thread l.2).helper
    let a := fun (l : Nat × Nat) => (u.opnd l.2 w.a).toNat
    let b := fun (l : Nat × Nat) => (u.opnd l.2 w.b).toNat
    let cnt := (u.ctx (x.ctx u)).taskCnt
    seqFull u x.core = false →
    (i = .taskputResv w → (∀ l ∈ live, 1 ≤ a l ∧ a l ≤ 64) → Starts i s c u (live.map a) []) ∧
    (i = .taskputFree w → (∀ l ∈ live, a l < cnt) → Starts i s c u (live.map a) []) ∧
    (i = .taskarm w ∨ i = .taskarmDec w → ∃ v args, Starts i s c v args [] ∧
      ({ v with olds := u.olds, markCtr := u.markCtr } : State) = u ∧ args.length = 2 * live.length ∧
      ∀ k < live.length, args.getD (2 * k) 0 = a (live.getD k default)) ∧
    (i = .taskputCommit w → sc.empty = [] → sc.poison = [] → sc.bad = [] → u.tracks = [] →
      (∀ l ∈ live, Sees u (u.threadReader l.2) (.sp x.scene)) →
      (∀ l ∈ live, a l % 64 = 0 ∧ a l + 64 ≤ sc.alloc + sc.win ∧ b l < (u.ctx sc.ctx).taskCnt) →
      Starts i s c u (live.flatMap fun l => [b l, leNat (sc.spRead (a l) 64)]) [])

/-- `TASKQRY` of one lane (R290): all ones for an index past the task area; otherwise the state, or the predecessor count,
of the record; and `.free` the number of records that are free. The core's task sequencer has room (R270). -/
def Sys2Proof.Claim.TaskQueries : Prop :=
  ∀ (w : TWord) (s : State) (c : Cur) (l : Nat × Nat), issues (.taskqry w) s c = true →
    let u := s.begun c (.taskqry w)
    let x := s.atIssue c (.taskqry w)
    let k := (u.opnd l.2 w.a).toNat
    let v := u.acquireL1 x.core
    let q := v.taskLoad x l.2 k
    let after := fun (z : State) => x.useExemption z fun th => th == l.2
    x.lanes = [l] → seqFull u x.core = false →
    (w.mod = 2 → ∀ sts z, v.taskStates (fun s k => s.taskLoad x l.2 k) (u.ctx (x.ctx u)).taskCnt = (.ok sts, z) →
      Starts (.taskqry w) s c (after z) [] (allWrites w.d w.nw [(l.2, [BitVec.ofNat 32 (sts.count 0)])])) ∧
    (w.mod.toNat < 2 → (u.ctx (x.ctx u)).taskCnt ≤ k → Starts (.taskqry w) s c (after v) [] (allWrites w.d w.nw [(l.2, [0xFFFFFFFF])])) ∧
    ∀ h, w.mod.toNat < 2 → k < (u.ctx (x.ctx u)).taskCnt → q.1 = .ok h → Starts (.taskqry w) s c (after q.2) []
      (allWrites w.d w.nw [(l.2, [if w.mod = 0 then BitVec.ofNat 32 (h / 2 ^ 8 % 2 ^ 8) else BitVec.ofNat 32 (h / 2 ^ 32 % 2 ^ 32)])])

/-- The Accord instructions start where their record is the context's (R302 to R307): `ACBIND` with the image that it has
read at issue (log entries 7 and 33), or, at an unwritten line of a WO page, in the wait of its read (R89), `ACUNBIND`, `ACPARAM` of
a bound direction, and `ACQRY`. -/
def Obligations.Accords : Prop :=
  ∀ (w : TWord) (i : Instr) (s : State) (c : Cur) (rep : Nat × Nat),
    let u := s.begun c i
    let x := s.atIssue c i
    let k := (u.opnd rep.2 w.a).toNat
    let me := u.accordRecord (x.req u) k
    ∀ r, me.1 = .ok r →
    (i = .acunbind w → acts i s c [(w.a, 1)] rep = true → Starts i s c me.2 [k] []) ∧
    (i = .acqry w → acts i s c [(w.a, 1)] rep = true → r.isSome → Starts i s c me.2 [k] []) ∧
    (i = .acparam w → acts i s c [(w.a, 1), (w.b, 1), (w.c, 1)] rep = true → r.isSome →
      ∀ j, me.2.bindingOf (x.req u) k = some j →
        (if w.mod.getLsbD 0 then (me.2.binding j).wr.isSome else (me.2.binding j).rd.isSome) = true →
        (u.opnd rep.2 w.b).toNat ≤ 7 → Starts i s c me.2 [k, (u.opnd rep.2 w.b).toNat, (u.opnd rep.2 w.c).toNat] []) ∧
    (i = .acbind w → acts i s c [(w.a, 1)] rep = true →
      let p := uniPair (u.scene x.scene) w.b
      let q := me.2.bufRecord (x.req u) p.1
      let er : Req := { engineReq (x.ctx u) x.core with who := some (u.nextReader x.scene (x.lanes.map Prod.snd) 4) }
      ∀ bits, q.1 = .ok bits →
        let im := q.2.readImage er { bits := bits, index := p.1 } p.2
        (∀ bs, im.1 = .read bs → Starts i s c im.2 [k, bs.length, leNat bs] []) ∧
        ∀ v, im.1 = .wait v → ∃ t o, exec i s = .next t ∧ StandsPast im.2 t c i ∧ t.ops = im.2.ops ++ [o] ∧ o.instr = i ∧
          o.wo = some v ∧ o.done = false ∧ o.args = [k, 0, 0, bits, p.1, p.2] ∧ t.mem = im.2.mem)

/-- A surface instruction of one lane that is no helper, whose surface and coordinates pass its checks, starts with the
value that it has found for D; what it stores or installs has come about at issue (R326 to R330, R339). `SQRY` gives 0 for an
invalid header. Where the unit holds an earlier instruction of the thread, or the image of an `SSTC` stands in an empty line,
the instruction starts and waits in the unit with its operands (R71, R329, R332, log entry 78). -/
def Sys2Proof.Claim.SurfaceWords : Prop :=
  ∀ (w : TWord) (i : Instr) (s : State) (c : Cur) (l : Nat × Nat),
    i ∈ [Instr.sld w, .sst w, .sstc w, .sstmv w, .sstmvHint w, .sqry w] → issues i s c = true →
    let u := s.begun c i
    let x := s.atIssue c i
    let sl := surfLane w u l
    let r := x.surfaceReq u
    let buf := surfIndex u x w
    let rights := if i = .sld w ∨ i = .sqry w then 1 else 3
    let v := if i = .sld w ∧ w.xm.getLsbD 2 = true then u.acquireL1 x.core else u
    let q := (openSurf r buf rights).run v
    let waits := ¬ (u.surfAhead u.ops.length [l.2] = [] ∧ u.surfEmpty i x.scene [sl] = [])
    let toD := fun (n : Nat) => allWrites w.d w.nw [(l.2, [BitVec.ofNat 32 n])]
    x.lanes = [l] → (u.thread l.2).helper = false →
    (waits → Starts i s c u [buf, sl.th, sl.b, sl.c, sl.d] []) ∧
    (¬ waits →
      (∀ y n z, q.1 = .ok y →
        (i = .sld w → (sldLane w y sl).run q.2 = (.ok n, z) → Starts i s c z [] (toD n)) ∧
        (i = .sst w → sstLanes w q.2 y [sl] = ([(l.2, .ok n)], z) → Starts i s c z [] []) ∧
        (i = .sstc w → sstcLanes w q.2 r.by x.scene y [sl] = ([(l.2, .ok n)], z) → Starts i s c z [] []) ∧
        (i = .sstmv w → (sstmvLane w false y sl).run q.2 = (.ok n, z) → Starts i s c z [] []) ∧
        (i = .sstmvHint w → (sstmvLane w true y sl).run q.2 = (.ok n, z) → Starts i s c z [] [])) ∧
      (i = .sqry w →
        let h := (readSurf r buf 1).run u
        (h.1 = .ok none → Starts i s c h.2 [] (toD 0)) ∧
        ∀ y n z, h.1 = .ok (some y) → (sqryLane w y sl).run h.2 = (.ok n, z) → Starts i s c z [] (toD n)))

/-- The surface instructions that act once for the take start when their checks pass (R333, R334, R338): with nothing of the
take's threads waiting in the unit, `SSEAL.open` has opened the surface, `SSEAL.seal` leaves a seal to be coded, and `SMAT` its tiles to be materialised. -/
def Sys2Proof.Claim.SurfaceOnceWords : Prop :=
  ∀ (w : TWord) (i : Instr) (s : State) (c : Cur) (rep : Nat × Nat),
    let u := s.begun c i
    let x := s.atIssue c i
    let buf := surfIndex u x w
    (i = .ssealOpen w → acts i s c [] rep = true → u.surfAhead u.ops.length (x.lanes.map Prod.snd) = [] → ∀ y z,
      (openSurf (x.surfaceReq u) buf 3).run u = (.ok y, z) → ∀ z2,
      (y.reopen ((List.range 4).map fun k => ((u.scene x.scene).uniReg (selReg w.b + k)).toNat % 2 ^ 16)).run z = (.ok (), z2) →
      Starts i s c z2 [] []) ∧
    (i = .ssealSeal w → acts i s c [(w.b, 1)] rep = true → u.surfAhead u.ops.length (x.lanes.map Prod.snd) = [] → ∀ z,
      (sealStart (x.surfaceReq u) buf (u.opnd rep.2 w.b).toNat).run u = (.ok (), z) →
      ∃ t j, exec i s = .next t ∧ StandsPast z t c i ∧ Started z t x x.lanes [buf, (u.opnd rep.2 w.b).toNat] [] ∧
        t.seals = z.seals ++ [j] ∧ j.buf = buf ∧ j.issuer = some z.ops.length ∧ j.done = false ∧ t.mem = z.mem) ∧
    (i = .smat w → acts i s c [(w.b, 1), (w.c, 1)] rep = true → ∀ y z,
      (openSurf (x.surfaceReq u) buf 3).run u = (.ok y, z) → y.state ≠ 0 → y.state ≠ 2 →
      (u.opnd rep.2 w.b).toNat + (u.opnd rep.2 w.c).toNat < y.nt →
      Starts i s c z [buf, (u.opnd rep.2 w.b).toNat, (u.opnd rep.2 w.c).toNat] [])

/-- The instructions of render passes start when their checks pass (R343, R344): an opened pass gives its status, a closed
one takes no more triangles, and a triangle of one lane has been taken or dropped. `VISQ` outside a pixel scene gives all
ones, or a NaN for its field 2 (R348). -/
def Sys2Proof.Claim.PassWords : Prop :=
  ∀ (w : TWord) (i : Instr) (s : State) (c : Cur) (rep : Nat × Nat),
    let u := s.begun c i
    let x := s.atIssue c i
    let buf := passIndex u x w
    (i = .primemitOpen w → acts i s c [] rep = true → ∀ st z,
      (passOpen (x.surfaceReq u) buf x.scene x.core (u.scene x.scene).part).run u = (.ok st, z) →
      Starts i s c z [] (sameWrites w.d w.nw x.lanes [BitVec.ofNat 32 st])) ∧
    (i = .primemitClose w → acts i s c [] rep = true → ∀ p z k z2,
      (openPass (x.surfaceReq u) buf).run u = (.ok p, z) → p.state = 1 → (p.put 2 p.prims p.drops).run z = (.ok (), z2) →
      z2.passOf (x.ctx u) buf = some k →
      ∃ t, exec i s = .next t ∧ StandsPast z2 t c i ∧ Started z2 t x x.lanes [] [] ∧ (t.pass k).state = 2 ∧ t.mem = z2.mem) ∧
    (i = .primemitTri w → issues i s c = true → x.lanes = [rep] → (u.thread rep.2).helper = false → ∀ n z,
      (emitTri (x.surfaceReq u) buf ((List.range 10).map fun k => (u.opndWord rep.2 w.b k).toNat)).run u = (.ok n, z) →
      Starts i s c z [] []) ∧
    (i = .visq w → issues i s c = true → (∀ l ∈ x.lanes, (u.scene (u.thread l.2).scene).pass = none) →
      Starts i s c u [] (allWrites w.d w.nw (x.lanes.map fun l => (l.2, [if w.mod = 2 then 0x7FC00000 else 0xFFFFFFFF]))))

/-- `MVEREQ` whose checks pass, with fewer than 64 requests in the die's queue, queues a request of its context and gives
its ticket, the number of the context's earlier requests on the die (R350, R352); `MVEQRY` starts with the field that it
reads. -/
def Sys2Proof.Claim.MotionWords : Prop :=
  ∀ (w : TWord) (i : Instr) (s : State) (c : Cur) (rep : Nat × Nat),
    let u := s.begun c i
    let x := s.atIssue c i
    let die := coreDie x.core
    let d := descOf (u.scene x.scene) (selReg w.a)
    let mine := (List.range u.mveReqs.length).filter fun k =>
      (u.mveReqs.getD k default).ctx == x.ctx u && (u.mveReqs.getD k default).die == die && (u.mveReqs.getD k default).node.isNone
    (i = .mvereq w → acts i s c [] rep = true → ∀ y g z, (mveCheck (x.surfaceReq u) d).run u = (.ok (y, g), z) →
      mveOutFault (u.scene x.scene) d = none →
      (u.mveReqs.filter fun r => r.die == die && r.state == 0).length < 64 →
      ∃ t r, exec i s = .next t ∧ StandsPast z t c i ∧ t.mem = z.mem ∧
        Started z t x x.lanes [d, u.mveReqs.length] (sameWrites w.d w.nw x.lanes [BitVec.ofNat 32 mine.length]) ∧
        t.mveReqs = z.mveReqs ++ [r] ∧ r.die = die ∧ r.ctx = x.ctx u ∧ r.desc = d ∧ r.state = 0 ∧
        r.ticket = mine.length % 2 ^ 32) ∧
    (i = .mveqry w → issues i s c = true → Starts i s c u [] (allWrites w.d w.nw (x.lanes.map fun l =>
      (l.2, [BitVec.ofNat 32 (mveField u (x.ctx u) die w.mod.toNat (u.opnd l.2 w.a).toNat)]))))

/-! ## Privileged instructions -/

/-- The privileged instructions start in their take when their operands pass their checks, with those operands (R397, R399,
R400, R403, R405 to R410, R412, R413); their effects come about where they complete. -/
def Obligations.PrivilegedStart : Prop :=
  ∀ (w : TWord) (s : State) (c : Cur) (rep : Nat × Nat),
    let a := fun (u : State) => (u.opnd rep.2 w.a).toNat
    let b := fun (u : State) => (u.opnd rep.2 w.b).toNat
    let n := fun (u : State) => (u.opnd rep.2 w.c).toNat
    let a2 := fun (u : State) => u.opndN rep.2 w.a 2
    let b2 := fun (u : State) => u.opndN rep.2 w.b 2
    let k := if w.mod = 1 then 2 else 1
    let v := fun (u : State) => u.opndN rep.2 w.c k
    let go := fun (i : Instr) (ops : List (Sel × Nat)) (args : State → List Nat) (ok : State → WordCtx → Prop) =>
      acts i s c ops rep = true → ok (s.begun c i) (s.atIssue c i) → Starts i s c (s.begun c i) (args (s.begun c i)) []
    let A := (w.a, 1)
    let B := (w.b, 1)
    let C := (w.c, 1)
    let two := fun (u : State) => [a u, b u]
    go (.rdsys w) [A, B] two (fun u _ => sysCheck (a u) (b u) (32 * k) = none) ∧
    go (.wrsys w) [A, B, (w.c, k)] (fun u => [a u, b u, v u]) (fun u x =>
      sysCheck (a u) (b u) (32 * k) = none ∧ u.sysFault (coreDie x.core) (a u) (b u) (v u) = none) ∧
    go (.waitev w) [A, B] (fun u =>
      let now := (u.die (coreDie (u.take c.take).core)).evPend.toNat &&& a u
      two u ++ if now = 0 then [] else [now]) (fun _ _ => True) ∧
    go (.frpop w) [A, B, C] (fun u => [a u, b u, n u]) (fun u x => a u ≤ 0x401 ∧ b u % 32 = 0 ∧ 1 ≤ n u ∧ n u ≤ 64 ∧
      b u + 32 * n u ≤ (u.scene x.scene).alloc) ∧
    go (.resumeScn w) [A, B] two (fun _ _ => True) ∧ go (.swapout w) [A, B] two (fun _ _ => True) ∧
    go (.swapin w) [A, B, C] (fun u => [a u, b u, n u]) (fun _ _ => True) ∧
    go (.scenekill w) [A, B] two (fun _ _ => True) ∧ go (.haltb w) [A, B] two (fun _ _ => True) ∧
    go (.drain w) [A, B] (fun u => a u :: b u :: if 1024 ≤ a u then [] else u.opsOf (u.scenesNamed (a u) (b u)))
      (fun _ _ => True) ∧
    go (.drainAbandon w) [A, B] (fun u => a u :: b u :: if 1024 ≤ a u then [] else u.opsOf (u.scenesNamed (a u) (b u)))
      (fun _ _ => True) ∧
    go (.tlbinvCtx w) [A] (fun u => [a u]) (fun u _ => a u ≤ 1023) ∧
    go (.tlbinvRange w) [A, (w.b, 2), C] (fun u => [a u, b2 u, n u])
      (fun u _ => a u ≤ 1023 ∧ b2 u % 65536 = 0 ∧ b2 u < 2 ^ 57 ∧ n u ≠ 0) ∧
    go (.retype w) [(w.a, 2), B] (fun u => [a2 u, b u]) (fun _ _ => True) ∧
    go (.ptwr w) [(w.a, 2), (w.b, 2)] (fun u => [a2 u, b2 u])
      (fun u _ => a2 u % 8 = 0 ∧ a2 u < 0x8000000000 ∧ u.frameTag (a2 u / 65536) % 4 = 0)

/-- `RESUME.rec`, `HASHVER`, `DUMP` and `RETI` (R404, R406, R411, R413): the first two start with the records or the masks
that they read at issue (log entries 7 and 39), `HASHVER` in the wait of its read where that meets an unwritten line of a WO page
(R89, log entry 74); a `DUMP` of what cannot be dumped gives its status and no bytes, and one that can writes its length, as one step
(log entry 40); `RETI` in a handler clears its event's bits, and its threads exit. -/
def Obligations.PrivilegedReads : Prop :=
  ∀ (w : TWord) (i : Instr) (s : State) (c : Cur) (rep : Nat × Nat),
    let u := s.begun c i
    let x := s.atIssue c i
    let sc := u.scene x.scene
    let a := (u.opnd rep.2 w.a).toNat
    let b := (u.opnd rep.2 w.b).toNat
    let n := (u.opnd rep.2 w.c).toNat
    (i = .resumeRec w → acts i s c [(w.a, 1), (w.b, 1), (w.c, 1)] rep = true → b % 32 = 0 → 1 ≤ n → n ≤ 64 →
      b + 32 * n ≤ sc.alloc → sc.empty = [] → sc.poison = [] → sc.bad = [] → u.tracks = [] →
      Sees u (u.threadReader rep.2) (.sp x.scene) →
      Starts i s c u (a :: (List.range n).map fun k => sc.spNum (b + 32 * k) 32) []) ∧
    (i = .hashver w → acts i s c [(w.a, 2)] rep = true → ∀ bits bs,
      let off := (u.opndWord rep.2 w.a 1).toNat
      let q := u.bufRecord (x.req u) (u.opndWord rep.2 w.a 0).toNat
      let v := q.2.engineSpan { x.req u with who := some (u.threadReader rep.2) }
        { bits := bits, index := (u.opndWord rep.2 w.a 0).toNat } (recBase bits + off) 416
      q.1 = .ok bits → off % 8 = 0 → off + 416 ≤ recExtent bits → recAllows (x.ctx u) bits 0 = true →
      (v.1 = .ok bs false → Starts i s c v.2 ((List.range 52).map fun k => leNat ((bs.drop (8 * k)).take 8)) []) ∧
      ∀ wo, v.1 = .wait wo → ∃ t o, exec i s = .next t ∧ StandsPast v.2 t c i ∧ t.ops = v.2.ops ++ [o] ∧ o.instr = i ∧
        o.wo = some wo ∧ o.done = false ∧ o.args = [bits, (u.opndWord rep.2 w.a 0).toNat, off] ∧ t.mem = v.2.mem) ∧
    (i = .dump w → acts i s c [(w.a, 1), (w.b, 1), (w.c, 2)] rep = true →
      (u.dumpStatus a b ≠ 0 → Starts i s c u [] (sameWrites w.d w.nw x.lanes [BitVec.ofNat 32 (u.dumpStatus a b), 0])) ∧
      ∀ bits v,
        let p := ((u.opndWord rep.2 w.c 0).toNat, (u.opndWord rep.2 w.c 1).toNat)
        let q := u.bufRecord (x.req u) p.1
        let bs := u.dumpBytes ((u.sceneById a b).getD 0)
        let r : Req := { x.req u with who := some (u.threadReader rep.2) }
        let ref : BufRef := { bits := bits, index := p.1 }
        u.dumpStatus a b = 0 → q.1 = .ok bits → p.2 % 128 = 0 → recAllows (x.ctx u) bits 1 = true →
        p.2 + bs.length ≤ recExtent bits → q.2.dumpTarget r ref (recBase bits + p.2) bs.length a = (none, v) →
        ∃ t, exec i s = .next t ∧ t.mem = (v.dumpWrite r ref (recBase bits + p.2) bs).mem ∧
          ∃ o, t.ops = (v.dumpWrite r ref (recBase bits + p.2) bs).ops ++ [o] ∧
            o.writes = sameWrites w.d w.nw x.lanes [0, BitVec.ofNat 32 bs.length]) ∧
    (i = .reti w → acts i s c [(w.a, 1)] rep = true → sc.handler.isSome → x.core < 256 →
      ∃ t, exec i s = .next t ∧ (∀ l ∈ x.lanes, l.2 < u.threads.length → (t.thread l.2).exited = true) ∧
        (t.die (coreDie x.core)).evSvc = (u.die (coreDie x.core)).evSvc &&& ~~~(u.opnd rep.2 w.a) ∧
        (t.die (coreDie x.core)).evPend = (u.die (coreDie x.core)).evPend &&& ~~~(u.opnd rep.2 w.a) ∧ t.mem = u.mem)

/-! ## Steps that are no instruction -/

/-- CLAUSE_START (R33, R34, R57, R131, R132, R439): the ready take of highest priority takes a pipe that is free, or one that a
stepped word between two steps leaves; where there is no such take or no such pipe, nothing happens. One that waits at a clause
without a fault or a break starts it at word 0 with its latches at zero; a suspended one goes on at its word. A clause that
breaks the rules of R131, or holds a privileged opcode on a core that is no Director, stops every lane at the slate, and the
take takes no pipe. A lane whose step is over, or that stands at a breakpoint, halts there. -/
def Obligations.ClauseStarts : Prop :=
  ∀ (s : State) (core bay : Nat) (pipe : Bool),
    (s.bestTake core bay = none → exec (.clauseStart core bay pipe) s = .next s) ∧
    (∀ k, s.bestTake core bay = some k → s.pipeBusy core bay pipe = true → s.leavable core bay pipe k = none →
      exec (.clauseStart core bay pipe) s = .next s) ∧
    ∀ k left v, s.bestTake core bay = some k →
      (s.pipeBusy core bay pipe = false ∧ left = none ∨
        s.pipeBusy core bay pipe = true ∧ left ≠ none ∧ s.leavable core bay pipe k = left) →
      v = left.elim s (fun m => s.modTake m fun t => { t with st := .suspended }) →
      let y := v.take k
      let sc := v.scene y.scene
      let off := sc.codeOff y.pc
      let broken := fun (l : Nat × Nat) =>
        (v.thread l.2).stepping = 2 ∨ v.breakpoint sc off ≠ none ∧ (v.thread l.2).unbroken = false
      let stops := v.clauseFault y.core sc off ≠ none ∨ isDirector y.core = false ∧ v.privWord y.core sc off ≠ none
      (y.st = .waiting → y.lanes ≠ [] → (∀ l ∈ y.lanes, ¬ broken l) → ¬ stops →
        ∃ t, exec (.clauseStart core bay pipe) s = .next t ∧ (t.take k).st = .issuing pipe ∧ (t.take k).pos = 0 ∧
          (t.take k).pc = y.pc ∧ (t.take k).lanes = y.lanes ∧
          (t.take k).cnt = slateCnt (v.codeNum y.core sc off 8) ∧ SameTakes v t k ∧
          ({ t with takes := v.takes, threads := v.threads, pend := v.pend, ops := v.ops } : State) = v ∧
          (∀ th, (∀ l ∈ y.lanes, l.2 ≠ th) → t.thread th = v.thread th) ∧
          ∀ l ∈ y.lanes, l.2 < v.threads.length → (t.thread l.2).latch = .replicate 4 0) ∧
      (y.st = .suspended → ∃ t, exec (.clauseStart core bay pipe) s = .next t ∧ (t.take k).st = .issuing pipe ∧
        (t.take k).pos = y.pos ∧ (t.take k).pc = y.pc ∧ (t.take k).lanes = y.lanes ∧ SameTakes v t k ∧
        ({ t with takes := v.takes, threads := v.threads, ops := v.ops } : State) = v ∧
        ∀ l ∈ y.lanes, (t.thread l.2).latch = (v.thread l.2).latch) ∧
      (y.st = .waiting → (∀ l ∈ y.lanes, ¬ broken l ∧ l.2 < v.threads.length ∧ (v.thread l.2).place = .take k) →
        y.lanes ≠ [] → stops →
        ∃ t, exec (.clauseStart core bay pipe) s = .next t ∧ (t.take k).st = .ended ∧ ∀ l ∈ y.lanes,
          ((t.thread l.2).parked = true ∨ (t.thread l.2).halted = true) ∧ (t.thread l.2).pc = y.pc ∧
          (t.thread l.2).place = .nowhere) ∧
      (y.st = .waiting → ∃ t, exec (.clauseStart core bay pipe) s = .next t ∧ ∀ l ∈ y.lanes, broken l →
        l.2 < v.threads.length → (v.thread l.2).place = .take k → (t.thread l.2).halted = true ∧
          (t.thread l.2).parked = false ∧ (t.thread l.2).pc = y.pc ∧ (t.thread l.2).rgnPc = y.pc)

/-- A pipe that is free is taken (R33): by the ready take of highest priority, where it is suspended inside its clause, or waits
at a clause that nothing stops. -/
def Sys2Proof.Claim.PipesAreTaken : Prop :=
  ∀ (s : State) (core bay k : Nat) (pipe : Bool), s.bestTake core bay = some k → s.pipeBusy core bay pipe = false →
    let y := s.take k
    let sc := s.scene y.scene
    let off := sc.codeOff y.pc
    (y.st = .suspended ∨ y.st = .waiting ∧ y.lanes ≠ [] ∧ (∀ l ∈ y.lanes, (s.thread l.2).stepping ≠ 2) ∧
      s.breakpoint sc off = none ∧ s.clauseFault y.core sc off = none ∧
      (isDirector y.core = true ∨ s.privWord y.core sc off = none)) →
    ∃ t, exec (.clauseStart core bay pipe) s = .next t ∧ (t.take k).st = .issuing pipe ∧ (t.take k).lanes = y.lanes ∧
      t.mem = s.mem

/-- Steps of the core between words: a spent hold suspends the clause of a word that still waits (R32), a sleep ends (R179), a register line arrives
(R54), an exited thread without cue counts leaves its slot, and the last one ends its scene (R24), a thread that a record
halts stops at its clause boundary with its region kept (R380), and a code row is loaded (R396). -/
def Sys2Proof.Claim.CoreSteps : Prop :=
  ∀ (s : State) (k : Nat),
    (∀ p, (s.take k).st = .issuing p → 64 ≤ (s.take k).holds → s.wordWaits k = true → k < s.takes.length →
      ∃ t, exec (.holdAllowanceSpent k) s = .next t ∧ (t.take k).st = .suspended ∧ (t.take k).pos = (s.take k).pos ∧
        SameTakes s t k ∧ ({ t with takes := s.takes } : State) = s) ∧
    ((s.take k).sleep ≠ 0 → (s.take k).st = .waiting → (s.scene (s.take k).scene).st = .resident →
      (s.take k).last + (s.take k).sleep ≤ s.clock →
      ∃ t, exec (.sleepExpiry k) s = .next t ∧ (t.take k).sleep = 0 ∧ SameTakes s t k ∧
        ({ t with takes := s.takes } : State) = s) ∧
    (∀ line, k < s.threads.length → (s.thread k).live = true → line ∉ (s.thread k).cached →
      line ≤ ((s.scene (s.thread k).scene).regs + 31) / 32 → (s.scene (s.thread k).scene).st = .resident →
      (s.bankLines (s.scene (s.thread k).scene).core (s.thread k).colour).length < 96 →
      ∃ t, exec (.registerLineFill k line) s = .next t ∧ (line ∈ (t.thread k).cached) ∧
        ({ t.thread k with cached := (s.thread k).cached, used := (s.thread k).used } : Thread) = s.thread k ∧
        ({ t with threads := s.threads } : State) = s) ∧
    ((s.thread k).exited = true → (s.thread k).gone = false → (s.thread k).cue = .replicate 12 0 → k < s.threads.length →
      ∃ t, exec (.slotEmpty k) s = .next t ∧ (t.thread k).gone = true ∧ t.mem = s.mem ∧
        ((∃ j ∈ (s.scene (s.thread k).scene).threads, j ≠ k ∧ (s.thread j).gone = false) → t.scenes = s.scenes) ∧
        ((∀ j ∈ (s.scene (s.thread k).scene).threads, j ≠ k → (s.thread j).gone = true) →
          (s.thread k).scene < s.scenes.length → (t.scene (s.thread k).scene).st = .ended)) ∧
    (∀ tk, (s.thread k).haltNext = true → (s.thread k).place = .take tk → (s.take tk).st = .waiting → k < s.threads.length →
      ∃ t, exec (.asyncRecordHalt k) s = .next t ∧ (t.thread k).halted = true ∧ (t.thread k).haltNext = false ∧
        (t.thread k).pc = (s.take tk).pc ∧ (t.thread k).rgnPc = (s.thread k).rgnPc ∧
        (t.thread k).rgnCnt = (s.thread k).rgnCnt ∧ t.mem = s.mem) ∧
    (∀ core row r bs psn, s.codeRow core (s.scene k).ctx (s.scene k).kernel row = none → 4096 * row < (s.scene k).codeSize →
      (s.scene k).core = core → (s.scene k).st = .resident → s.rowFor core = some r →
      let q := s.virtRead (coreReq (s.scene k).ctx core) ((s.scene k).code + 4096 * row) (min 4096 ((s.scene k).codeSize - 4096 * row))
      q.1 = .ok (bs, psn) →
      ∃ t y, exec (.codeRowLoad core k row) s = .next t ∧ y ∈ t.codeRows ∧ y.core = core ∧ y.row = r ∧
        y.ctx = (s.scene k).ctx ∧ y.kernel = (s.scene k).kernel ∧ y.code = row ∧ y.bytes = bs ∧
        ({ t with codeRows := q.2.codeRows } : State) = q.2)

/-- Rounds and reels (R36, R37): at the end of a round of 64 cycles a take that had a ready clause in it, that did not start
and did not yield, has aged, at most to 63, and so has a reel that has waited the whole round and is not drawn; an idle bay draws
the oldest reel of its core where none is due, as a take of age 0. -/
def Sys2Proof.Claim.RoundsAndReels : Prop :=
  ∀ (s : State), s.power = .run →
    (s.clock / 64 = s.rounds + 1 → ∃ t, exec .schedulingRoundEnd s = .next t ∧ t.rounds = s.clock / 64 ∧
      (∀ k < s.takes.length, (t.take k).yielded = false ∧ (t.take k).started = false ∧ (t.take k).age =
        if (s.takeReady k || (s.take k).ready) && !(s.take k).started && !(s.take k).yielded then min 63 ((s.take k).age + 1)
        else (s.take k).age) ∧
      ∀ k < s.reels.length, (t.reel k).live = true → (t.reel k).age =
        if (s.reel k).held && (s.scene (s.reel k).scene).st != .suspended then min 63 ((s.reel k).age + 1) else (s.reel k).age) ∧
    ∀ core bay r, bay < 4 → s.bayIdle core bay = true →
      (∀ y ∈ s.reels, y.core = core → y.age < s.ageLimit core ∧ y.lanes.length ≠ 32) →
      s.oldestReel core (fun _ => true) = some r → (s.reel r).cont = false →
      ∃ t, exec (.idleBayReelDraw core bay) s = .next t ∧ t.takes.length = s.takes.length + 1 ∧
        (t.take s.takes.length).lanes = (s.reel r).lanes ∧ (t.take s.takes.length).pc = (s.reel r).pc ∧
        (t.take s.takes.length).bay = bay ∧ (t.take s.takes.length).core = (s.reel r).core ∧
        (t.take s.takes.length).age = 0 ∧ (t.take s.takes.length).st = .waiting ∧ (t.reel r).live = false

/-- Scenes come and go (R17, R19, R389 to R392): the queued scene whose turn it is becomes resident on the admissible core
that is chosen; a scene that saves, once its takes stand still, is SWAPPED or at once READY; the READY scene whose turn it
is begins to be restored; and restored, it is resident. -/
def Sys2Proof.Claim.SceneSteps : Prop :=
  ∀ (s : State) (k core : Nat), k < s.scenes.length →
    ((s.scene k).st = .queued → s.itsTurn k = true → s.bestCore (s.admissible (s.scene k)) = some core →
      ∃ t, exec (.sceneAdmission k) s = .next t ∧ (t.scene k).st = .resident ∧ (t.scene k).core = core ∧
        t.threads.length = s.threads.length + (s.scene k).nthr ∧ (t.scene k).nextTid = (s.scene k).nthr ∧
        (∀ j < 64, (t.scene k).uniReg j = (s.scene k).consts.getD j 0) ∧ (t.scene k).sp = []) ∧
    ((s.scene k).st = .saving → s.stoppable k = true →
      ∃ t, exec (.swapSaveComplete k) s = .next t ∧ ((t.scene k).st = .swapped ∨ (t.scene k).st = .ready) ∧
        (t.scene k).sp = (s.scene k).sp ∧ ∀ th ∈ (s.scene k).threads, th < s.threads.length → (t.thread th).cached = []) ∧
    ((s.scene k).st = .ready → s.itsTurn k = true → s.readmissible k core = true →
      s.bestCore (s.readmissible k) = some core →
      ∃ t, exec (.sceneReadmission k core) s = .next t ∧ (t.scene k).st = .restoring ∧ (t.scene k).core = core) ∧
    ((s.scene k).st = .restoring → ∃ t, exec (.sceneRestoreComplete k) s = .next t ∧ (t.scene k).st = .resident ∧
      (t.scene k).core = (s.scene k).core)

/-- Time slices (R393 to R395): at the end of a slice issue stops in the partition for the scenes of every context but the
runnable one that has waited longest; once they have drained the partition goes to it, and none of them is resident there any
more; a suspended scene whose context has the partition and whose place is free
is resident again; a thermal trip leaves the package in STANDBY and raises vector 0 of PF0 (R436). -/
def Sys2Proof.Claim.SliceSteps : Prop :=
  ∀ (s : State) (p : Nat), s.power = .run →
    (∀ n, p < 48 → (s.part p).stages ≠ [] → (s.part p).closing = false → s.sliced = true → s.sliceOver p = true →
      let u := match (s.part p).current with
        | some c => s.modCtx c fun x => { x with lastRun := s.clock }
        | none => s
      u.nextContext p = some n →
      (u.canPreempt p (some n) = true → ∃ t, exec (.quantumExpiry p) s = .next t ∧ (t.part p).current = some n ∧
        (t.part p).since = s.clock ∧ ∀ k ∈ s.residentOf p (some n), (t.scene k).st ≠ .resident) ∧
      (u.canPreempt p (some n) = false → ∃ t, exec (.quantumExpiry p) s = .next t ∧ (t.part p).closing = true ∧
        (t.part p).next = some n ∧ t.scenes = s.scenes ∧ t.takes = s.takes)) ∧
    (p < 48 → (s.part p).stages ≠ [] → (s.part p).closing = true → s.canPreempt p (s.part p).next = true →
      ∃ t, exec (.quantumExpiry p) s = .next t ∧ (t.part p).closing = false ∧ (t.part p).current = (s.part p).next ∧
        (t.part p).since = s.clock ∧ ∀ k ∈ s.residentOf p (s.part p).next, (t.scene k).st ≠ .resident) ∧
    (∀ k, s.canUnsuspend p k = true → (∀ j, j ≠ k → s.canUnsuspend p j = false) → (∀ j, (s.unsuspend k).canUnsuspend p j = false) →
      ∃ t, exec (.partitionRestore p) s = .next t ∧ (t.scene k).st = .resident ∧ (t.scene k).core = (s.scene k).core) ∧
    ((∀ j < 48, s.canPreempt j none = true) → ∃ t, exec .thermalTrip s = .next t ∧ t.power = .standby ∧
      t.msix = s.msix ++ [(supCtx, 0)])

/-! ## Operations under way -/

/-- Operation `i` is under way in the one lane of a live thread, with the given captured operands and nothing else to do
where it completes than its own effect. -/
def Sys2Proof.Claim.underWay (s : State) (i : Nat) (th : Nat) (args : List Nat) : Prop :=
  i < s.ops.length ∧ (s.op i).done = false ∧ (s.op i).held = none ∧ (s.op i).wo = none ∧ (s.op i).lanes.map Prod.snd = [th] ∧
    (s.op i).cue = none ∧ (s.op i).writes = [] ∧ (s.op i).flags = [] ∧ (s.op i).daily = none ∧ (s.op i).args = args ∧
    th < s.threads.length ∧ (s.thread th).exited = false

/-- VARIABLE_COMPLETION (R139, R144): where a load or a transcendental of one lane completes, its result stands in its
register and its cue counter is one lower. -/
def Sys2Proof.Claim.ResultsArrive : Prop :=
  ∀ (s : State) (i : Nat) (l : Nat × Nat) (k cue : Nat) (v : DWord) (w : TWord) (m : MWord),
    (s.op i).instr ∈ [Instr.frcp w, .frsq w, .fsqrt w, .fexp2f w, .flog2 w, .fsin w, .fcos w, .ftanh w, .ldg m, .lds m, .ldk m,
      .atomg m, .atoms m, .casg m, .cass m] →
    i < s.ops.length → (s.op i).done = false → (s.op i).lanes = [l] → (s.op i).cue = some cue → cue < 12 →
    (s.op i).writes = [{ thread := l.2, dest := .v k, value := v }] → (s.op i).flags = [] → (s.op i).daily = none →
    l.2 < s.threads.length → (s.thread l.2).exited = false → k < (s.thread l.2).v.length →
    ∃ t, exec (.variableCompletion i) s = .next t ∧ (t.op i).done = true ∧ (t.thread l.2).reg k = v.setWidth 32 ∧
      (t.thread l.2).cueOf cue = (s.thread l.2).cueOf cue - 1 ∧ t.mem = s.mem ∧
      (∀ j, j ≠ k → (t.thread l.2).reg j = (s.thread l.2).reg j) ∧ ∀ th, th ≠ l.2 → t.thread th = s.thread th

/-- The supervisor's instructions complete (R400, R403, R412): `WRSYS` writes the register it names and no other of the
die, `RDSYS` gives D the register's value, `PTWR` stores its 8 bytes and no other, and `WAITEV` wakes with the
events of its mask that were pending as one of them was set, or, at its timeout, with those that are. -/
def Obligations.SupervisorCompletions : Prop :=
  ∀ (s : State) (i th : Nat) (w : TWord),
    (∀ n v, n ∈ [0x001, 0x002, 0x003, 0x004, 0x005, 0x007, 0x00B, 0x00E, 0x012, 0x015, 0x01A, 0x01C, 0x01D, 0x01F] →
      (s.op i).instr = .wrsys w → Claim.underWay s i th [n, 0, v] → v < 2 ^ 32 → (s.op i).core < 256 →
      let d := coreDie (s.op i).core
      ∃ t, exec (.variableCompletion i) s = .next t ∧ (t.op i).done = true ∧ t.readSys d n 0 = v ∧ t.mem = s.mem ∧
        (∀ m < 0x020, m ≠ n → t.readSys d m 0 = s.readSys d m 0) ∧ (∀ e < 4, e ≠ d → t.die e = s.die e) ∧
        t.ctxs = s.ctxs) ∧
    (∀ n q k, (s.op i).instr = .rdsys w → Claim.underWay s i th [n, q] → w.mod = 0 → w.nw = false → selClass w.d = .main →
      k = selReg w.d → k < (s.thread th).v.length →
      ∃ t, exec (.variableCompletion i) s = .next t ∧ (t.op i).done = true ∧
        (t.thread th).reg k = BitVec.ofNat 32 (s.readSys (coreDie (s.op i).core) n q) ∧ t.mem = s.mem ∧ t.dies = s.dies ∧
        t.ctxs = s.ctxs) ∧
    (∀ pa v, (s.op i).instr = .ptwr w → Claim.underWay s i th [pa, v] → pa % 8 = 0 → v < 2 ^ 64 →
      s.mapsFull (pa / 65536) = false → s.roomy = true →
      ∃ t, exec (.variableCompletion i) s = .next t ∧ (t.op i).done = true ∧ t.mem.num pa 8 = v ∧
        ∀ p, p < pa ∨ pa + 8 ≤ p → t.mem.read p = s.mem.read p) ∧
    (∀ mask timeout got k woken, (s.op i).instr = .waitev w → Claim.underWay s i th ([mask, timeout] ++ woken) → w.nw = false →
      selClass w.d = .main → k = selReg w.d → k < (s.thread th).v.length →
      woken = [got] ∨ woken = [] ∧ (s.op i).issued + timeout ≤ s.clock ∧
        got = ((s.die (coreDie (s.op i).core)).evPend.toNat &&& mask) →
      ∃ t, exec (.waitevWake i) s = .next t ∧ (t.op i).done = true ∧ (t.thread th).reg k = BitVec.ofNat 32 got ∧
        t.dies = s.dies ∧ t.mem = s.mem) ∧
    (∀ mask timeout die, (s.op i).instr = .waitev w → Claim.underWay s i th [mask, timeout] → die = coreDie (s.op i).core →
      die < 4 → mask.testBit 6 = true → (s.die die).timer ≠ 0 → s.timerLeft die = 0 →
      ∃ t, exec (.timerExpiry die) s = .next t ∧
        (t.op i).args = [mask, timeout, ((s.die die).evPend ||| 64).toNat &&& mask])

/-- Lines, holds and waits of operations and threads (R71, R89, R230, R273): an operand load takes its next good line of the
scratchpad into its slot; an operation held at a page goes on once the page translates; a WO wait that has lasted WOTIMEOUT
stops its thread, or ends its operation. -/
def Sys2Proof.Claim.LinesAndWaits : Prop :=
  ∀ (s : State) (i : Nat),
    (∀ w slot first n a, (s.op i).instr = .opld w → i < s.ops.length → (s.op i).args = [0, slot, first, n, a] →
      s.matReady i = true → (s.op i).progress < n →
      let o := s.op i
      let sc := s.scene o.scene
      let at1 := a + 128 * o.progress
      sc.empty = [] → sc.poison = [] → sc.bad = [] → o.scene < s.scenes.length → slot < sc.oslots.length →
      Sees s (s.opReader i 2) (.sp o.scene) →
      ∃ t, exec (.engineLineFill i) s = .next t ∧ (t.op i).progress = o.progress + 1 ∧ t.mem = s.mem ∧
        ((t.scene o.scene).slot slot).data.readN (128 * (first + o.progress)) 128 = sc.spRead at1 128 ∧
        (t.scene o.scene).sp = sc.sp) ∧
    (∀ f x, (s.op i).held = some f → i < s.ops.length →
      let q := s.translate (s.op i).req f.va ((s.op i).isCopy && (s.op i).copyOut) false none
      q.1 = .ok x → ∃ t, exec (.copyFaultResume i) s = .next t ∧ (t.op i).held = none ∧ (t.op i).progress = (q.2.op i).progress ∧
        t.mem = q.2.mem) ∧
    (∀ v, (s.thread i).wo = some v → (s.thread i).halted = false → i < s.threads.length →
      v.since + (s.die (coreDie (s.scene (s.thread i).scene).core)).woTimeout * 1200 ≤ s.clock →
      ∃ t, exec (.woWaitTimeout i) s = .next t ∧ ((t.thread i).parked = true ∨ (t.thread i).halted = true) ∧
        (t.thread i).pc = (s.thread i).pc) ∧
    (∀ v, (s.op i).wo = some v → i < s.ops.length → (s.op i).done = false →
      v.since + (s.die (coreDie (s.op i).core)).woTimeout * 1200 ≤ s.clock →
      ∃ t, exec (.engineWoWaitTimeout i) s = .next t ∧ (t.op i).done = true)

/-! ## Units -/

/-- TASK_NODE_LAUNCH (R280, R281, R285, R337, R353): the unit takes a record that is ready. An invalid one fails. A valid one
becomes LAUNCHED, and a scene node enters the launch queue; a tile, copy, host or empty node the queue of its kind, with its
priority and its place in the arming order; a seal and a vision node start their work, or fail where its checks fail. -/
def Sys2Proof.Claim.NodesLaunch : Prop :=
  ∀ (s v0 : State) (ctx index : Nat) (a : Armed) (n : Nat),
    s.armed.find? (fun a => a.ctx == ctx && a.index == index) = some a → s.nodeReady ctx index = true → s.power = .run →
    v0 = { s with armed := s.armed.filter fun b => b != a } →
    let q := v0.taskRead (unitReq ctx (v0.ctx ctx).homeDie) index 64
    let die := a.unit.getD (q.2.nodeUnit ctx index n)
    let v := q.2.nodeValid (unitReq ctx die) n
    let r := v.2.taskAtomic (unitReq ctx die) index fun h =>
      if taskState h == 3 && taskPred h == 0 then some (withTaskState h 4) else none
    let u := r.2.nodeLaunched ctx index (nodeKind n)
    let i := u.nodes.length
    let l := u.launchRun ctx index die n a.seq
    q.1 = .ok n →
    (v.1 = false → exec (.taskNodeLaunch ctx index) s =
      .next (v.2.nodeFails ctx index die { kind := 0x0A, va := v0.taskVa ctx index, detail := 0 })) ∧
    (v.1 = true → r.1 = .ok true →
      (nodeKind n = 1 → ∀ e w ws, (u.sceneKernel (unitReq ctx die) (sceneReq n)).1 = some e →
        w = (if (sceneReq n).nconst = 0 then (.ok [], (u.sceneKernel (unitReq ctx die) (sceneReq n)).2)
          else (u.sceneKernel (unitReq ctx die) (sceneReq n)).2.listWords (unitReq ctx die) (sceneReq n).consts
            (sceneReq n).nconst) → w.1 = .ok ws →
        ∃ t y, exec (.taskNodeLaunch ctx index) s = .next t ∧ t.scenes = w.2.scenes ++ [y] ∧ y.st = .queued ∧ y.ctx = ctx ∧
          y.node = some index ∧ y.seq = a.seq ∧ y.prio = nodePrio n ∧ y.nthr = (sceneReq n).nthr ∧
          y.consts = ws.map (BitVec.ofNat 32) ∧ t.mem = w.2.mem) ∧
      (nodeKind n ∈ [2, 3, 6, 7] → ∃ t y, exec (.taskNodeLaunch ctx index) s = .next t ∧ t.nodes = u.nodes ++ [y] ∧
        y.ctx = ctx ∧ y.index = index ∧ y.kind = nodeKind n ∧ y.prio = nodePrio n ∧ y.seq = a.seq ∧ y.unit = die ∧
        y.live = true ∧ y.begun = false ∧ y.progress = 0 ∧ t.armed = u.armed ∧ t.mem = u.mem) ∧
      (nodeKind n = 4 →
        let g := (sealStart (l.surfNodeReq i ctx die) (bitsOf n 207 192) (bitOf n 208).toNat).run l
        (∀ z, g.1 = .ok z → ∃ t j, exec (.taskNodeLaunch ctx index) s = .next t ∧ t.seals = g.2.seals ++ [j] ∧
          j.node = some i ∧ j.issuer = none ∧ j.buf = bitsOf n 207 192 ∧ j.done = false ∧ t.mem = g.2.mem) ∧
        ∀ f, g.1 = .error f → exec (.taskNodeLaunch ctx index) s = .next (g.2.runFails i f (bitsOf n 207 192))) ∧
      (nodeKind n = 5 →
        let d := bitsOf n 287 192 + (2 ^ 64 - 1) * 2 ^ 96
        let g := (mveCheck (l.mveReqBy die 0 ctx none (some i)) d).run l
        (∀ y rg, g.1 = .ok (y, rg) → ∃ t m, exec (.taskNodeLaunch ctx index) s = .next t ∧
          t.mveReqs = g.2.mveReqs ++ [m] ∧ m.node = some i ∧ m.issuer = none ∧ m.desc = d ∧ m.state = 0 ∧ m.refGen = rg ∧
          t.mem = g.2.mem) ∧
        ∀ f, g.1 = .error f → exec (.taskNodeLaunch ctx index) s = .next (g.2.runFails i f (mvCur d))))

/-- TILE_TASK_DISPATCH (R286): a tile task goes to the lowest free array of its partition, on the die that it names or on any, if
no task that comes before it waits for the same array; where no array is free it waits, and nothing else changes. -/
def Sys2Proof.Claim.TilesDispatch : Prop :=
  ∀ (s : State) (ctx index i : Nat), s.power = .run →
    let n := s.nodeRun i
    let free := fun (x : NodeRun) => (s.partCores (s.ctx x.ctx).part).find? fun k =>
      s.arrayFree k && s.mayRun x.ctx && (x.die == 7 || coreDie k == x.die)
    let waits := fun (x : NodeRun) => x.live = true ∧ x.kind = 2 ∧ x.core = none
    i < s.nodes.length → waits n → n.ctx = ctx → n.index = index →
    (∀ j < i, ¬ (waits (s.nodeRun j) ∧ (s.nodeRun j).ctx = ctx ∧ (s.nodeRun j).index = index)) →
    (free n = none → exec (.tileTaskDispatch ctx index) s = .next s) ∧
    ∀ k, free n = some k →
      (∀ x ∈ s.nodes, waits x → n.prio < x.prio ∨ x.prio = n.prio ∧ x.seq < n.seq → free x ≠ some k) →
      ∃ t, exec (.tileTaskDispatch ctx index) s = .next t ∧ (t.nodeRun i).core = some k ∧ (t.nodeRun i).begun = true ∧
        ({ t with nodes := s.nodes } : State) = s ∧ ∀ j, j ≠ i → t.nodeRun j = s.nodeRun j

/-- TASK_NODE_COMPLETE (R285, R286): the end of its scene completes a scene node, and a copy, tile, host or empty node whose work
is done is complete, or fails with the fault that its work met. COMPLETE is written as one atomic on the record, and with no
successor and no trace of the node nothing else is written. -/
def Sys2Proof.Claim.NodesComplete : Prop :=
  ∀ (s v : State) (ctx index : Nat) (ag : Agent) (die : Nat),
    let launched := fun (h : Nat) => if taskState h == 4 then some (withTaskState h 5) else none
    (∀ n,
      let q := v.taskRead (unitReq ctx die) index 16
      let m := q.2.taskAtomic (unitReq ctx die) index launched
      q.1 = .ok n → m.1 = .ok true → nodeSucc n = 2 ^ 32 - 1 → (∀ d < 4, (m.2.die d).silCfg.toNat % 4 = 0) →
      (v.completeNode ctx index die ag).mem = m.2.mem) ∧
    (∀ sc, (s.scene sc).st = .ended → (s.scene sc).ctx = ctx → (s.scene sc).node = some index → sc < s.scenes.length →
      (∀ j < sc, ¬ ((s.scene j).st = .ended ∧ (s.scene j).ctx = ctx ∧ (s.scene j).node = some index)) →
      v = (s.modScene sc fun c => { c with node := none }).flushIp (s.scene sc).core ctx →
      ∃ t, exec (.taskNodeComplete ctx index) s = .next t ∧ (t.scene sc).node = none ∧ (t.scene sc).st = .ended ∧
        t = v.completeNode ctx index (s.scene sc).unit (.scene sc)) ∧
    (∀ i q, (∀ c ∈ s.scenes, ¬ (c.st = .ended ∧ c.ctx = ctx ∧ c.node = some index)) → i < s.nodes.length →
      (s.nodeRun i).live = true → (s.nodeRun i).ctx = ctx → (s.nodeRun i).index = index → (s.nodeRun i).kind ∈ [2, 3, 6, 7] →
      (∀ j < i, ¬ ((s.nodeRun j).live = true ∧ (s.nodeRun j).ctx = ctx ∧ (s.nodeRun j).index = index)) →
      s.runFirst i = true → s.nodeFree i = true →
      q = (s.modRun i fun y => { y with held := none, wo := none, begun := y.begun || y.kind != 2 }).runNode i →
      (q.1 = .done → ∃ t, exec (.taskNodeComplete ctx index) s = .next t ∧ (t.nodeRun i).live = false ∧ t = q.2.2.runDone i) ∧
      ∀ f buf, q.1 = .failed f buf → ∃ t, exec (.taskNodeComplete ctx index) s = .next t ∧ (t.nodeRun i).live = false ∧
        t = q.2.2.runFails i f buf)

/-- Seals and passes (R334, R337, R346, R347): a seal's coding ends its operation or its node, well or with a fault; a final bin
launches a quad-aligned pixel scene for every 512 quads of work, at most; a closed pass whose bins are final and whose scenes have
ended is done. -/
def Sys2Proof.Claim.SealsAndPasses : Prop :=
  ∀ (s : State) (k : Nat),
    (∀ j, s.seals[k]? = some j → j.done = false → j.node.all s.runFirst = true →
      let q := ({ s with seals := s.seals.modify k fun j => { j with done := true } } : State).sealRun (s.sealReq j) j.buf j.flags
      (∀ i, j.issuer = some i → i < q.2.ops.length → (q.2.op i).done = false →
        ∃ t, exec (.sealCoding k) s = .next t ∧ (t.op i).done = true ∧ t.seals = q.2.seals) ∧
      (∀ m, j.issuer = none → j.node = some m →
        ∃ t, exec (.sealCoding k) s = .next t ∧ (t.nodeRun m).live = false ∧ t.seals = q.2.seals ∧
          (q.1 = .ok () → t = q.2.runDone m) ∧ ∀ f, q.1 = .error f → t = q.2.runFails m f j.buf)) ∧
    (∀ bin h n z e w ws,
      let p := s.pass k
      let r := unitReq p.ctx p.die
      let work := quadWork p.tris h.zclear h.w h.h bin
      p.state = 2 → bin ∉ p.final → s.power = .run → ((openPass r p.buf).run s).1 = .ok h →
      bin < (h.w + 63) / 64 * ((h.h + 63) / 64) → s.taskRead r h.pixNode 64 = (.ok n, z) →
      (z.sceneKernel r (sceneReq n)).1 = some e →
      w = (if (sceneReq n).nconst = 0 then (.ok [], (z.sceneKernel r (sceneReq n)).2)
        else (z.sceneKernel r (sceneReq n)).2.listWords r (sceneReq n).consts (sceneReq n).nconst) → w.1 = .ok ws →
      k < w.2.passes.length →
      ∃ t, exec (.binFinal k bin) s = .next t ∧ bin ∈ (t.pass k).final ∧ t.mem = w.2.mem ∧
        t.scenes.length = w.2.scenes.length + (work.length + 511) / 512 ∧
        ∀ y ∈ t.scenes.drop w.2.scenes.length, y.st = .queued ∧ y.pass = some k ∧ y.quad = true ∧
          y.nthr = 4 * y.work.length ∧ y.cap = y.nthr ∧ y.consts = ws.map (BitVec.ofNat 32)) ∧
    (∀ h z,
      let p := s.pass k
      let mine := indices s.scenes fun c => c.pass == some k
      let v := ((mine.map fun sc => (s.scene sc).core).eraseDups).foldl (fun (s : State) core => s.flushIp core p.ctx) z
      p.state = 2 → (openPass (unitReq p.ctx p.die) p.buf).run s = (.ok h, z) → k < z.passes.length →
      (h.w + 63) / 64 * ((h.h + 63) / 64) ≤ p.final.length → (∀ sc ∈ mine, (s.scene sc).st = .ended) →
      ∃ t, exec (.passDone k) s = .next t ∧ (t.pass k).state = 3 ∧
        (h.done = 2 ^ 32 - 1 → t.mem = ((h.put 3 h.prims h.drops).run v).2.mem))

/-- Motion requests (R351, R352, R353): one that is the next of its queue starts on a free engine of its die, and its coarse
results are written, or it fails; one that runs is done, with its operation or its node, while its reference has not changed and
its results can be written, and fails otherwise. -/
def Sys2Proof.Claim.MotionRequests : Prop :=
  ∀ (s : State) (k : Nat),
    let q := s.mve k
    (∀ e v, s.freeMve q.die = some e → q.state = 0 → k < s.mveReqs.length → s.mveFirst k = true → s.power = .run →
      v = q.node.elim (s.modMve k fun q => { q with eng := e })
        (fun j => (s.modMve k fun q => { q with eng := e }).modRun j fun x => { x with begun := true }) →
      let m := (mveSearch (v.mveReq k) q.desc).run v
      k < m.2.mveReqs.length →
      (∀ y coarse final n, m.1 = .ok (y, coarse, final, n) →
        ∃ t, exec (.mveRequestStart k) s = .next t ∧ (t.mve k).final = final ∧ (t.mve k).refined = n ∧ t.mem = m.2.mem ∧
          (t.mve k).state = if q.issuer.isSome ∧ mvOutc q.desc ≠ 2 ^ 32 - 1 then 2 else 1) ∧
      ∀ f, m.1 = .error f → ∃ t, exec (.mveRequestStart k) s = .next t ∧ (t.mve k).state = 4) ∧
    (q.state = 1 ∨ q.state = 2 →
      let r := s.mveReq k
      let m := (mveRefSame r q).run s
      let h := if mvHint q.desc then (mveHints r q).run m.2 else (.ok (), m.2)
      (m.1 = .ok false → k < m.2.mveReqs.length →
        ∃ t, exec (.mveRequestComplete k) s = .next t ∧ (t.mve k).state = 4) ∧
      (m.1 = .ok true → h.1 = .ok () → k < h.2.mveReqs.length →
        (∀ o, q.issuer = some o → o < h.2.ops.length → (h.2.op o).done = false →
          ∃ t, exec (.mveRequestComplete k) s = .next t ∧ (t.mve k).state = 3 ∧ (t.op o).done = true) ∧
        ∀ j w, q.issuer = none → q.node = some j → w = h.2.visionOut r (s.nodeRun j).index q.final → w.1 = none →
          k < w.2.mveReqs.length →
          ∃ t, exec (.mveRequestComplete k) s = .next t ∧ (t.mve k).state = 3 ∧ (t.nodeRun j).live = false))

/-- Every unit's work ends (R285, R286, R334, R346, R347, R351): a record that is ready is taken; a tile task goes to its array;
the end of a scene completes its node; a seal ends; the bins of a closed pass
become final, and the pass is then done; a motion request starts, and is done. -/
def Sys2Proof.Claim.UnitsGoOn : Prop :=
  ∀ (s : State) (k ctx index : Nat), s.power = .run →
    (∀ a, s.armed.find? (fun a => a.ctx == ctx && a.index == index) = some a → s.nodeReady ctx index = true →
      ∃ t, exec (.taskNodeLaunch ctx index) s = .next t ∧
        ∀ n, (({ s with armed := s.armed.filter fun b => b != a } : State).taskRead (unitReq ctx (s.ctx ctx).homeDie) index
          64).1 = .ok n → ∀ b ∈ t.armed, b ≠ a) ∧
    (∀ core, s.nodes = [s.nodeRun 0] → (s.nodeRun 0).live = true → (s.nodeRun 0).kind = 2 → (s.nodeRun 0).core = none →
      (s.nodeRun 0).ctx = ctx → (s.nodeRun 0).index = index → (s.nodeRun 0).die = 7 → s.mayRun ctx = true →
      (s.partCores (s.ctx ctx).part).find? s.arrayFree = some core →
      ∃ t, exec (.tileTaskDispatch ctx index) s = .next t ∧ (t.nodeRun 0).core = some core) ∧
    (k < s.scenes.length → (s.scene k).st = .ended → (s.scene k).ctx = ctx → (s.scene k).node = some index →
      (∀ j < k, (s.scene j).node ≠ some index) →
      ∃ t, exec (.taskNodeComplete ctx index) s = .next t ∧ (t.scene k).node = none) ∧
    (∀ j, s.seals[k]? = some j → j.done = false → j.node.all s.runFirst = true →
      ∃ t, exec (.sealCoding k) s = .next t ∧ ∃ y, t.seals[k]? = some y ∧ y.done = true) ∧
    (∀ bin h n e, (s.pass k).state = 2 → bin ∉ (s.pass k).final → k < s.passes.length →
      let r := unitReq (s.pass k).ctx (s.pass k).die
      ((openPass r (s.pass k).buf).run s).1 = .ok h → bin < (h.w + 63) / 64 * ((h.h + 63) / 64) →
      (s.taskRead r h.pixNode 64).1 = .ok n → (sceneReq n).nconst = 0 →
      ((s.taskRead r h.pixNode 64).2.sceneKernel r (sceneReq n)).1 = some e →
      ∃ t, exec (.binFinal k bin) s = .next t ∧ bin ∈ (t.pass k).final) ∧
    (∀ h, (s.pass k).state = 2 → k < s.passes.length →
      ((openPass (unitReq (s.pass k).ctx (s.pass k).die) (s.pass k).buf).run s).1 = .ok h →
      (h.w + 63) / 64 * ((h.h + 63) / 64) ≤ (s.pass k).final.length →
      (∀ c ∈ s.scenes, c.pass = some k → c.st = .ended) →
      ∃ t, exec (.passDone k) s = .next t ∧ (t.pass k).state = 3) ∧
    (k < s.mveReqs.length → (s.mve k).state = 0 → s.mveFirst k = true → s.freeMve (s.mve k).die ≠ none →
      ∃ t, exec (.mveRequestStart k) s = .next t ∧ (t.mve k).state ∈ [1, 2, 4]) ∧
    (k < s.mveReqs.length → (s.mve k).state = 1 ∨ (s.mve k).state = 2 → (s.mve k).issuer ≠ none →
      ∃ t, exec (.mveRequestComplete k) s = .next t ∧ (t.mve k).state ∈ [3, 4])

/-! ## Supervisor events and registers -/

/-- Events and their handlers (R402, R404): TIMER raises its event when it runs out; an event that is dispatched starts a
handler thread at EVENTRY on a Director of the die and sets its bit of EVSVC, or, where EVENTRY names no entry of a
supervisor kernel, stops dispatch. -/
def Sys2Proof.Claim.EventSteps : Prop :=
  ∀ (s : State) (die bit : Nat), die < 4 →
    ((s.die die).timer ≠ 0 → s.timerLeft die = 0 →
      ∃ t, exec (.timerExpiry die) s = .next t ∧ (t.die die).timer = 0 ∧
        (t.die die).evPend = (s.die die).evPend ||| 64 ∧ ∀ e < 4, e ≠ die → t.die e = s.die e) ∧
    (s.dispatchable die bit = true →
      let e := (s.die die).evEntry.toNat
      let q := s.kernel (coreReq supCtx (64 * die + 48)) (e % 2 ^ 32)
      (∀ k, q.1 = some k → e / 2 ^ 32 ∈ k.entries →
        (∀ core, core = 64 * die + 48 ∨ core = 64 * die + 49 → q.2.freeGroups core ≠ [] ∧
          q.2.fits (handlerScene k die bit (e / 2 ^ 32) q.2.seqCtr (e % 2 ^ 32)) core = true) →
        ∃ t, exec (.handlerDispatch die bit) s = .next t ∧ t.scenes.length = q.2.scenes.length + 1 ∧
          let c := t.scene q.2.scenes.length
          c.handler = some bit ∧ c.ctx = supCtx ∧ c.st = .resident ∧ (c.core = 64 * die + 48 ∨ c.core = 64 * die + 49) ∧
          c.nthr = 1 ∧ (t.die die).evSvc = (q.2.die die).evSvc ||| BitVec.ofNat 32 (2 ^ bit)) ∧
      ((∀ k, q.1 = some k → e / 2 ^ 32 ∉ k.entries) →
        ∃ t, exec (.handlerDispatch die bit) s = .next t ∧ (t.die die).noDispatch = true))

/-- The register writes that are steps of their own (R366, R383, R401, R402, R404, R437, R438, R443): EVPEND is cleared by
ones, TIMER counts anew, EVENTRY allows dispatch again, GROUPMODE changes while no frame of the group is assigned, a queue
base changes while its queue is empty, and an address out of range writes nothing. That the ring of a configuration that is off
is not looked at is the model's reading (log entry 81). -/
def Sys2Proof.Claim.RegisterSteps : Prop :=
  ∀ (s : State) (die : Nat) (v : Word) (a : DWord), die < 4 →
    (∃ t, exec (.evpendWrite die v) s = .next t ∧ (t.die die).evPend = (s.die die).evPend &&& ~~~v ∧
      (t.die die).evMask = (s.die die).evMask ∧ t.mem = s.mem) ∧
    (∃ t, exec (.timerWrite die v) s = .next t ∧ (t.die die).timer = v.toNat ∧ t.timerLeft die = v.toNat ∧ t.mem = s.mem) ∧
    (∃ t, exec (.eventryWrite die a) s = .next t ∧ (t.die die).evEntry = a ∧ (t.die die).noDispatch = false ∧ t.mem = s.mem) ∧
    (∀ g < 128, ∃ t, exec (.groupmodeWrite g v) s = .next t ∧
      (s.groupAssigned g = true → t = s) ∧
      (s.groupAssigned g = false → t.groupMode.get g = v.toNat % 4 ∧ ∀ h, h ≠ g → t.groupMode.get h = s.groupMode.get h)) ∧
    (∀ c < 1024, (s.ctx c).registered = true → (s.ctx c).fqTail = (s.ctx c).fqHead →
      ∃ t, exec (.fqbaseWrite c a) s = .next t ∧ (a.toNat % 32 = 0 → (t.ctx c).fqBase = a.toNat) ∧
        (a.toNat % 32 ≠ 0 → t = s)) ∧
    (∃ t, exec (.supqbaseWrite die a) s = .next t ∧ (a.toNat % 32 = 0 → (t.die die).supQBase = a.toNat) ∧
      (a.toNat % 32 ≠ 0 → t = s)) ∧
    (s.lcs ≠ 1 ∨ v.getLsbD 0 = false → ∃ t, exec (.dailycfgWrite die v) s = .next t ∧
      (4 ≤ v.toNat / 2 % 32 ∧ v.toNat / 2 % 32 ≤ 20 →
        (t.die die).dailyCfg = v &&& 0x07FF003F ∧ (t.die die).dailyBase = (s.die die).dailyBase ∧ t.mem = s.mem) ∧
      (¬ (4 ≤ v.toNat / 2 % 32 ∧ v.toNat / 2 % 32 ≤ 20) → t = s)) ∧
    (s.lcs ≠ 1 ∨ v.toNat % 4 = 0 → ∃ t, exec (.silcfgWrite die v) s = .next t ∧
      (v.toNat % 4 ≠ 3 → (t.die die).silCfg = v &&& 0x03FF0007 ∧ (t.die die).silBase = (s.die die).silBase ∧ t.mem = s.mem) ∧
      (v.toNat % 4 = 3 → t = s))

/-! ## The memory system -/

/-- The L2 (R10, R292, R371, R373): a fill puts a line of memory into it where it has room, and an uncorrectable error poisons
the line and raises event 4, with the line's address, on its home die; a write-back takes the line out, leaves every byte as it was, and tags a dirty line of HBM that its
translation compresses with its base exponent where it fits. -/
def Sys2Proof.Claim.CacheSteps : Prop :=
  ∀ (s : State) (l : Nat),
    ((∀ x ∈ s.l2, x.key ≠ .phys l) → populated (128 * l) = true → s.l2Fits (.phys l) = true →
      (∃ t, exec (.l2LineFill (.phys l) .clean) s = .next t ∧ (∃ x ∈ t.l2, x.key = .phys l ∧ x.dirty = false) ∧
        ({ t with l2 := s.l2 } : State) = s) ∧
      (isHostPa (128 * l) = false → s.unmarked l = false → s.homeDieOf (128 * l) < 4 →
        ∃ t, exec (.l2LineFill (.phys l) .uncorrectable) s = .next t ∧ t.linePsn l = true ∧ t.mem = s.mem ∧
          t.memErrs = (s.homeDieOf (128 * l), 128 * l) :: s.memErrs ∧
          (t.die (s.homeDieOf (128 * l))).evPend = (s.die (s.homeDieOf (128 * l))).evPend ||| 16)) ∧
    ∀ x, s.l2.find? (fun x => x.key == .phys l) = some x → x.dirty = true → isHbm (128 * l) = true →
      let bs := s.mem.readN (128 * l) 128
      ∃ t, exec (.l2LineWriteback (.phys l) .clean) s = .next t ∧ (∀ y ∈ t.l2, y.key ≠ .phys l) ∧ t.mem = s.mem ∧
        t.lineTag l / 512 = s.lineTag l / 512 ∧
        t.lineTag l % 512 = (if x.cmpr = true ∧ lineFits bs = true then 2 * lineBexp bs + 1 else 0) ∧
        ∀ k, k ≠ l → t.lineTag k = s.lineTag k

/-- Stream contexts, rows, windows, scrubbing and migration (R295, R365, R368, R369, R374): a direction gives its context
back; an activation opens its row and counts it, and counts a conflict where another row was open; a window's end and a
refresh start the counts anew; scrubbing zeroes the first unmarked line of its frame and no byte outside it; migration takes
one line step of its group, into the staging line first where the line displaces another. -/
def Sys2Proof.Claim.MemorySteps : Prop :=
  ∀ (s : State),
    (∀ a h i f, s.handleOf h = some i → (s.binding i).stateful = false → (s.binding i).wr = some f →
      ∃ t, exec (.streamContextRelease a h true) s = .next t ∧
        (t.binding i).wr = some { f with streams := f.streams.filter fun x => x != a } ∧ t.mem = s.mem) ∧
    (∀ frame line, isHbm (128 * (512 * frame + line)) = true →
      let bank := s.bankOf (128 * (512 * frame + line))
      let row := s.rowOf (128 * (512 * frame + line))
      bank * 2 ^ 15 + row ∉ s.throttled → s.openRows.get bank ≠ row + 1 →
      ∃ t, exec (.rowActivation frame line) s = .next t ∧ t.openRows.get bank = row + 1 ∧ t.mem = s.mem ∧
        t.rowCnt.get (bank * 2 ^ 15 + row) = s.rowCnt.get (bank * 2 ^ 15 + row) + 1 ∧
        t.bankCnt.get bank = s.bankCnt.get bank + if s.openRows.get bank = 0 then 0 else 1) ∧
    (∀ k, k < 8 → s.windowAt.get k + 49152 ≤ s.clock →
      ∃ t, exec (.conflictWindowEnd k) s = .next t ∧ t.windowAt.get k = s.clock ∧ t.mem = s.mem ∧
        ∀ b, t.bankCnt.get b = if b % 8 = k then 0 else s.bankCnt.get b) ∧
    (∀ bank row, row < 2 ^ 15 → ∃ t, exec (.refreshManagement bank) s = .next t ∧ t.mem = s.mem ∧
      t.rowCnt.get (bank * 2 ^ 15 + row) = 0 ∧ bank * 2 ^ 15 + row ∉ t.throttled) ∧
    (∀ frame l, tagScrub (s.frameTag frame) = true →
      ((List.range 512).find? fun l => !(s.scrubMarks frame).contains l) = some l →
      ∃ t, exec (.scrubLine frame) s = .next t ∧
        (∀ p, (frame * 512 + l) * 128 ≤ p → p < (frame * 512 + l + 1) * 128 → t.mem.read p = 0) ∧
        (∀ p, p < (frame * 512 + l) * 128 ∨ (frame * 512 + l + 1) * 128 ≤ p → t.mem.read p = s.mem.read p) ∧
        t.lineTag (frame * 512 + l) = 0) ∧
    (∀ g, s.migrating = true → g < 128 → s.moved.get g < 2 ^ 25 →
      let q := groupLine (s.partner (g * 2 ^ 32 + 128 * s.moved.get g))
      ∃ t, exec (.migrationStep g) s = .next t ∧ t.mem = s.mem ∧
        if s.staging.get g = 0 ∧ s.moved.get g < q then
          t.migrating = true ∧ t.moved = s.moved ∧ t.staging.get g = q + 1 ∧ ∀ j, j ≠ g → t.staging.get j = s.staging.get j
        else if (List.range 128).all fun j => s.moved.get j + (if j = g then 1 else 0) == 2 ^ 25 then
          t.migrating = false ∧ t.oldMasks = s.masks ∧ ∀ d < 4, (t.die d).evPend = (s.die d).evPend ||| 8
        else t.migrating = true ∧ t.moved.get g = s.moved.get g + 1 ∧ t.staging.get g = 0 ∧
          ∀ j, j ≠ g → t.moved.get j = s.moved.get j ∧ t.staging.get j = s.staging.get j)

/-- SRAM soft errors (R372): a cached register word, a word of a cached control line, a scratchpad word or an operand word is in error from then on; a clean
line of the L2 is dropped, and a dirty one is poisoned. -/
def Sys2Proof.Claim.SoftErrors : Prop :=
  ∀ (s : State) (k word : Nat),
    (k < s.threads.length → (word < 256 ∧ word / 32 + 1 ∈ (s.thread k).cached ∧ word < (s.scene (s.thread k).scene).regs ∨
        0 ∈ (s.thread k).cached ∧ (256 ≤ word ∧ word < 264 ∨ word = predWord ∨ word = fpsrWord)) →
      ∃ t, exec (.sramSoftError .registerCache k word) s = .next t ∧ word ∈ (t.thread k).bad ∧
        (t.thread k).v = (s.thread k).v ∧ t.mem = s.mem) ∧
    (k < s.scenes.length → s.storesHere k = true → 4 * word < (s.scene k).alloc + 2 * (s.scene k).win →
      ∃ t, exec (.sramSoftError .scratchpad k word) s = .next t ∧ word ∈ (t.scene k).bad ∧ (t.scene k).sp = (s.scene k).sp ∧
        t.mem = s.mem) ∧
    (k < s.scenes.length → s.storesHere k = true → word / 8448 < (s.scene k).oslots.length →
      ∃ t, exec (.sramSoftError .operandMemory k word) s = .next t ∧
        (word % 8448 ∈ ((t.scene k).slot (word / 8448)).bad) ∧ t.mem = s.mem) ∧
    (∀ x, k < 4 → s.homeDieOf (128 * word) = k → s.l2.find? (fun x => x.key == .phys word) = some x →
      ∃ t, exec (.sramSoftError .cacheLine (0x1000 + k) word) s = .next t ∧ t.mem = s.mem ∧
        if x.dirty then t.linePsn word = true else ∀ y ∈ t.l2, y.key ≠ .phys word)

/-! ## Host, links and the Continuity Processor -/

/-- The host (R418 to R420, R422): an open device answers configuration reads and requests to the vectors of registered
functions (log entry 75), serves the reads and writes of registered
contexts through their translation, drops or poisons those of others, and performs atomics; a snoop with data takes the
line. -/
def Sys2Proof.Claim.HostSteps : Prop :=
  ∀ (s : State), s.mbReady = true → s.power = .run →
    (∀ f ≤ 1024, ∃ t bs, exec (.hostConfigAccess (.config f)) s = .next t ∧ t.hostReply = .data bs ∧ bs.length = 4 ∧
      t.mem = s.mem) ∧
    (∀ f < 1024, ∀ write, ∃ t, exec (.hostConfigAccess (.vectors f write)) s = .next t ∧ t.mem = s.mem ∧
      ((s.ctx f).registered = false → t.hostReply = .unsupported) ∧
      ((s.ctx f).registered = true → write = true → t.hostReply = .done) ∧
      ((s.ctx f).registered = true → write = false → ∃ bs, t.hostReply = .data bs ∧ bs.length = 4)) ∧
    (∀ ctx off n data, ctx < 1024 → off < 2 ^ 36 → (s.ctx ctx).registered = false →
      (∃ t, exec (.hostHdmAccess (ctx * 2 ^ 36 + off) true n data) s = .next t ∧ t.hostReply = .dropped ∧ t.mem = s.mem) ∧
      ∃ t, exec (.hostHdmAccess (ctx * 2 ^ 36 + off) false n data) s = .next t ∧ t.hostReply = .poison ∧ t.mem = s.mem) ∧
    (∀ ctx off data x z, ctx < 1024 → off < 2 ^ 36 → (s.ctx ctx).registered = true →
      let va := (s.ctx ctx).hwBase + off
      (s.hostSpans (hostReq s ctx) va data.length true = (.ok [(va, data.length, x)], z) → x.pkg = z.pkgId →
        z.lineRefuses x va data.length = none → x.pa % 128 + data.length ≤ 128 → z.mapsFull (x.pa / 65536) = false →
        z.roomy = true →
        ∃ t, exec (.hostHdmAccess (ctx * 2 ^ 36 + off) true data.length data) s = .next t ∧ t.hostReply = .done ∧
          t.mem.readN x.pa data.length = data ∧
          ∀ p, p < x.pa ∨ x.pa + data.length ≤ p → t.mem.read p = z.mem.read p) ∧
      (s.hostSpans (hostReq s ctx) va data.length false = (.ok [(va, data.length, x)], z) → x.pkg = z.pkgId →
        (x.cm = 2 → z.lineWr (lineOf x.pa) = true) → z.linePsn (lineOf x.pa) = false →
        Sees z extReader .mem → z.roomy = true →
        ∃ t, exec (.hostHdmAccess (ctx * 2 ^ 36 + off) false data.length []) s = .next t ∧
          t.hostReply = .data (z.mem.readN x.pa data.length) ∧ t.mem = z.mem)) ∧
    (∀ ctx off v x z, ctx < 1024 → (s.ctx ctx).registered = true → off < 2 ^ 32 → off % 8 = 0 →
      s.translate (hostReq s ctx) ((s.ctx ctx).hwBase + off) false true none = (.ok x, z) → x.cm ≠ 2 → x.pkg = z.pkgId →
      z.linePsn (lineOf x.pa) = false → x.pa % 8 = 0 → z.mapsFull (x.pa / 65536) = false → z.roomy = true →
      ∃ t bs, exec (.hostAtomicWindowAccess ctx off .fetchAdd 0 v) s = .next t ∧ t.hostReply = .data bs ∧
        leNat bs = z.mem.num x.pa 8 ∧ t.mem.num x.pa 8 = (z.mem.num x.pa 8 + v.toNat) % 2 ^ 64) ∧
    (∀ l data, isHostPa (128 * l) = true → data.length = 128 →
      ∃ t, exec (.hostSnoop l data) s = .next t ∧ (∀ p, p < 128 * l ∨ 128 * l + 128 ≤ p → t.mem.read p = s.mem.read p) ∧
        if populated (128 * l) = true then t.mem.readN (128 * l) 128 = data ∧ ∀ x ∈ t.l2, x.key ≠ .phys l else t = s)

/-- Peer packages (R424, R425): a read, a write or an atomic through an export entry to a usable frame of the mapped context is served, any
other is refused with PROT 0x0802 and changes no byte; a retried flit changes nothing; a plane that goes down, or comes
back, is marked so, a port that disagrees with the package ID stays down (R423), and with every plane down no package is
reached until one is restored. -/
def Sys2Proof.Claim.LinkSteps : Prop :=
  ∀ (s : State),
    (∀ pkg ctx pa ask, s.power = .run → s.standalone = false → pkg ≤ 143 → pkg ≠ s.pkgId → 0 < remoteBytes ask.op →
      pa % 128 + remoteBytes ask.op ≤ 128 →
      (s.remoteAdmits pkg ctx pa ask = true → ∀ n, ask.op = .read n → tagType (s.frameTag (frameOf pa)) ≠ 2 →
        s.linePsn (lineOf pa) = false → Sees s extReader .mem → s.roomy = true →
        ∃ t, exec (.remoteRequest pkg ctx pa ask) s = .next t ∧ t.remoteReply = .data (s.mem.readN pa n) ∧ t.mem = s.mem) ∧
      (s.remoteAdmits pkg ctx pa ask = true → ∀ bs, ask.op = .write bs → s.lineRefuses (s.homeXlat pa) 0 bs.length = none →
        s.mapsFull (pa / 65536) = false → s.roomy = true →
        ∃ t, exec (.remoteRequest pkg ctx pa ask) s = .next t ∧ t.remoteReply = .done ∧ t.mem.readN pa bs.length = bs ∧
          ∀ p, p < pa ∨ pa + bs.length ≤ p → t.mem.read p = s.mem.read p) ∧
      (s.remoteAdmits pkg ctx pa ask = true → ∀ n new,
        (∃ v, ask.op = .atomic 0 v ∧ n = 4 ∧ new = (s.mem.num pa n + v.toNat) % 2 ^ 32) ∨
          (∃ v, ask.op = .atomic 1 v ∧ n = 8 ∧ new = (s.mem.num pa n + v.toNat) % 2 ^ 64) ∨
          (∃ e v : DWord, ask.op = .cas true e v ∧ n = 8 ∧ new = if s.mem.num pa n = e.toNat then v.toNat else s.mem.num pa n) →
        tagType (s.frameTag (frameOf pa)) ≠ 2 → s.linePsn (lineOf pa) = false → s.mapsFull (pa / 65536) = false → s.roomy = true →
        ∃ t, exec (.remoteRequest pkg ctx pa ask) s = .next t ∧ t.remoteReply = .data (leBytes n (s.mem.num pa n)) ∧
          t.mem.num pa n = new ∧ ∀ p, p < pa ∨ pa + n ≤ p → t.mem.read p = s.mem.read p) ∧
      (s.remoteAdmits pkg ctx pa ask = false →
        ∃ t, exec (.remoteRequest pkg ctx pa ask) s = .next t ∧ t.remoteReply = .refused 2 0x0802 ∧
          ({ t with remoteReply := s.remoteReply } : State) = s)) ∧
    (∀ port, exec (.flitRetry port) s = .next s) ∧
    (∀ port, s.standalone = false → port < 18 → ∃ t, exec (.linkPortDown port) s = .next t ∧ port ∈ t.portsDown ∧
      (∀ p, p ≠ port → (p ∈ t.portsDown ↔ p ∈ s.portsDown)) ∧
      ((∀ p < 18, p ∈ t.portsDown) → ∀ pkg < 144, pkg ≠ s.pkgId → pkg ∈ t.cutOff ∧ t.unreachable pkg = true)) ∧
    (∀ port, ∃ t, exec (.planeRestored port) s = .next t ∧ t.cutOff = [] ∧
      (port ∈ t.portsDown ↔ port ∈ s.portsDown ∧ port ∈ s.badPorts) ∧
      ∀ p, p ≠ port → (p ∈ t.portsDown ↔ p ∈ s.portsDown))

/-- The mailbox (R427 to R431): with bring-up ended, firmware verified and the part not retired, a well-formed REGCTX
registers its context with every register at its reset value, DEREGCTX ends it, SETPART moves the stages it sets, EXPORT adds
an entry, ATTEST leaves a report, LOADKEY fills a slot and LOADFW stages an image, where their signatures verify; each answers status 0. A `SETPART` waits
until the scenes on a stage that moves are swapped out. A retired part answers 7 and does nothing; another command word answers 1;
a read gives the mailbox's bytes. -/
def Sys2Proof.Claim.MailboxSteps : Prop :=
  ∀ (s : State) (p : List Byte), s.mbReady = true → s.mbWait = false → s.power = .run → s.fwOk = true →
    let f := fun (a n : Nat) => leNat ((p.drop a).take n)
    let zero := fun (named : List (Nat × Nat)) => restZero p named = true
    (s.lcs = 3 → ∀ i ∈ [Instr.regctx p, .setpart p, .exportEntry p, .loadkey p, .loadfw p],
      ∃ t, exec i s = .next t ∧ t.mbStatus = 7 ∧ ({ t with mailbox := s.mailbox } : State) = s) ∧
    (∀ data, data.length = 4 → (leNat data = 0 ∨ 8 < leNat data) →
      ∃ t, exec (.hostConfigAccess (.mailbox 0 true 0 data)) s = .next t ∧ t.mbStatus = 1 ∧ t.hostReply = .done ∧
        ({ t with mailbox := s.mailbox, hostReply := s.hostReply } : State) = s) ∧
    (∀ a n, a + n ≤ 4096 → ∃ t, exec (.hostConfigAccess (.mailbox a false n [])) s = .next t ∧
      t.hostReply = .data (s.mailbox.readN a n) ∧ ({ t with hostReply := s.hostReply } : State) = s) ∧
    (s.lcs ≠ 3 → p.length = 64 →
      (s.lcs ≠ 0 → zero [(0, 6), (8, 16)] → f 5 1 < 8 → f 0 4 < 1024 → f 4 1 < 48 → f 8 8 < 2 ^ 57 → f 8 8 % 65536 = 0 →
        f 16 8 % 4096 = 0 → isHbm (f 16 8) = true → tagType (s.frameTag (frameOf (f 16 8))) = 0 →
        ((s.part (f 4 1)).stages.any fun g => g / 12 == f 5 1 % 4) = true → (s.ctx (f 0 4)).registered = false →
        ∃ t, exec (.regctx p) s = .next t ∧ t.mbStatus = 0 ∧ t.mem = s.mem ∧ (t.ctx (f 0 4)).registered = true ∧
          (t.ctx (f 0 4)).homeDie = f 5 1 % 4 ∧ (t.ctx (f 0 4)).part = f 4 1 ∧ (t.ctx (f 0 4)).ptRoot = f 16 8 ∧
          (t.ctx (f 0 4)).hwBase = f 8 8 ∧ (t.ctx (f 0 4)).policy = 0x00237EDE ∧ (t.ctx (f 0 4)).fqLog2 = 4 ∧
          (t.ctx (f 0 4)).taskCnt = 0 ∧ ∀ c, c ≠ f 0 4 → t.ctx c = s.ctx c) ∧
      (zero [(0, 4)] → f 0 4 < 1024 → (s.ctx (f 0 4)).registered = true → s.endable (f 0 4) = true →
        ∃ t, exec (.deregctx p) s = .next t ∧ t.mbStatus = 0 ∧ (t.ctx (f 0 4)).registered = false) ∧
      (zero [(0, 1), (8, 6)] → f 0 1 < 48 → (∀ core, s.coreClear core = true) →
        ∃ t, exec (.setpart p) s = .next t ∧ t.mbStatus = 0 ∧ t.mem = s.mem ∧
          ∀ g < 48, ((f 8 6).testBit g = true ↔ g ∈ (t.part (f 0 1)).stages) ∧
            ((f 8 6).testBit g = true → ∀ q < 48, q ≠ f 0 1 → g ∉ (t.part q).stages)) ∧
      (zero [(0, 1), (8, 6)] → f 0 1 < 48 → ∀ k g, k < s.scenes.length → (s.scene k).st = .resident →
        (s.scene k).core ∈ stageCores g → g < 48 → (f 8 6).testBit g = true → g ∉ (s.part (f 0 1)).stages →
        ∃ t, exec (.setpart p) s = .next t ∧ t.mbWait = true ∧ (t.scene k).st = .saving ∧ t.parts = s.parts ∧ t.mem = s.mem) ∧
      (zero [(0, 2), (4, 8)] → f 0 1 = 0 → f 1 1 ≤ 143 → f 4 4 < 1024 → f 8 4 < 1024 → (s.ctx (f 8 4)).registered = true →
        s.exports.length < 4096 →
        ∃ t, exec (.exportEntry p) s = .next t ∧ t.mbStatus = 0 ∧ t.exportOf (f 1 1) (f 4 4) = some (f 8 4) ∧ t.mem = s.mem) ∧
      (zero [(0, 4), (32, 32)] → f 0 4 < 1024 → (s.ctx (f 0 4)).registered = true →
        ∃ t, exec (.attest p) s = .next t ∧ t.mbStatus = 0 ∧ leNat (t.mbReport.take 4) = 0x52455041 ∧
          (t.mbReport.drop 16).take 32 = p.drop 32 ∧ t.mem = s.mem) ∧
      (zero [(0, 1), (8, 12)] → 1 ≤ f 0 1 → f 0 1 ≤ 4 → f 8 8 % 64 = 0 → f 16 4 % 64 = 0 → 128 ≤ f 16 4 → f 16 4 ≤ 2 ^ 26 →
        isHostPa (f 8 8) = true →
        let readable := populated (f 8 8) && populated (f 8 8 + f 16 4 - 1)
        ∃ t, exec (.loadfw p) s = .next t ∧ t.mem = s.mem ∧
          if readable = false then t.mbStatus = 8 ∧ t.staged = s.staged
          else if signedBy Config.vendorKey (s.mem.readN (f 8 8) (f 16 4)) = true then
            t.mbStatus = 0 ∧ t.image (f 0 1) = s.mem.readN (f 8 8) (f 16 4)
          else t.mbStatus = 5 ∧ t.staged = s.staged)) ∧
    (s.lcs ≠ 3 → p.length = 136 → zero [(0, 1), (8, 128)] → 1 ≤ f 0 1 → f 0 1 ≤ 15 →
      ∃ t, exec (.loadkey p) s = .next t ∧ t.mem = s.mem ∧
        if signedBy Config.vendorKey p = true then t.mbStatus = 0 ∧ t.keys.get (f 0 1) = beNat ((p.drop 8).take 64)
        else t.mbStatus = 5 ∧ t.keys = s.keys) ∧
    (s.lcs = 0 → p.length = 72 → zero [(0, 1)] → f 0 1 = 1 → s.ctxs = [] →
      ∃ t, exec (.setlcs p) s = .next t ∧ t.mbStatus = 0 ∧ t.lcs = 1 ∧ t.keys = [] ∧
        ∀ a, isHbm a = true → t.mem.read a = 0)

/-- Power (R423, R432, R435, R436): bring-up measures the images, and where all verify the part runs with every supervisor
register at its reset value, the package ID of its link ports and a supervisor thread on each die (log entry 76); where one does
not, only the mailbox answers. The power limit pauses or frees admission,
STANDBY ends at a wake, and power-off loses HBM and takes the links down. -/
def Sys2Proof.Claim.PowerSteps : Prop :=
  ∀ (s : State),
    (s.power = .boot ∨ s.power = .off → ∃ t, exec .bringUp s = .next t ∧ t.mbReady = true ∧ t.fwOk = s.measure.2 ∧
      t.fwDigest = s.measure.1 ∧ t.power = (if s.measure.2 then .run else .boot) ∧ t.dies = .replicate 4 .reset ∧ t.ctxs = [] ∧
      (s.measure.2 = false → t.threads = [] ∧ t.scenes = []) ∧
      (s.measure.2 = true → t.standalone = portId.isNone ∧ t.pkgId = portId.getD 0 ∧ t.portsDown = disagreeing ∧
        t.scenes.length = 4 ∧ ∀ d < 4, (t.scene d).ctx = supCtx ∧ (t.scene d).core = 64 * d + 48 ∧ (t.scene d).st = .resident) ∧
      t.lcs = s.lcs ∧ ∀ a, isHbm a = true → t.mem.read a = 0) ∧
    (∀ b, s.power = .run → exec (.powerLimitReached b) s = .next { s with powerLow := b }) ∧
    (s.power = .standby → exec .standbyWake s = .next { s with power := .run }) ∧
    (∃ t, exec .powerOff s = .next t ∧ t.power = .off ∧ t.mbReady = false ∧ (∀ p < 18, p ∈ t.portsDown) ∧
      ∀ a, isHbm a = true → t.mem.read a = 0)

/-! ## The whole machine -/

/-- Reset (R377, R401): the values that the tables of the supervisor registers give, for every die and for a context without a
registration. That no thread, scene or operation exists, that the package stands before its bring-up (log entry 4) and that
memory lists nothing, in its canonical form (log entry 6), are the model's choices. -/
def Obligations.ResetValues : Prop :=
  (∀ d < 4, let r := State.reset.die d
    r.ageMax = 8 ∧ r.parkFrac = 32 ∧ r.parkT = 20 ∧ r.quantum = 2000 ∧ r.woTimeout = 100 ∧ r.conflTh = 4096 ∧ r.supQLog2 = 4 ∧
    r.dailyLog2 = 8 ∧ r.silLog2 = 8 ∧ r.evPend = 0 ∧ r.evMask = 0 ∧ r.evSvc = 0 ∧ r.evEntry = 0 ∧ r.timer = 0 ∧
    r.supQBase = 0 ∧ r.sPtRoot = 0 ∧ r.sBufBase = 0 ∧ r.sBufCnt = 0 ∧ r.skTab = 0 ∧ r.skTCnt = 0 ∧ r.dailyCfg = 0 ∧ r.silCfg = 0) ∧
  (∀ c, (State.reset.ctx c).policy = 0x00237EDE ∧ (State.reset.ctx c).fqLog2 = 4 ∧ (State.reset.ctx c).registered = false ∧
    (State.reset.ctx c).bufCnt = 0 ∧ (State.reset.ctx c).taskCnt = 0 ∧ (State.reset.ctx c).fqBase = 0) ∧
  State.reset.threads = [] ∧ State.reset.scenes = [] ∧ State.reset.takes = [] ∧ State.reset.ops = [] ∧
  State.reset.power = .boot ∧ State.reset.mbReady = false ∧ State.reset.mem = [] ∧ State.reset.mem.wf = true

/-- Words of the spec's encodings decode to the instructions that they stand for (R133 to R146). -/
def Obligations.WordsDecode : Prop :=
  (∃ w, decodeTableWord 64 0x4B0020020201B241 = some (.ffma w) ∧ w.d = 4 ∧ w.a = 1 ∧ w.b = 2 ∧ w.c = 3 ∧ w.pg = 3 ∧ w.dist = 2 ∧
    w.cue = 4 ∧ w.xm = 1) ∧
  (∃ w, decodeTableWord 64 0x7820480E10200012 = some (.ldg w) ∧ w.mod = 2 ∧ w.d = 9 ∧ w.a = 7 ∧ w.s = 2 ∧ w.imm = 0x40 ∧ w.cue = 1 ∧
    w.ex = 2) ∧
  (∃ w, decodeTableWord 64 0x0401807FFFFFFE00 = some (.iaddi w) ∧ w.d = 3 ∧ w.a = 3 ∧ w.imm = 0xFFFFFFF0) ∧
  (∃ w, decodeTableWord 64 0x30000003FFFFFF85 = some (.bra w) ∧ w.tgt = 0x3FFFFFF8 ∧ w.pg = 2 ∧ w.pn = true) ∧
  (∃ w, decodeTableWord 64 0x7B00300210000032 = some (.casg w)) ∧ (∃ w, decodeTableWord 64 0x9D50022915000020 = some (.mstream w)) ∧
  (∃ w, decodeTableWord 64 0xB0002A2601010010 = some (.sld w)) ∧ (∃ w, decodeTableWord 64 0xE400022915000010 = some (.resumeRec w)) ∧
  (∃ w, decodeTableWord 64 0xEE0002311A000020 = some (.ptwr w))

/-- Encoding loses no operand: the words of a well-formed instruction decode to it (R133 to R146). -/
def Obligations.RoundTrip : Prop :=
  ∀ (i : Instr) (n : Nat), i.wellFormed → encode i = some n → decodeWord n = .instr i

/-- Every step keeps the canonical form of memory: addresses strictly rising, no listed byte zero (the model's form of R2's byte
memory, log entry 6). -/
def Obligations.MemoryStaysCanonical : Prop :=
  ∀ s t : State, s.mem.wf = true → step s = .next t → t.mem.wf = true

/-- A step whose turn is a take's word decodes the word at the take's position in its code row and executes it, in the state in
which every result that is due has arrived and what is noted between turns is noted, whose agenda has moved on, and in which that
take, that address and that position are current (R29, R31, R129, R143). The clocks run, and a stepped word between its steps goes
on only while its scene issues (R34, R436). -/
def Sys2Proof.Claim.StepRunsTheWord : Prop :=
  ∀ (s : State) (tk : Nat) (rest : List Turn) (pipe : Bool) (i : Instr),
    let u := s.between
    let y := u.take tk
    let c := u.scene y.scene
    u.agenda = .word tk :: rest → u.clocked = true → y.st = .issuing pipe →
    (y.betweenSteps = false ∨ u.canIssue y.scene = true) →
    decodeWord (u.codeNum y.core c (c.codeOff y.pc + 8 * (y.pos + 1)) 32) = .instr i →
    step s = exec i { u with
      agenda := rest, cur := some { take := tk, addr := y.pc + BitVec.ofNat 64 (8 * (y.pos + 1)), pos := y.pos } }

/-- An event of the agenda executes, time runs on, and an empty agenda takes the default turn (R15, R33): the model's choice of an
order that the spec leaves open (log entry 1). Where the clocks are gated only what needs none goes on (R436). What holds between
turns is no change of the agenda or the clock unless a mailbox command goes on. -/
def Sys2Proof.Claim.StepRunsTheTurn : Prop :=
  ∀ (s : State) (rest : List Turn),
    let u := s.between
    (∀ i : Instr, i.opcode = 0x100 → u.agenda = .ev i :: rest →
      step s = if u.clocked = true ∨ needsNoClock i = true then exec i { u with agenda := rest }
        else .next { u with agenda := rest }) ∧
    (∀ n, u.agenda = .tick n :: rest →
      step s = .next { u with agenda := rest, clock := if u.clocked then u.clock + n else u.clock }) ∧
    (u.agenda = [] → step s = u.turn u.defaultTurn) ∧
    (s.mbWait = false → u.agenda = s.agenda ∧ u.clock = s.clock ∧ u.mem = s.mem)

/-- A word that must wait holds its pipe (R32, R54, R56): its take stays where it is with one more cycle of hold, and nothing
changes but the clock, or, with 64 cycles of hold behind it, the clause is suspended there; a word that names a main register
beyond the scene's count does nothing but raise REGBOUND in every active lane (R53), here where the context has no fault queue and
no record waits: each thread leaves the take and stands at the word, with its registers as they were. -/
def Obligations.HeldAndRefusedWords : Prop :=
  ∀ (w : TWord) (v : IWord) (m : MWord) (i : Instr) (s : State) (c : Cur),
    i ∈ intWords w ∨ i ∈ floatWords w ∨ i ∈ immWords v ∨ i = .ldg m ∨ i = .stg m ∨ i = .lds m ∨ i = .sts m →
    s.cur = some c →
    let u := s.issue c i
    let x := s.atIssue c i
    let ctx := (u.scene x.scene).ctx
    (x.outside u = false → wordHolds u ((u.take c.take).progress != 0) x.lanes i = true → c.take < u.takes.length →
      ((u.take c.take).holds < 64 →
        ∃ t, exec i s = .next t ∧ t.clock = u.clock + 1 ∧ (t.take c.take).holds = (u.take c.take).holds + 1 ∧
          (t.take c.take).pos = (u.take c.take).pos ∧ (t.take c.take).st = (u.take c.take).st ∧ SameTakes u t c.take ∧
          ({ t with takes := u.takes, clock := u.clock } : State) = u) ∧
      (64 ≤ (u.take c.take).holds →
        ∃ t, exec i s = .next t ∧ (t.take c.take).st = .suspended ∧ (t.take c.take).pos = (u.take c.take).pos ∧
          SameTakes u t c.take ∧ ({ t with takes := u.takes } : State) = u)) ∧
    (x.outside u = true → (x.lanes.map Prod.snd).Nodup → ctx < 1024 → (u.ctx ctx).fqBase = 0 → u.held = [] →
      (∀ l ∈ x.lanes, l.2 < u.threads.length ∧ (u.thread l.2).scene = x.scene ∧ (u.thread l.2).place = .take c.take) →
      ∃ t, exec i s = .next t ∧ ({ t with threads := u.threads, takes := u.takes, held := [] } : State) = u ∧
        SameTakes u t c.take ∧
        (∀ th, (t.thread th).v = (u.thread th).v ∧ (t.thread th).o = (u.thread th).o ∧ (t.thread th).p = (u.thread th).p ∧
          (t.thread th).fpsr = (u.thread th).fpsr ∧ (t.thread th).cue = (u.thread th).cue) ∧
        (∀ l ∈ x.lanes, (t.thread l.2).pc = c.addr ∧ (t.thread l.2).place = .nowhere ∧
          (t.thread l.2).halted = u.halts ctx 0x12 ∧ (t.thread l.2).parked = !u.halts ctx 0x12) ∧
        t.held.map (fun h => (h.queue, h.fault.kind, h.fault.detail, h.fault.tid)) =
          x.lanes.map fun l => (ctx, 0x12, 0, (u.thread l.2).tid))

/-! ## The statements that several claims make up -/

/-- The per-lane words, `NOP`, and the control words but for barriers and `REFILL` complete (R57, R143, R149, R151, R171, R172, R175,
R176, R179, R181 to R183). -/
def Obligations.PerLaneWordsComplete : Prop :=
  Claim.LaneWordsComplete ∧ Claim.ControlWordsComplete

/-- The frame of the per-lane words, and the flags of the integer ones (R58, R112, R139, R149). -/
def Obligations.PerLaneWordsFrame : Prop :=
  Claim.PerLaneWordsFrame ∧ Claim.IntegerWordsSetOnlySat

/-- 32-bit integer sums, differences and products, with saturation and with carries (R104, R154 to R156). -/
def Obligations.IntegerArithmetic : Prop :=
  Claim.IaddiAdds ∧ Claim.WordArithmeticWraps ∧ Claim.SaturatingSum ∧ Claim.CarryAndBorrow

/-- Moves, logic and shifts of 32-bit words (R108, R152, R157 to R159). -/
def Obligations.MovesLogicAndShifts : Prop :=
  Claim.LogicWords ∧ Claim.MoveWords ∧ Claim.ShiftWords ∧ Claim.Lop3Table

/-- Predicate words and integer comparisons (R59, R162 to R165). -/
def Obligations.PredicatesAndCompares : Prop :=
  Claim.PlopTable ∧ Claim.PmovGroup ∧ Claim.IcmpiTests ∧ Claim.IcmpCompares

/-- The words that write uniform registers (R58, R153). -/
def Obligations.UniformWords : Prop :=
  Claim.UmovWrites ∧ Claim.UiaddWrites

/-- Exchanges between lanes, votes and ballots over them (R166 to R168, R203). -/
def Obligations.LaneExchangeAndVotes : Prop :=
  Claim.LaneExchange ∧ Claim.VoteTests ∧ Claim.BallotMasks

/-- NaNs in arithmetic, minima, maxima and comparisons (R108, R118, R188, R189). -/
def Obligations.FloatSpecialCases : Prop :=
  Claim.NanIsCanonical ∧ Claim.MinMaxRules ∧ Claim.NanCompares

/-- The transcendental words start, with the values of their special cases (R119, R144, R192). -/
def Obligations.Transcendentals : Prop :=
  Claim.TranscendentalsStart ∧ Claim.TranscendentalSpecialCases

/-- `EXIT`, and `SPAWN` at an entry and elsewhere (R17, R23, R24, R175, R176). -/
def Obligations.ThreadsStartAndEnd : Prop :=
  Claim.ExitEndsThreads ∧ Claim.SpawnStarts ∧ Claim.SpawnChecksEntry

/-- Joining and leaving casts (R42, R43, R177). -/
def Obligations.CastMembership : Prop :=
  Claim.JoinEnters ∧ Claim.LeaveEndsMembership

/-- Barriers: arriving and waiting, completing a phase, and a thread of no cast (R44, R46, R178). -/
def Obligations.Barriers : Prop :=
  Claim.BarriersArriveAndWait ∧ Claim.LastArrivalCompletes ∧ Claim.BarOutsideCastStops

/-- Stores to the scratchpad and to the windows of other cores (R70, R73, R219, R221, R222), performed at issue (log entry 7). -/
def Obligations.ScratchpadStores : Prop :=
  Claim.ScratchpadStores ∧ Claim.ExchangeStores

/-- Loads of constants and of matrix fragments (R62, R220, R226). -/
def Obligations.ConstantAndFragmentLoads : Prop :=
  Claim.ConstantLoads ∧ Claim.FragmentLoads

/-- `FENCE` and `FENCEX`, and what a reader of another path class sees without one (R66, R84, R93, R96, R97, R227, R228). -/
def Obligations.Fences : Prop :=
  Claim.FencesAcquire ∧ Claim.FencexWritesBack ∧ Claim.FencexOrders ∧ Claim.GranulesAreWhole

/-- `BUFQ`, `PGREQ` and `PRFG` (R238 to R240); what they read and fetch, they read and fetch at issue (log entry 7). -/
def Obligations.Queries : Prop :=
  Claim.BufqAnswers ∧ Claim.RequestsAndPrefetches

/-- `FILL` and `LOOPN` (R34, R207 to R212). -/
def Obligations.NestsAndFills : Prop :=
  Claim.FillWrites ∧ Claim.LoopNests

/-- The copies start, and their slots are counted (R231 to R236). -/
def Obligations.CopiesStart : Prop :=
  Claim.LaneCopiesStart ∧ Claim.BulkCopiesStart ∧ Claim.MulticastsStart ∧ Claim.SlotReturns

/-- The task instructions (R288 to R290): their reads and writes of records are performed at issue (log entry 7). -/
def Obligations.Tasks : Prop :=
  Claim.TaskWords ∧ Claim.TaskQueries

/-- The surface instructions (R326 to R339): their accesses are performed at issue, in the order of the checks that log entries 7 and
34 name. -/
def Obligations.Surfaces : Prop :=
  Claim.SurfaceWords ∧ Claim.SurfaceOnceWords

/-- Render passes, visibility and motion requests (R343 to R352): their accesses are performed at issue (log entry 7), with the
readings of log entries 35 and 36. -/
def Obligations.PassesAndMotion : Prop :=
  Claim.PassWords ∧ Claim.MotionWords

/-- The steps of a core between words (R24, R32, R33, R36, R37, R54, R179, R380, R396). -/
def Obligations.CoreSteps : Prop :=
  Claim.CoreSteps ∧ Claim.PipesAreTaken ∧ Claim.RoundsAndReels

/-- Scenes come and go, and partitions change hands (R17, R19, R389 to R395, R436), with the readings of log entries 42 and 43. -/
def Obligations.ScenesAndSlices : Prop :=
  Claim.SceneSteps ∧ Claim.SliceSteps

/-- Operations and units complete, wait and go on (R71, R89, R139, R144, R230, R273, R285, R286, R334, R346, R347, R351), line by line or at their completion as log entry 16 says. -/
def Obligations.OperationsComplete : Prop :=
  Claim.ResultsArrive ∧ Claim.LinesAndWaits ∧ Claim.UnitsGoOn

/-- Nodes and the units behind them (R280, R281, R285, R286, R334, R337, R346, R347, R351, R352, R353); a node's, a seal's and a request's work is one step (log entries 16 and 36). -/
def Obligations.NodesAndUnits : Prop :=
  Claim.NodesLaunch ∧ Claim.TilesDispatch ∧ Claim.NodesComplete ∧ Claim.SealsAndPasses ∧ Claim.MotionRequests

/-- Events, their handlers, and register writes that are steps of their own (R366, R383, R401, R402, R404, R438, R443). -/
def Obligations.EventsAndRegisters : Prop :=
  Claim.EventSteps ∧ Claim.RegisterSteps

/-- The steps of the memory system (R292, R295, R365, R368, R369, R371 to R374), with the readings of log entries 48 to 50. -/
def Obligations.MemorySystem : Prop :=
  Claim.CacheSteps ∧ Claim.MemorySteps ∧ Claim.SoftErrors

/-- What reaches the package from outside (R418 to R425), with the readings of log entries 46 and 47. -/
def Obligations.HostAndLinks : Prop :=
  Claim.HostSteps ∧ Claim.LinkSteps

/-- The mailbox, bring-up and power (R427 to R436), with the readings of log entries 13, 44 and 45. -/
def Obligations.ContinuityProcessor : Prop :=
  Claim.MailboxSteps ∧ Claim.PowerSteps

/-- A step runs the word that it decodes, or the turn that comes next (R15, R29, R31, R33, R129). -/
def Obligations.StepRunsTheWord : Prop :=
  Claim.StepRunsTheWord ∧ Claim.StepRunsTheTurn
end

