-- ==== Sys2Proof/Laws/Memory.lean ====
section
/-! SUPPORT. Laws of memory: every operation keeps the canonical form, a byte reads as it was written, and every other
byte reads as before. -/

namespace Sys2Proof.Machine

theorem Memory.wfFrom_mono {lo hi : Nat} (h : lo ≤ hi) : ∀ {m : Memory}, Memory.wfFrom hi m = true → Memory.wfFrom lo m = true
  | [], _ => rfl
  | (k, b) :: rest, hm => by
    simp only [Memory.wfFrom, Bool.and_eq_true, decide_eq_true_eq] at hm ⊢
    exact ⟨⟨Nat.le_trans h hm.1.1, hm.1.2⟩, hm.2⟩

theorem Memory.wfFrom_put {a : Nat} {x : Byte} (hx : x ≠ 0) : ∀ {m : Memory} {lo : Nat}, lo ≤ a →
    Memory.wfFrom lo m = true → Memory.wfFrom lo (m.put a x) = true
  | [], lo, ha, _ => by
    have : x ≠ 0#8 := hx
    simp [Memory.put, Memory.wfFrom, ha, this]
  | (k, b) :: rest, lo, ha, hm => by
    simp only [Memory.wfFrom, Bool.and_eq_true, decide_eq_true_eq] at hm
    unfold Memory.put
    split
    · simp_all [Memory.wfFrom] <;> omega
    · split
      · simp_all [Memory.wfFrom]
      · rename_i h1 h2
        simp only [Memory.wfFrom, Bool.and_eq_true, decide_eq_true_eq]
        simp only [beq_iff_eq] at h2
        exact ⟨hm.1, Memory.wfFrom_put hx (by omega) hm.2⟩

theorem Memory.wfFrom_filter (p : Host.Cell → Bool) : ∀ {m : Memory} {lo : Nat}, Memory.wfFrom lo m = true →
    Memory.wfFrom lo (m.filter p) = true
  | [], _, _ => rfl
  | (k, b) :: rest, lo, h => by
    simp only [Memory.wfFrom, Bool.and_eq_true, decide_eq_true_eq] at h
    have ih := Memory.wfFrom_filter p (m := rest) h.2
    by_cases hp : p (k, b) = true
    · rw [List.filter_cons_of_pos hp]
      simp [Memory.wfFrom, h.1.1, ih]
      simpa using h.1.2
    · rw [List.filter_cons_of_neg hp]
      exact Memory.wfFrom_mono (Nat.le_succ_of_le h.1.1) ih

/-- A write keeps the canonical form. -/
theorem Memory.wf_write {m : Memory} (a : Nat) (x : Byte) (h : m.wf = true) : (m.write a x).wf = true := by
  unfold Memory.write
  split
  · exact Memory.wfFrom_filter _ h
  · rename_i hx
    exact Memory.wfFrom_put (by simpa using hx) (Nat.zero_le a) h

theorem Memory.wf_writeN : ∀ {bs : List Byte} {m : Memory} (a : Nat), m.wf = true → (m.writeN a bs).wf = true
  | [], _, _, h => h
  | _ :: _, _, a, h => Memory.wf_writeN (a + 1) (Memory.wf_write a _ h)

theorem Memory.wf_setNum {m : Memory} (a n x : Nat) (h : m.wf = true) : (m.setNum a n x).wf = true :=
  Memory.wf_writeN a h

/-- Dropping a range of addresses keeps the canonical form. -/
theorem Memory.wf_dropRange {m : Memory} (a n : Nat) (h : m.wf = true) : (m.dropRange a n).wf = true :=
  Memory.wfFrom_filter _ h

theorem Memory.wf_foldl_write (g : Nat × Byte → Nat) : ∀ {cells : List (Nat × Byte)} {m : Memory}, m.wf = true →
    (cells.foldl (fun m c => m.write (g c) c.2) m).wf = true
  | [], _, h => h
  | c :: cs, m, h => by
    rw [List.foldl_cons]
    exact Memory.wf_foldl_write g (cells := cs) (Memory.wf_write (g c) c.2 h)

theorem Memory.read_put (m : Memory) (a c : Nat) (x : Byte) : (m.put a x).read c = if c = a then x else m.read c := by
  induction m with
  | nil => simp [Memory.put, Memory.read]
  | cons e rest ih =>
    obtain ⟨k, b⟩ := e
    unfold Memory.put
    split
    · simp [Memory.read]
    · split
      · rename_i h
        simp only [beq_iff_eq] at h
        subst h
        by_cases hc : c = a <;> simp [Memory.read, hc]
      · rename_i h
        simp only [beq_iff_eq] at h
        simp only [Memory.read, ih, beq_iff_eq]
        by_cases hc : c = a
        · subst hc; simp [h]
        · simp [hc]

theorem Memory.read_drop (m : Memory) (a c : Nat) :
    Memory.read (m.filter fun e => e.1 != a) c = if c = a then 0 else m.read c := by
  induction m with
  | nil => simp [Memory.read]
  | cons e rest ih =>
    obtain ⟨k, b⟩ := e
    by_cases hk : k = a
    · subst hk
      simp only [List.filter_cons, bne_self_eq_false, Bool.false_eq_true, if_false, ih, Memory.read, beq_iff_eq]
      by_cases hc : c = k <;> simp [hc]
    · have : (k != a) = true := by simpa using hk
      simp only [List.filter_cons, this, if_true, Memory.read, ih, beq_iff_eq]
      by_cases hc : c = k
      · subst hc; simp [hk]
      · simp [hc]

/-- A byte reads as it was written, and every other byte reads as before. -/
theorem Memory.read_write (m : Memory) (a c : Nat) (x : Byte) : (m.write a x).read c = if c = a then x else m.read c := by
  unfold Memory.write
  split
  · rename_i h
    simp only [beq_iff_eq] at h
    rw [Memory.read_drop, h]
  · exact Memory.read_put m a c x

theorem Table.get_put (t : Table) (k j x : Nat) : (t.put k x).get j = if j = k then x else t.get j := by
  induction t with
  | nil => simp [Table.put, Table.get]
  | cons e rest ih =>
    obtain ⟨n, y⟩ := e
    unfold Table.put
    split
    · simp [Table.get]
    · split
      · rename_i h
        simp only [beq_iff_eq] at h
        subst h
        by_cases hj : j = k <;> simp [Table.get, hj]
      · rename_i h
        simp only [beq_iff_eq] at h
        simp only [Table.get, ih, beq_iff_eq]
        by_cases hj : j = k
        · subst hj; simp [h]
        · simp [hj]

theorem Table.get_drop (t : Table) (k j : Nat) : Table.get (t.filter fun e => e.1 != k) j = if j = k then 0 else t.get j := by
  induction t with
  | nil => simp [Table.get]
  | cons e rest ih =>
    obtain ⟨n, y⟩ := e
    by_cases hk : n = k
    · subst hk
      simp only [List.filter_cons, bne_self_eq_false, Bool.false_eq_true, if_false, ih, Table.get, beq_iff_eq]
      by_cases hj : j = n <;> simp [hj]
    · have : (n != k) = true := by simpa using hk
      simp only [List.filter_cons, this, if_true, Table.get, ih, beq_iff_eq]
      by_cases hj : j = n
      · subst hj; simp [hk]
      · simp [hj]

/-- An entry of a table reads as it was set, and every other entry reads as before. -/
theorem Table.get_set (t : Table) (k j x : Nat) : (t.set k x).get j = if j = k then x else t.get j := by
  unfold Table.set
  split
  · rename_i h
    simp only [beq_iff_eq] at h
    rw [Table.get_drop, h]
  · exact Table.get_put t k j x

/-- Bytes outside a stored run read as before. -/
theorem Memory.read_writeN_outside (c : Nat) : ∀ {bs : List Byte} {m : Memory} {a : Nat},
    (c < a ∨ a + bs.length ≤ c) → (m.writeN a bs).read c = m.read c
  | [], _, _, _ => rfl
  | b :: bs, m, a, hc => by
    have hl : (b :: bs).length = bs.length + 1 := rfl
    have h1 : c ≠ a := by omega
    rw [Memory.writeN, Memory.read_writeN_outside c (by omega), Memory.read_write, if_neg h1]

/-- Bytes inside a stored run read as stored. -/
theorem Memory.read_writeN_inside : ∀ {bs : List Byte} {m : Memory} {a : Nat} (i : Nat) (hi : i < bs.length),
    (m.writeN a bs).read (a + i) = bs[i]
  | b :: bs, m, a, 0, _ => by
    rw [Memory.writeN]
    show ((m.write a b).writeN (a + 1) bs).read a = b
    rw [Memory.read_writeN_outside a (by omega), Memory.read_write]
    simp
  | b :: bs, m, a, i + 1, hi => by
    rw [Memory.writeN, show a + (i + 1) = (a + 1) + i by omega,
      Memory.read_writeN_inside i (by simpa using hi)]
    rfl

/-- Memory is in its canonical form after reset. -/
theorem State.reset_mem_wf : State.reset.mem.wf = true := rfl

end Sys2Proof.Machine
end

