-- ==== Sys2Proof/Laws/PerInstr.lean ====
section
/-! SUPPORT. One lemma for each constructor of `Instr`: the opcode byte of its encoding. -/

namespace Sys2Proof.Laws.Opcode

/-- Bits 63 to 56 of an instruction's first word hold its opcode (R134 to R138). -/
def Statement (i : Instr) : Prop := ∀ n, encode i = some n → n / 2 ^ 56 % 256 = i.opcode

theorem of_some {i : Instr} {fs : List (Nat × Nat)} (he : i.fields = some fs)
    (h : packFields fs / 2 ^ 56 % 256 = i.opcode) : Statement i := by
  intro n hn
  rw [encode, he, Option.map_some, Option.some.injEq] at hn
  rw [← hn, h]

theorem of_none {i : Instr} (he : i.fields = none) : Statement i := by
  intro n hn
  rw [encode, he, Option.map_none] at hn
  cases hn

/-- A field is below its own bound. -/
theorem mod_lt_pow (x w : Nat) : x % 2 ^ w < 2 ^ w := Nat.mod_lt _ (Nat.two_pow_pos w)

/-- What stands above a field of a word. -/
theorem div_field (w v x k : Nat) (h : w ≤ k) : (v % 2 ^ w + 2 ^ w * x) / 2 ^ k = x / 2 ^ (k - w) := by
  obtain ⟨d, rfl⟩ := Nat.exists_eq_add_of_le h
  rw [Nat.pow_add, ← Nat.div_div_eq_div_mul, Nat.add_mul_div_left _ _ (Nat.two_pow_pos w),
    Nat.div_eq_of_lt (mod_lt_pow v w), Nat.zero_add, Nat.add_sub_cancel_left]

theorem t_op (op : Nat) (w : TWord) (h : op < 256) : packFields (tFields op w) / 2 ^ 56 % 256 = op := by
  simp only [tFields, packFields, div_field _ _ _ _ (by decide : 4 ≤ 56), div_field _ _ _ _ (by decide : 4 ≤ 52),
    div_field _ _ _ _ (by decide : 3 ≤ 48), div_field _ _ _ _ (by decide : 1 ≤ 45), div_field _ _ _ _ (by decide : 3 ≤ 44),
    div_field _ _ _ _ (by decide : 9 ≤ 41), div_field _ _ _ _ (by decide : 9 ≤ 32), div_field _ _ _ _ (by decide : 9 ≤ 23),
    div_field _ _ _ _ (by decide : 1 ≤ 14), div_field _ _ _ _ (by decide : 9 ≤ 13), div_field _ _ _ _ (by decide : 4 ≤ 4)]
  simp
  omega

theorem i_op (op : Nat) (w : IWord) (h : op < 256) : packFields (iFields op w) / 2 ^ 56 % 256 = op := by
  simp only [iFields, packFields, div_field _ _ _ _ (by decide : 2 ≤ 56), div_field _ _ _ _ (by decide : 3 ≤ 54),
    div_field _ _ _ _ (by decide : 32 ≤ 51), div_field _ _ _ _ (by decide : 9 ≤ 19), div_field _ _ _ _ (by decide : 1 ≤ 10),
    div_field _ _ _ _ (by decide : 9 ≤ 9)]
  simp
  omega

theorem m_op (op : Nat) (w : MWord) (h : op < 256) : packFields (mFields op w) / 2 ^ 56 % 256 = op := by
  simp only [mFields, packFields, div_field _ _ _ _ (by decide : 4 ≤ 56), div_field _ _ _ _ (by decide : 4 ≤ 52),
    div_field _ _ _ _ (by decide : 3 ≤ 48), div_field _ _ _ _ (by decide : 1 ≤ 45), div_field _ _ _ _ (by decide : 3 ≤ 44),
    div_field _ _ _ _ (by decide : 12 ≤ 41), div_field _ _ _ _ (by decide : 6 ≤ 29), div_field _ _ _ _ (by decide : 9 ≤ 23),
    div_field _ _ _ _ (by decide : 1 ≤ 14), div_field _ _ _ _ (by decide : 9 ≤ 13), div_field _ _ _ _ (by decide : 4 ≤ 4)]
  simp
  omega

theorem j_op (op : Nat) (w : JWord) (h : op < 256) : packFields (jFields op w) / 2 ^ 56 % 256 = op := by
  simp only [jFields, packFields, div_field _ _ _ _ (by decide : 1 ≤ 56), div_field _ _ _ _ (by decide : 3 ≤ 55),
    div_field _ _ _ _ (by decide : 30 ≤ 52), div_field _ _ _ _ (by decide : 9 ≤ 22), div_field _ _ _ _ (by decide : 9 ≤ 13),
    div_field _ _ _ _ (by decide : 4 ≤ 4)]
  simp
  omega

theorem l_op (op : Nat) (w : LWord) (h : op < 256) : packFields (lFields op w) / 2 ^ 56 % 256 = op := by
  simp only [lFields, List.cons_append, packFields, div_field _ _ _ _ (by decide : 9 ≤ 56),
    div_field _ _ _ _ (by decide : 3 ≤ 47), div_field _ _ _ _ (by decide : 4 ≤ 44), div_field _ _ _ _ (by decide : 1 ≤ 40),
    div_field _ _ _ _ (by decide : 3 ≤ 39), div_field _ _ _ _ (by decide : 6 ≤ 36), div_field _ _ _ _ (by decide : 6 ≤ 30),
    div_field _ _ _ _ (by decide : 6 ≤ 24), div_field _ _ _ _ (by decide : 6 ≤ 18), div_field _ _ _ _ (by decide : 4 ≤ 12),
    div_field _ _ _ _ (by decide : 8 ≤ 8)]
  simp
  omega

theorem nop (w : TWord) : Statement (.nop w) := of_some rfl (t_op 0x00 w (by decide))
theorem mov (w : TWord) : Statement (.mov w) := of_some rfl (t_op 0x01 w (by decide))
theorem movi (w : IWord) : Statement (.movi w) := of_some rfl (i_op 0x02 w (by decide))
theorem iadd (w : TWord) : Statement (.iadd w) := of_some rfl (t_op 0x03 w (by decide))
theorem iaddi (w : IWord) : Statement (.iaddi w) := of_some rfl (i_op 0x04 w (by decide))
theorem isub (w : TWord) : Statement (.isub w) := of_some rfl (t_op 0x05 w (by decide))
theorem iadd3 (w : TWord) : Statement (.iadd3 w) := of_some rfl (t_op 0x06 w (by decide))
theorem iaddc (w : TWord) : Statement (.iaddc w) := of_some rfl (t_op 0x07 w (by decide))
theorem isubb (w : TWord) : Statement (.isubb w) := of_some rfl (t_op 0x08 w (by decide))
theorem imul (w : TWord) : Statement (.imul w) := of_some rfl (t_op 0x09 w (by decide))
theorem imulh (w : TWord) : Statement (.imulh w) := of_some rfl (t_op 0x0A w (by decide))
theorem imad (w : TWord) : Statement (.imad w) := of_some rfl (t_op 0x0B w (by decide))
theorem isad (w : TWord) : Statement (.isad w) := of_some rfl (t_op 0x0C w (by decide))
theorem imin (w : TWord) : Statement (.imin w) := of_some rfl (t_op 0x0D w (by decide))
theorem imax (w : TWord) : Statement (.imax w) := of_some rfl (t_op 0x0E w (by decide))
theorem iabs (w : TWord) : Statement (.iabs w) := of_some rfl (t_op 0x0F w (by decide))
theorem and (w : TWord) : Statement (.and w) := of_some rfl (t_op 0x10 w (by decide))
theorem or (w : TWord) : Statement (.or w) := of_some rfl (t_op 0x11 w (by decide))
theorem xor (w : TWord) : Statement (.xor w) := of_some rfl (t_op 0x12 w (by decide))
theorem andn (w : TWord) : Statement (.andn w) := of_some rfl (t_op 0x13 w (by decide))
theorem lop3 (w : TWord) : Statement (.lop3 w) := of_some rfl (t_op 0x14 w (by decide))
theorem andi (w : IWord) : Statement (.andi w) := of_some rfl (i_op 0x15 w (by decide))
theorem ori (w : IWord) : Statement (.ori w) := of_some rfl (i_op 0x16 w (by decide))
theorem xori (w : IWord) : Statement (.xori w) := of_some rfl (i_op 0x17 w (by decide))
theorem shl (w : TWord) : Statement (.shl w) := of_some rfl (t_op 0x18 w (by decide))
theorem shr (w : TWord) : Statement (.shr w) := of_some rfl (t_op 0x19 w (by decide))
theorem shf (w : TWord) : Statement (.shf w) := of_some rfl (t_op 0x1A w (by decide))
theorem bfx (w : TWord) : Statement (.bfx w) := of_some rfl (t_op 0x1B w (by decide))
theorem bfi (w : TWord) : Statement (.bfi w) := of_some rfl (t_op 0x1C w (by decide))
theorem popc (w : TWord) : Statement (.popc w) := of_some rfl (t_op 0x1D w (by decide))
theorem clz (w : TWord) : Statement (.clz w) := of_some rfl (t_op 0x1E w (by decide))
theorem brev (w : TWord) : Statement (.brev w) := of_some rfl (t_op 0x1F w (by decide))
theorem icmp (w : TWord) : Statement (.icmp w) := of_some rfl (t_op 0x20 w (by decide))
theorem icmpi (w : IWord) : Statement (.icmpi w) := of_some rfl (i_op 0x21 w (by decide))
theorem sel (w : TWord) : Statement (.sel w) := of_some rfl (t_op 0x22 w (by decide))
theorem plop (w : TWord) : Statement (.plop w) := of_some rfl (t_op 0x23 w (by decide))
theorem pmovPack (w : TWord) : Statement (.pmovPack w) := of_some rfl (t_op 0x24 w (by decide))
theorem pmovUnpack (w : TWord) : Statement (.pmovUnpack w) := of_some rfl (t_op 0x24 w (by decide))
theorem shfl (w : TWord) : Statement (.shfl w) := of_some rfl (t_op 0x25 w (by decide))
theorem vote (w : TWord) : Statement (.vote w) := of_some rfl (t_op 0x26 w (by decide))
theorem ballot (w : TWord) : Statement (.ballot w) := of_some rfl (t_op 0x27 w (by decide))
theorem redux (w : TWord) : Statement (.redux w) := of_some rfl (t_op 0x28 w (by decide))
theorem rdspec (w : TWord) : Statement (.rdspec w) := of_some rfl (t_op 0x29 w (by decide))
theorem rdspecClr (w : TWord) : Statement (.rdspecClr w) := of_some rfl (t_op 0x29 w (by decide))
theorem umov (w : TWord) : Statement (.umov w) := of_some rfl (t_op 0x2A w (by decide))
theorem uiadd (w : TWord) : Statement (.uiadd w) := of_some rfl (t_op 0x2B w (by decide))
theorem bra (w : JWord) : Statement (.bra w) := of_some rfl (j_op 0x30 w (by decide))
theorem brx (w : JWord) : Statement (.brx w) := of_some rfl (j_op 0x31 w (by decide))
theorem call (w : JWord) : Statement (.call w) := of_some rfl (j_op 0x32 w (by decide))
theorem callR (w : JWord) : Statement (.callR w) := of_some rfl (j_op 0x32 w (by decide))
theorem ret (w : JWord) : Statement (.ret w) := of_some rfl (j_op 0x33 w (by decide))
theorem reform (w : JWord) : Statement (.reform w) := of_some rfl (j_op 0x34 w (by decide))
theorem reformQuad (w : JWord) : Statement (.reformQuad w) := of_some rfl (j_op 0x34 w (by decide))
theorem exit (w : JWord) : Statement (.exit w) := of_some rfl (j_op 0x35 w (by decide))
theorem spawn (w : JWord) : Statement (.spawn w) := of_some rfl (j_op 0x36 w (by decide))
theorem yield (w : JWord) : Statement (.yield w) := of_some rfl (j_op 0x37 w (by decide))
theorem join (w : JWord) : Statement (.join w) := of_some rfl (j_op 0x38 w (by decide))
theorem leave (w : JWord) : Statement (.leave w) := of_some rfl (j_op 0x39 w (by decide))
theorem bar (w : JWord) : Statement (.bar w) := of_some rfl (j_op 0x3A w (by decide))
theorem barArr (w : JWord) : Statement (.barArr w) := of_some rfl (j_op 0x3A w (by decide))
theorem barWait (w : JWord) : Statement (.barWait w) := of_some rfl (j_op 0x3A w (by decide))
theorem sleep (w : JWord) : Statement (.sleep w) := of_some rfl (j_op 0x3B w (by decide))
theorem refill (w : JWord) : Statement (.refill w) := of_some rfl (j_op 0x3C w (by decide))
theorem trap (w : JWord) : Statement (.trap w) := of_some rfl (j_op 0x3D w (by decide))
theorem brkpt (w : JWord) : Statement (.brkpt w) := of_some rfl (j_op 0x3E w (by decide))
theorem rgne (w : JWord) : Statement (.rgne w) := of_some rfl (j_op 0x3F w (by decide))
theorem rngpush (w : JWord) : Statement (.rngpush w) := of_some rfl (j_op 0x40 w (by decide))
theorem rngpop (w : JWord) : Statement (.rngpop w) := of_some rfl (j_op 0x41 w (by decide))
theorem fadd (w : TWord) : Statement (.fadd w) := of_some rfl (t_op 0x48 w (by decide))
theorem fsub (w : TWord) : Statement (.fsub w) := of_some rfl (t_op 0x49 w (by decide))
theorem fmul (w : TWord) : Statement (.fmul w) := of_some rfl (t_op 0x4A w (by decide))
theorem ffma (w : TWord) : Statement (.ffma w) := of_some rfl (t_op 0x4B w (by decide))
theorem faddi (w : IWord) : Statement (.faddi w) := of_some rfl (i_op 0x4C w (by decide))
theorem fmuli (w : IWord) : Statement (.fmuli w) := of_some rfl (i_op 0x4D w (by decide))
theorem fmin (w : TWord) : Statement (.fmin w) := of_some rfl (t_op 0x4E w (by decide))
theorem fmax (w : TWord) : Statement (.fmax w) := of_some rfl (t_op 0x4F w (by decide))
theorem fcmp (w : TWord) : Statement (.fcmp w) := of_some rfl (t_op 0x50 w (by decide))
theorem fclass (w : TWord) : Statement (.fclass w) := of_some rfl (t_op 0x51 w (by decide))
theorem frnd (w : TWord) : Statement (.frnd w) := of_some rfl (t_op 0x52 w (by decide))
theorem fexp2f (w : TWord) : Statement (.fexp2f w) := of_some rfl (t_op 0x53 w (by decide))
theorem fldexp (w : TWord) : Statement (.fldexp w) := of_some rfl (t_op 0x54 w (by decide))
theorem frcp (w : TWord) : Statement (.frcp w) := of_some rfl (t_op 0x55 w (by decide))
theorem frsq (w : TWord) : Statement (.frsq w) := of_some rfl (t_op 0x56 w (by decide))
theorem fsqrt (w : TWord) : Statement (.fsqrt w) := of_some rfl (t_op 0x57 w (by decide))
theorem flog2 (w : TWord) : Statement (.flog2 w) := of_some rfl (t_op 0x58 w (by decide))
theorem fsin (w : TWord) : Statement (.fsin w) := of_some rfl (t_op 0x59 w (by decide))
theorem fcos (w : TWord) : Statement (.fcos w) := of_some rfl (t_op 0x5A w (by decide))
theorem ftanh (w : TWord) : Statement (.ftanh w) := of_some rfl (t_op 0x5B w (by decide))
theorem hadd2 (w : TWord) : Statement (.hadd2 w) := of_some rfl (t_op 0x5C w (by decide))
theorem hmul2 (w : TWord) : Statement (.hmul2 w) := of_some rfl (t_op 0x5D w (by decide))
theorem hfma2 (w : TWord) : Statement (.hfma2 w) := of_some rfl (t_op 0x5E w (by decide))
theorem hmnx2 (w : TWord) : Statement (.hmnx2 w) := of_some rfl (t_op 0x5F w (by decide))
theorem fdot2 (w : TWord) : Statement (.fdot2 w) := of_some rfl (t_op 0x60 w (by decide))
theorem idp4 (w : TWord) : Statement (.idp4 w) := of_some rfl (t_op 0x61 w (by decide))
theorem cmul (w : TWord) : Statement (.cmul w) := of_some rfl (t_op 0x62 w (by decide))
theorem cmad (w : TWord) : Statement (.cmad w) := of_some rfl (t_op 0x63 w (by decide))
theorem cmag2 (w : TWord) : Statement (.cmag2 w) := of_some rfl (t_op 0x64 w (by decide))
theorem f2i (w : TWord) : Statement (.f2i w) := of_some rfl (t_op 0x65 w (by decide))
theorem i2f (w : TWord) : Statement (.i2f w) := of_some rfl (t_op 0x66 w (by decide))
theorem f2fNarrow (w : TWord) : Statement (.f2fNarrow w) := of_some rfl (t_op 0x67 w (by decide))
theorem f2fWiden (w : TWord) : Statement (.f2fWiden w) := of_some rfl (t_op 0x67 w (by decide))
theorem qnt (w : TWord) : Statement (.qnt w) := of_some rfl (t_op 0x68 w (by decide))
theorem dqnt (w : TWord) : Statement (.dqnt w) := of_some rfl (t_op 0x69 w (by decide))
theorem derivx (w : TWord) : Statement (.derivx w) := of_some rfl (t_op 0x6A w (by decide))
theorem derivy (w : TWord) : Statement (.derivy w) := of_some rfl (t_op 0x6B w (by decide))
theorem qswap (w : TWord) : Statement (.qswap w) := of_some rfl (t_op 0x6C w (by decide))
theorem raybox (w : TWord) : Statement (.raybox w) := of_some rfl (t_op 0x6D w (by decide))
theorem raytri (w : TWord) : Statement (.raytri w) := of_some rfl (t_op 0x6E w (by decide))
theorem loopn (w : LWord) : Statement (.loopn w) := of_some rfl (l_op 0x6F w (by decide))
theorem fill (w : TWord) : Statement (.fill w) := of_some rfl (t_op 0x70 w (by decide))
theorem ldg (w : MWord) : Statement (.ldg w) := of_some rfl (m_op 0x78 w (by decide))
theorem stg (w : MWord) : Statement (.stg w) := of_some rfl (m_op 0x79 w (by decide))
theorem atomg (w : MWord) : Statement (.atomg w) := of_some rfl (m_op 0x7A w (by decide))
theorem casg (w : MWord) : Statement (.casg w) := of_some rfl (m_op 0x7B w (by decide))
theorem lds (w : MWord) : Statement (.lds w) := of_some rfl (m_op 0x7C w (by decide))
theorem sts (w : MWord) : Statement (.sts w) := of_some rfl (m_op 0x7D w (by decide))
theorem atoms (w : MWord) : Statement (.atoms w) := of_some rfl (m_op 0x7E w (by decide))
theorem cass (w : MWord) : Statement (.cass w) := of_some rfl (m_op 0x7F w (by decide))
theorem ldsm (w : MWord) : Statement (.ldsm w) := of_some rfl (m_op 0x80 w (by decide))
theorem ldsmt (w : MWord) : Statement (.ldsmt w) := of_some rfl (m_op 0x81 w (by decide))
theorem stx (w : MWord) : Statement (.stx w) := of_some rfl (m_op 0x82 w (by decide))
theorem ldt (w : MWord) : Statement (.ldt w) := of_some rfl (m_op 0x83 w (by decide))
theorem stt (w : MWord) : Statement (.stt w) := of_some rfl (m_op 0x84 w (by decide))
theorem atomt (w : MWord) : Statement (.atomt w) := of_some rfl (m_op 0x85 w (by decide))
theorem ldk (w : MWord) : Statement (.ldk w) := of_some rfl (m_op 0x86 w (by decide))
theorem prfg (w : MWord) : Statement (.prfg w) := of_some rfl (m_op 0x87 w (by decide))
theorem fence (w : MWord) : Statement (.fence w) := of_some rfl (m_op 0x88 w (by decide))
theorem fencex (w : MWord) : Statement (.fencex w) := of_some rfl (m_op 0x89 w (by decide))
theorem cpy (w : MWord) : Statement (.cpy w) := of_some rfl (m_op 0x8A w (by decide))
theorem cpym (w : MWord) : Statement (.cpym w) := of_some rfl (m_op 0x8B w (by decide))
theorem cpyb (w : MWord) : Statement (.cpyb w) := of_some rfl (m_op 0x8C w (by decide))
theorem slotret (w : MWord) : Statement (.slotret w) := of_some rfl (m_op 0x8D w (by decide))
theorem feset (w : MWord) : Statement (.feset w) := of_some rfl (m_op 0x8E w (by decide))
theorem feqry (w : MWord) : Statement (.feqry w) := of_some rfl (m_op 0x8F w (by decide))
theorem bufq (w : MWord) : Statement (.bufq w) := of_some rfl (m_op 0x90 w (by decide))
theorem pgreq (w : MWord) : Statement (.pgreq w) := of_some rfl (m_op 0x91 w (by decide))
theorem woarm (w : MWord) : Statement (.woarm w) := of_some rfl (m_op 0x92 w (by decide))
theorem opclm (w : TWord) : Statement (.opclm w) := of_some rfl (t_op 0x98 w (by decide))
theorem oprel (w : TWord) : Statement (.oprel w) := of_some rfl (t_op 0x99 w (by decide))
theorem opld (w : TWord) : Statement (.opld w) := of_some rfl (t_op 0x9A w (by decide))
theorem opldg (w : TWord) : Statement (.opldg w) := of_some rfl (t_op 0x9B w (by decide))
theorem wlatch (w : TWord) : Statement (.wlatch w) := of_some rfl (t_op 0x9C w (by decide))
theorem mstream (w : TWord) : Statement (.mstream w) := of_some rfl (t_op 0x9D w (by decide))
theorem mlut (w : TWord) : Statement (.mlut w) := of_some rfl (t_op 0x9E w (by decide))
theorem mdrain (w : TWord) : Statement (.mdrain w) := of_some rfl (t_op 0x9F w (by decide))
theorem mzero (w : TWord) : Statement (.mzero w) := of_some rfl (t_op 0xA0 w (by decide))
theorem taskputResv (w : TWord) : Statement (.taskputResv w) := of_some rfl (t_op 0xA1 w (by decide))
theorem taskputCommit (w : TWord) : Statement (.taskputCommit w) := of_some rfl (t_op 0xA1 w (by decide))
theorem taskputFree (w : TWord) : Statement (.taskputFree w) := of_some rfl (t_op 0xA1 w (by decide))
theorem taskarm (w : TWord) : Statement (.taskarm w) := of_some rfl (t_op 0xA2 w (by decide))
theorem taskarmDec (w : TWord) : Statement (.taskarmDec w) := of_some rfl (t_op 0xA2 w (by decide))
theorem taskqry (w : TWord) : Statement (.taskqry w) := of_some rfl (t_op 0xA3 w (by decide))
theorem acbind (w : TWord) : Statement (.acbind w) := of_some rfl (t_op 0xA8 w (by decide))
theorem acunbind (w : TWord) : Statement (.acunbind w) := of_some rfl (t_op 0xA9 w (by decide))
theorem acparam (w : TWord) : Statement (.acparam w) := of_some rfl (t_op 0xAA w (by decide))
theorem acqry (w : TWord) : Statement (.acqry w) := of_some rfl (t_op 0xAB w (by decide))
theorem sld (w : TWord) : Statement (.sld w) := of_some rfl (t_op 0xB0 w (by decide))
theorem sst (w : TWord) : Statement (.sst w) := of_some rfl (t_op 0xB1 w (by decide))
theorem sstc (w : TWord) : Statement (.sstc w) := of_some rfl (t_op 0xB2 w (by decide))
theorem sstmv (w : TWord) : Statement (.sstmv w) := of_some rfl (t_op 0xB3 w (by decide))
theorem sstmvHint (w : TWord) : Statement (.sstmvHint w) := of_some rfl (t_op 0xB3 w (by decide))
theorem ssealOpen (w : TWord) : Statement (.ssealOpen w) := of_some rfl (t_op 0xB4 w (by decide))
theorem ssealSeal (w : TWord) : Statement (.ssealSeal w) := of_some rfl (t_op 0xB4 w (by decide))
theorem sqry (w : TWord) : Statement (.sqry w) := of_some rfl (t_op 0xB5 w (by decide))
theorem smat (w : TWord) : Statement (.smat w) := of_some rfl (t_op 0xB6 w (by decide))
theorem primemitTri (w : TWord) : Statement (.primemitTri w) := of_some rfl (t_op 0xB7 w (by decide))
theorem primemitOpen (w : TWord) : Statement (.primemitOpen w) := of_some rfl (t_op 0xB7 w (by decide))
theorem primemitClose (w : TWord) : Statement (.primemitClose w) := of_some rfl (t_op 0xB7 w (by decide))
theorem visq (w : TWord) : Statement (.visq w) := of_some rfl (t_op 0xB8 w (by decide))
theorem mvereq (w : TWord) : Statement (.mvereq w) := of_some rfl (t_op 0xB9 w (by decide))
theorem mveqry (w : TWord) : Statement (.mveqry w) := of_some rfl (t_op 0xBA w (by decide))
theorem rdsys (w : TWord) : Statement (.rdsys w) := of_some rfl (t_op 0xE0 w (by decide))
theorem wrsys (w : TWord) : Statement (.wrsys w) := of_some rfl (t_op 0xE1 w (by decide))
theorem waitev (w : TWord) : Statement (.waitev w) := of_some rfl (t_op 0xE2 w (by decide))
theorem frpop (w : TWord) : Statement (.frpop w) := of_some rfl (t_op 0xE3 w (by decide))
theorem resumeRec (w : TWord) : Statement (.resumeRec w) := of_some rfl (t_op 0xE4 w (by decide))
theorem resumeScn (w : TWord) : Statement (.resumeScn w) := of_some rfl (t_op 0xE4 w (by decide))
theorem swapout (w : TWord) : Statement (.swapout w) := of_some rfl (t_op 0xE5 w (by decide))
theorem swapin (w : TWord) : Statement (.swapin w) := of_some rfl (t_op 0xE6 w (by decide))
theorem scenekill (w : TWord) : Statement (.scenekill w) := of_some rfl (t_op 0xE7 w (by decide))
theorem haltb (w : TWord) : Statement (.haltb w) := of_some rfl (t_op 0xE8 w (by decide))
theorem dump (w : TWord) : Statement (.dump w) := of_some rfl (t_op 0xE9 w (by decide))
theorem reti (w : TWord) : Statement (.reti w) := of_some rfl (t_op 0xEA w (by decide))
theorem tlbinvRange (w : TWord) : Statement (.tlbinvRange w) := of_some rfl (t_op 0xEB w (by decide))
theorem tlbinvCtx (w : TWord) : Statement (.tlbinvCtx w) := of_some rfl (t_op 0xEB w (by decide))
theorem retype (w : TWord) : Statement (.retype w) := of_some rfl (t_op 0xEC w (by decide))
theorem hashver (w : TWord) : Statement (.hashver w) := of_some rfl (t_op 0xED w (by decide))
theorem ptwr (w : TWord) : Statement (.ptwr w) := of_some rfl (t_op 0xEE w (by decide))
theorem drain (w : TWord) : Statement (.drain w) := of_some rfl (t_op 0xEF w (by decide))
theorem drainAbandon (w : TWord) : Statement (.drainAbandon w) := of_some rfl (t_op 0xEF w (by decide))
theorem clauseStart (core bay : Nat) (pipe : Bool) : Statement (.clauseStart core bay pipe) := of_none rfl
theorem holdAllowanceSpent (take : Nat) : Statement (.holdAllowanceSpent take) := of_none rfl
theorem schedulingRoundEnd : Statement (.schedulingRoundEnd) := of_none rfl
theorem idleBayReelDraw (core bay : Nat) : Statement (.idleBayReelDraw core bay) := of_none rfl
theorem sleepExpiry (take : Nat) : Statement (.sleepExpiry take) := of_none rfl
theorem sceneAdmission (scene : Nat) : Statement (.sceneAdmission scene) := of_none rfl
theorem taskNodeLaunch (ctx index : Nat) : Statement (.taskNodeLaunch ctx index) := of_none rfl
theorem tileTaskDispatch (ctx index : Nat) : Statement (.tileTaskDispatch ctx index) := of_none rfl
theorem taskNodeComplete (ctx index : Nat) : Statement (.taskNodeComplete ctx index) := of_none rfl
theorem slotEmpty (thread : Nat) : Statement (.slotEmpty thread) := of_none rfl
theorem variableCompletion (op : Nat) : Statement (.variableCompletion op) := of_none rfl
theorem engineLineFill (op : Nat) : Statement (.engineLineFill op) := of_none rfl
theorem registerLineFill (thread line : Nat) : Statement (.registerLineFill thread line) := of_none rfl
theorem codeRowLoad (core scene row : Nat) : Statement (.codeRowLoad core scene row) := of_none rfl
theorem asyncRecordHalt (thread : Nat) : Statement (.asyncRecordHalt thread) := of_none rfl
theorem copyFaultResume (op : Nat) : Statement (.copyFaultResume op) := of_none rfl
theorem woWaitTimeout (thread : Nat) : Statement (.woWaitTimeout thread) := of_none rfl
theorem engineWoWaitTimeout (op : Nat) : Statement (.engineWoWaitTimeout op) := of_none rfl
theorem swapSaveComplete (scene : Nat) : Statement (.swapSaveComplete scene) := of_none rfl
theorem sceneReadmission (scene core : Nat) : Statement (.sceneReadmission scene core) := of_none rfl
theorem sceneRestoreComplete (scene : Nat) : Statement (.sceneRestoreComplete scene) := of_none rfl
theorem quantumExpiry (part : Nat) : Statement (.quantumExpiry part) := of_none rfl
theorem partitionRestore (part : Nat) : Statement (.partitionRestore part) := of_none rfl
theorem handlerDispatch (die bit : Nat) : Statement (.handlerDispatch die bit) := of_none rfl
theorem waitevWake (op : Nat) : Statement (.waitevWake op) := of_none rfl
theorem timerExpiry (die : Nat) : Statement (.timerExpiry die) := of_none rfl
theorem evpendWrite (die : Nat) (value : Word) : Statement (.evpendWrite die value) := of_none rfl
theorem timerWrite (die : Nat) (value : Word) : Statement (.timerWrite die value) := of_none rfl
theorem eventryWrite (die : Nat) (value : DWord) : Statement (.eventryWrite die value) := of_none rfl
theorem groupmodeWrite (group : Nat) (value : Word) : Statement (.groupmodeWrite group value) := of_none rfl
theorem fqbaseWrite (ctx : Nat) (value : DWord) : Statement (.fqbaseWrite ctx value) := of_none rfl
theorem supqbaseWrite (die : Nat) (value : DWord) : Statement (.supqbaseWrite die value) := of_none rfl
theorem dailycfgWrite (die : Nat) (value : Word) : Statement (.dailycfgWrite die value) := of_none rfl
theorem silcfgWrite (die : Nat) (value : Word) : Statement (.silcfgWrite die value) := of_none rfl
theorem l2LineFill (line : L2Key) (error : LineError) : Statement (.l2LineFill line error) := of_none rfl
theorem l2LineWriteback (line : L2Key) (error : LineError) : Statement (.l2LineWriteback line error) := of_none rfl
theorem streamContextRelease (accord handle : Nat) (write : Bool) : Statement (.streamContextRelease accord handle write) := of_none rfl
theorem rowActivation (frame line : Nat) : Statement (.rowActivation frame line) := of_none rfl
theorem conflictWindowEnd (stack : Nat) : Statement (.conflictWindowEnd stack) := of_none rfl
theorem refreshManagement (bank : Nat) : Statement (.refreshManagement bank) := of_none rfl
theorem scrubLine (frame : Nat) : Statement (.scrubLine frame) := of_none rfl
theorem migrationStep (group : Nat) : Statement (.migrationStep group) := of_none rfl
theorem sramSoftError (store : SramStore) (owner word : Nat) : Statement (.sramSoftError store owner word) := of_none rfl
theorem sealCoding (job : Nat) : Statement (.sealCoding job) := of_none rfl
theorem binFinal (pass bin : Nat) : Statement (.binFinal pass bin) := of_none rfl
theorem passDone (pass : Nat) : Statement (.passDone pass) := of_none rfl
theorem mveRequestStart (request : Nat) : Statement (.mveRequestStart request) := of_none rfl
theorem mveRequestComplete (request : Nat) : Statement (.mveRequestComplete request) := of_none rfl
theorem hostConfigAccess (function : HostFunction) : Statement (.hostConfigAccess function) := of_none rfl
theorem hostHdmAccess (offset : Nat) (write : Bool) (bytes : Nat) (data : List Byte) : Statement (.hostHdmAccess offset write bytes data) := of_none rfl
theorem hostAtomicWindowAccess (ctx offset : Nat) (op : HostAtomic) (compare value : DWord) : Statement (.hostAtomicWindowAccess ctx offset op compare value) := of_none rfl
theorem hostSnoop (line : Nat) (data : List Byte) : Statement (.hostSnoop line data) := of_none rfl
theorem remoteRequest (pkg ctx pa : Nat) (request : RemoteAsk) : Statement (.remoteRequest pkg ctx pa request) := of_none rfl
theorem flitRetry (port : Nat) : Statement (.flitRetry port) := of_none rfl
theorem linkPortDown (port : Nat) : Statement (.linkPortDown port) := of_none rfl
theorem planeRestored (plane : Nat) : Statement (.planeRestored plane) := of_none rfl
theorem regctx (payload : List Byte) : Statement (.regctx payload) := of_none rfl
theorem deregctx (payload : List Byte) : Statement (.deregctx payload) := of_none rfl
theorem setpart (payload : List Byte) : Statement (.setpart payload) := of_none rfl
theorem exportEntry (payload : List Byte) : Statement (.exportEntry payload) := of_none rfl
theorem attest (payload : List Byte) : Statement (.attest payload) := of_none rfl
theorem loadkey (payload : List Byte) : Statement (.loadkey payload) := of_none rfl
theorem setlcs (payload : List Byte) : Statement (.setlcs payload) := of_none rfl
theorem loadfw (payload : List Byte) : Statement (.loadfw payload) := of_none rfl
theorem bringUp : Statement (.bringUp) := of_none rfl
theorem thermalTrip : Statement (.thermalTrip) := of_none rfl
theorem powerLimitReached (reached : Bool) : Statement (.powerLimitReached reached) := of_none rfl
theorem standbyWake : Statement (.standbyWake) := of_none rfl
theorem powerOff : Statement (.powerOff) := of_none rfl

end Sys2Proof.Laws.Opcode
end

