-- ==== Sys2Proof/Laws/State.lean ====
section
/-! SUPPORT. What the updates of the state leave alone: one lemma for each field and each update. -/

namespace Sys2Proof.Machine

@[simp] theorem State.modThread_cur (s : State) (i : Nat) (f : Thread → Thread) : (s.modThread i f).cur = s.cur := rfl
@[simp] theorem State.modThread_agenda (s : State) (i : Nat) (f : Thread → Thread) : (s.modThread i f).agenda = s.agenda := rfl
@[simp] theorem State.modThread_clock (s : State) (i : Nat) (f : Thread → Thread) : (s.modThread i f).clock = s.clock := rfl
@[simp] theorem State.modThread_freeIx (s : State) (i : Nat) (f : Thread → Thread) : (s.modThread i f).freeIx = s.freeIx := rfl
@[simp] theorem State.modThread_power (s : State) (i : Nat) (f : Thread → Thread) : (s.modThread i f).power = s.power := rfl
@[simp] theorem State.modThread_takes (s : State) (i : Nat) (f : Thread → Thread) : (s.modThread i f).takes = s.takes := rfl
@[simp] theorem State.modThread_reels (s : State) (i : Nat) (f : Thread → Thread) : (s.modThread i f).reels = s.reels := rfl
@[simp] theorem State.modThread_scenes (s : State) (i : Nat) (f : Thread → Thread) : (s.modThread i f).scenes = s.scenes := rfl
@[simp] theorem State.modThread_casts (s : State) (i : Nat) (f : Thread → Thread) : (s.modThread i f).casts = s.casts := rfl
@[simp] theorem State.modThread_pend (s : State) (i : Nat) (f : Thread → Thread) : (s.modThread i f).pend = s.pend := rfl
@[simp] theorem State.modThread_ops (s : State) (i : Nat) (f : Thread → Thread) : (s.modThread i f).ops = s.ops := rfl
@[simp] theorem State.modThread_dies (s : State) (i : Nat) (f : Thread → Thread) : (s.modThread i f).dies = s.dies := rfl
@[simp] theorem State.modThread_ctxs (s : State) (i : Nat) (f : Thread → Thread) : (s.modThread i f).ctxs = s.ctxs := rfl
@[simp] theorem State.modThread_held (s : State) (i : Nat) (f : Thread → Thread) : (s.modThread i f).held = s.held := rfl
@[simp] theorem State.modThread_mem (s : State) (i : Nat) (f : Thread → Thread) : (s.modThread i f).mem = s.mem := rfl
@[simp] theorem State.modThread_lineTags (s : State) (i : Nat) (f : Thread → Thread) : (s.modThread i f).lineTags = s.lineTags := rfl
@[simp] theorem State.modThread_frameTags (s : State) (i : Nat) (f : Thread → Thread) : (s.modThread i f).frameTags = s.frameTags := rfl
@[simp] theorem State.modThread_l2 (s : State) (i : Nat) (f : Thread → Thread) : (s.modThread i f).l2 = s.l2 := rfl
@[simp] theorem State.modThread_bindings (s : State) (i : Nat) (f : Thread → Thread) : (s.modThread i f).bindings = s.bindings := rfl
@[simp] theorem State.modThread_tlb (s : State) (i : Nat) (f : Thread → Thread) : (s.modThread i f).tlb = s.tlb := rfl
@[simp] theorem State.modThread_codeRows (s : State) (i : Nat) (f : Thread → Thread) : (s.modThread i f).codeRows = s.codeRows := rfl
@[simp] theorem State.modThread_parts (s : State) (i : Nat) (f : Thread → Thread) : (s.modThread i f).parts = s.parts := rfl
@[simp] theorem State.modThread_uniB (s : State) (i : Nat) (f : Thread → Thread) : (s.modThread i f).uniB = s.uniB := rfl
@[simp] theorem State.modThread_wiped (s : State) (i : Nat) (f : Thread → Thread) : (s.modThread i f).wiped = s.wiped := rfl
@[simp] theorem State.modThread_scrubs (s : State) (i : Nat) (f : Thread → Thread) : (s.modThread i f).scrubs = s.scrubs := rfl
@[simp] theorem State.modThread_walks (s : State) (i : Nat) (f : Thread → Thread) : (s.modThread i f).walks = s.walks := rfl
@[simp] theorem State.modThread_l1 (s : State) (i : Nat) (f : Thread → Thread) : (s.modThread i f).l1 = s.l1 := rfl
@[simp] theorem State.modThread_recCache (s : State) (i : Nat) (f : Thread → Thread) : (s.modThread i f).recCache = s.recCache := rfl
@[simp] theorem State.modThread_olds (s : State) (i : Nat) (f : Thread → Thread) : (s.modThread i f).olds = s.olds := rfl
@[simp] theorem State.modThread_markCtr (s : State) (i : Nat) (f : Thread → Thread) : (s.modThread i f).markCtr = s.markCtr := rfl
@[simp] theorem State.modThread_releases (s : State) (i : Nat) (f : Thread → Thread) : (s.modThread i f).releases = s.releases := rfl
@[simp] theorem State.modThread_loaded (s : State) (i : Nat) (f : Thread → Thread) : (s.modThread i f).loaded = s.loaded := rfl
@[simp] theorem State.modThread_fences (s : State) (i : Nat) (f : Thread → Thread) : (s.modThread i f).fences = s.fences := rfl
@[simp] theorem State.modThread_nodeMarks (s : State) (i : Nat) (f : Thread → Thread) : (s.modThread i f).nodeMarks = s.nodeMarks := rfl
@[simp] theorem State.modThread_signals (s : State) (i : Nat) (f : Thread → Thread) : (s.modThread i f).signals = s.signals := rfl
@[simp] theorem State.modThread_staging (s : State) (i : Nat) (f : Thread → Thread) : (s.modThread i f).staging = s.staging := rfl
@[simp] theorem State.modThread_memErrs (s : State) (i : Nat) (f : Thread → Thread) : (s.modThread i f).memErrs = s.memErrs := rfl
@[simp] theorem State.modThread_listBytes (s : State) (i : Nat) (f : Thread → Thread) : (s.modThread i f).listBytes = s.listBytes := rfl
@[simp] theorem State.modThread_rounds (s : State) (i : Nat) (f : Thread → Thread) : (s.modThread i f).rounds = s.rounds := rfl
@[simp] theorem State.modThread_lcs (s : State) (i : Nat) (f : Thread → Thread) : (s.modThread i f).lcs = s.lcs := rfl
@[simp] theorem State.modThread_shadow (s : State) (i : Nat) (f : Thread → Thread) : (s.modThread i f).shadow = s.shadow := rfl
@[simp] theorem State.modThread_pageReqs (s : State) (i : Nat) (f : Thread → Thread) : (s.modThread i f).pageReqs = s.pageReqs := rfl
@[simp] theorem State.modThread_seqCtr (s : State) (i : Nat) (f : Thread → Thread) : (s.modThread i f).seqCtr = s.seqCtr := rfl
@[simp] theorem State.modThread_trails (s : State) (i : Nat) (f : Thread → Thread) : (s.modThread i f).trails = s.trails := rfl
@[simp] theorem State.modThread_tracks (s : State) (i : Nat) (f : Thread → Thread) : (s.modThread i f).tracks = s.tracks := rfl
@[simp] theorem State.modThread_groupMode (s : State) (i : Nat) (f : Thread → Thread) : (s.modThread i f).groupMode = s.groupMode := rfl
@[simp] theorem State.modThread_hashVer (s : State) (i : Nat) (f : Thread → Thread) : (s.modThread i f).hashVer = s.hashVer := rfl
@[simp] theorem State.modThread_masks (s : State) (i : Nat) (f : Thread → Thread) : (s.modThread i f).masks = s.masks := rfl
@[simp] theorem State.modThread_oldMasks (s : State) (i : Nat) (f : Thread → Thread) : (s.modThread i f).oldMasks = s.oldMasks := rfl
@[simp] theorem State.modThread_migrating (s : State) (i : Nat) (f : Thread → Thread) : (s.modThread i f).migrating = s.migrating := rfl
@[simp] theorem State.modThread_moved (s : State) (i : Nat) (f : Thread → Thread) : (s.modThread i f).moved = s.moved := rfl
@[simp] theorem State.modThread_openRows (s : State) (i : Nat) (f : Thread → Thread) : (s.modThread i f).openRows = s.openRows := rfl
@[simp] theorem State.modThread_bankCnt (s : State) (i : Nat) (f : Thread → Thread) : (s.modThread i f).bankCnt = s.bankCnt := rfl
@[simp] theorem State.modThread_rowCnt (s : State) (i : Nat) (f : Thread → Thread) : (s.modThread i f).rowCnt = s.rowCnt := rfl
@[simp] theorem State.modThread_conflicted (s : State) (i : Nat) (f : Thread → Thread) : (s.modThread i f).conflicted = s.conflicted := rfl
@[simp] theorem State.modThread_throttled (s : State) (i : Nat) (f : Thread → Thread) : (s.modThread i f).throttled = s.throttled := rfl
@[simp] theorem State.modThread_windowAt (s : State) (i : Nat) (f : Thread → Thread) : (s.modThread i f).windowAt = s.windowAt := rfl
@[simp] theorem State.modThread_errCnt (s : State) (i : Nat) (f : Thread → Thread) : (s.modThread i f).errCnt = s.errCnt := rfl
@[simp] theorem State.modThread_passes (s : State) (i : Nat) (f : Thread → Thread) : (s.modThread i f).passes = s.passes := rfl
@[simp] theorem State.modThread_mveReqs (s : State) (i : Nat) (f : Thread → Thread) : (s.modThread i f).mveReqs = s.mveReqs := rfl
@[simp] theorem State.modThread_seals (s : State) (i : Nat) (f : Thread → Thread) : (s.modThread i f).seals = s.seals := rfl
@[simp] theorem State.modThread_nodes (s : State) (i : Nat) (f : Thread → Thread) : (s.modThread i f).nodes = s.nodes := rfl
@[simp] theorem State.modThread_armed (s : State) (i : Nat) (f : Thread → Thread) : (s.modThread i f).armed = s.armed := rfl
@[simp] theorem State.modThread_dailyCnt (s : State) (i : Nat) (f : Thread → Thread) : (s.modThread i f).dailyCnt = s.dailyCnt := rfl
@[simp] theorem State.modThread_pkgId (s : State) (i : Nat) (f : Thread → Thread) : (s.modThread i f).pkgId = s.pkgId := rfl
@[simp] theorem State.modThread_standalone (s : State) (i : Nat) (f : Thread → Thread) : (s.modThread i f).standalone = s.standalone := rfl
@[simp] theorem State.modThread_portsDown (s : State) (i : Nat) (f : Thread → Thread) : (s.modThread i f).portsDown = s.portsDown := rfl
@[simp] theorem State.modThread_badPorts (s : State) (i : Nat) (f : Thread → Thread) : (s.modThread i f).badPorts = s.badPorts := rfl
@[simp] theorem State.modThread_linkCtr (s : State) (i : Nat) (f : Thread → Thread) : (s.modThread i f).linkCtr = s.linkCtr := rfl
@[simp] theorem State.modThread_cutOff (s : State) (i : Nat) (f : Thread → Thread) : (s.modThread i f).cutOff = s.cutOff := rfl
@[simp] theorem State.modThread_exports (s : State) (i : Nat) (f : Thread → Thread) : (s.modThread i f).exports = s.exports := rfl
@[simp] theorem State.modThread_keys (s : State) (i : Nat) (f : Thread → Thread) : (s.modThread i f).keys = s.keys := rfl
@[simp] theorem State.modThread_fwDigest (s : State) (i : Nat) (f : Thread → Thread) : (s.modThread i f).fwDigest = s.fwDigest := rfl
@[simp] theorem State.modThread_fwOk (s : State) (i : Nat) (f : Thread → Thread) : (s.modThread i f).fwOk = s.fwOk := rfl
@[simp] theorem State.modThread_staged (s : State) (i : Nat) (f : Thread → Thread) : (s.modThread i f).staged = s.staged := rfl
@[simp] theorem State.modThread_mailbox (s : State) (i : Nat) (f : Thread → Thread) : (s.modThread i f).mailbox = s.mailbox := rfl
@[simp] theorem State.modThread_mbWait (s : State) (i : Nat) (f : Thread → Thread) : (s.modThread i f).mbWait = s.mbWait := rfl
@[simp] theorem State.modThread_mbReady (s : State) (i : Nat) (f : Thread → Thread) : (s.modThread i f).mbReady = s.mbReady := rfl
@[simp] theorem State.modThread_powerLow (s : State) (i : Nat) (f : Thread → Thread) : (s.modThread i f).powerLow = s.powerLow := rfl
@[simp] theorem State.modThread_msix (s : State) (i : Nat) (f : Thread → Thread) : (s.modThread i f).msix = s.msix := rfl
@[simp] theorem State.modThread_hostReply (s : State) (i : Nat) (f : Thread → Thread) : (s.modThread i f).hostReply = s.hostReply := rfl
@[simp] theorem State.modThread_remoteReply (s : State) (i : Nat) (f : Thread → Thread) : (s.modThread i f).remoteReply = s.remoteReply := rfl

@[simp] theorem State.modTake_cur (s : State) (i : Nat) (f : Take → Take) : (s.modTake i f).cur = s.cur := rfl
@[simp] theorem State.modTake_agenda (s : State) (i : Nat) (f : Take → Take) : (s.modTake i f).agenda = s.agenda := rfl
@[simp] theorem State.modTake_clock (s : State) (i : Nat) (f : Take → Take) : (s.modTake i f).clock = s.clock := rfl
@[simp] theorem State.modTake_freeIx (s : State) (i : Nat) (f : Take → Take) : (s.modTake i f).freeIx = s.freeIx := rfl
@[simp] theorem State.modTake_power (s : State) (i : Nat) (f : Take → Take) : (s.modTake i f).power = s.power := rfl
@[simp] theorem State.modTake_threads (s : State) (i : Nat) (f : Take → Take) : (s.modTake i f).threads = s.threads := rfl
@[simp] theorem State.modTake_reels (s : State) (i : Nat) (f : Take → Take) : (s.modTake i f).reels = s.reels := rfl
@[simp] theorem State.modTake_scenes (s : State) (i : Nat) (f : Take → Take) : (s.modTake i f).scenes = s.scenes := rfl
@[simp] theorem State.modTake_casts (s : State) (i : Nat) (f : Take → Take) : (s.modTake i f).casts = s.casts := rfl
@[simp] theorem State.modTake_pend (s : State) (i : Nat) (f : Take → Take) : (s.modTake i f).pend = s.pend := rfl
@[simp] theorem State.modTake_ops (s : State) (i : Nat) (f : Take → Take) : (s.modTake i f).ops = s.ops := rfl
@[simp] theorem State.modTake_dies (s : State) (i : Nat) (f : Take → Take) : (s.modTake i f).dies = s.dies := rfl
@[simp] theorem State.modTake_ctxs (s : State) (i : Nat) (f : Take → Take) : (s.modTake i f).ctxs = s.ctxs := rfl
@[simp] theorem State.modTake_held (s : State) (i : Nat) (f : Take → Take) : (s.modTake i f).held = s.held := rfl
@[simp] theorem State.modTake_mem (s : State) (i : Nat) (f : Take → Take) : (s.modTake i f).mem = s.mem := rfl
@[simp] theorem State.modTake_lineTags (s : State) (i : Nat) (f : Take → Take) : (s.modTake i f).lineTags = s.lineTags := rfl
@[simp] theorem State.modTake_frameTags (s : State) (i : Nat) (f : Take → Take) : (s.modTake i f).frameTags = s.frameTags := rfl
@[simp] theorem State.modTake_l2 (s : State) (i : Nat) (f : Take → Take) : (s.modTake i f).l2 = s.l2 := rfl
@[simp] theorem State.modTake_bindings (s : State) (i : Nat) (f : Take → Take) : (s.modTake i f).bindings = s.bindings := rfl
@[simp] theorem State.modTake_tlb (s : State) (i : Nat) (f : Take → Take) : (s.modTake i f).tlb = s.tlb := rfl
@[simp] theorem State.modTake_codeRows (s : State) (i : Nat) (f : Take → Take) : (s.modTake i f).codeRows = s.codeRows := rfl
@[simp] theorem State.modTake_parts (s : State) (i : Nat) (f : Take → Take) : (s.modTake i f).parts = s.parts := rfl
@[simp] theorem State.modTake_uniB (s : State) (i : Nat) (f : Take → Take) : (s.modTake i f).uniB = s.uniB := rfl
@[simp] theorem State.modTake_wiped (s : State) (i : Nat) (f : Take → Take) : (s.modTake i f).wiped = s.wiped := rfl
@[simp] theorem State.modTake_scrubs (s : State) (i : Nat) (f : Take → Take) : (s.modTake i f).scrubs = s.scrubs := rfl
@[simp] theorem State.modTake_walks (s : State) (i : Nat) (f : Take → Take) : (s.modTake i f).walks = s.walks := rfl
@[simp] theorem State.modTake_l1 (s : State) (i : Nat) (f : Take → Take) : (s.modTake i f).l1 = s.l1 := rfl
@[simp] theorem State.modTake_recCache (s : State) (i : Nat) (f : Take → Take) : (s.modTake i f).recCache = s.recCache := rfl
@[simp] theorem State.modTake_olds (s : State) (i : Nat) (f : Take → Take) : (s.modTake i f).olds = s.olds := rfl
@[simp] theorem State.modTake_markCtr (s : State) (i : Nat) (f : Take → Take) : (s.modTake i f).markCtr = s.markCtr := rfl
@[simp] theorem State.modTake_releases (s : State) (i : Nat) (f : Take → Take) : (s.modTake i f).releases = s.releases := rfl
@[simp] theorem State.modTake_loaded (s : State) (i : Nat) (f : Take → Take) : (s.modTake i f).loaded = s.loaded := rfl
@[simp] theorem State.modTake_fences (s : State) (i : Nat) (f : Take → Take) : (s.modTake i f).fences = s.fences := rfl
@[simp] theorem State.modTake_nodeMarks (s : State) (i : Nat) (f : Take → Take) : (s.modTake i f).nodeMarks = s.nodeMarks := rfl
@[simp] theorem State.modTake_signals (s : State) (i : Nat) (f : Take → Take) : (s.modTake i f).signals = s.signals := rfl
@[simp] theorem State.modTake_staging (s : State) (i : Nat) (f : Take → Take) : (s.modTake i f).staging = s.staging := rfl
@[simp] theorem State.modTake_memErrs (s : State) (i : Nat) (f : Take → Take) : (s.modTake i f).memErrs = s.memErrs := rfl
@[simp] theorem State.modTake_listBytes (s : State) (i : Nat) (f : Take → Take) : (s.modTake i f).listBytes = s.listBytes := rfl
@[simp] theorem State.modTake_rounds (s : State) (i : Nat) (f : Take → Take) : (s.modTake i f).rounds = s.rounds := rfl
@[simp] theorem State.modTake_lcs (s : State) (i : Nat) (f : Take → Take) : (s.modTake i f).lcs = s.lcs := rfl
@[simp] theorem State.modTake_shadow (s : State) (i : Nat) (f : Take → Take) : (s.modTake i f).shadow = s.shadow := rfl
@[simp] theorem State.modTake_pageReqs (s : State) (i : Nat) (f : Take → Take) : (s.modTake i f).pageReqs = s.pageReqs := rfl
@[simp] theorem State.modTake_seqCtr (s : State) (i : Nat) (f : Take → Take) : (s.modTake i f).seqCtr = s.seqCtr := rfl
@[simp] theorem State.modTake_trails (s : State) (i : Nat) (f : Take → Take) : (s.modTake i f).trails = s.trails := rfl
@[simp] theorem State.modTake_tracks (s : State) (i : Nat) (f : Take → Take) : (s.modTake i f).tracks = s.tracks := rfl
@[simp] theorem State.modTake_groupMode (s : State) (i : Nat) (f : Take → Take) : (s.modTake i f).groupMode = s.groupMode := rfl
@[simp] theorem State.modTake_hashVer (s : State) (i : Nat) (f : Take → Take) : (s.modTake i f).hashVer = s.hashVer := rfl
@[simp] theorem State.modTake_masks (s : State) (i : Nat) (f : Take → Take) : (s.modTake i f).masks = s.masks := rfl
@[simp] theorem State.modTake_oldMasks (s : State) (i : Nat) (f : Take → Take) : (s.modTake i f).oldMasks = s.oldMasks := rfl
@[simp] theorem State.modTake_migrating (s : State) (i : Nat) (f : Take → Take) : (s.modTake i f).migrating = s.migrating := rfl
@[simp] theorem State.modTake_moved (s : State) (i : Nat) (f : Take → Take) : (s.modTake i f).moved = s.moved := rfl
@[simp] theorem State.modTake_openRows (s : State) (i : Nat) (f : Take → Take) : (s.modTake i f).openRows = s.openRows := rfl
@[simp] theorem State.modTake_bankCnt (s : State) (i : Nat) (f : Take → Take) : (s.modTake i f).bankCnt = s.bankCnt := rfl
@[simp] theorem State.modTake_rowCnt (s : State) (i : Nat) (f : Take → Take) : (s.modTake i f).rowCnt = s.rowCnt := rfl
@[simp] theorem State.modTake_conflicted (s : State) (i : Nat) (f : Take → Take) : (s.modTake i f).conflicted = s.conflicted := rfl
@[simp] theorem State.modTake_throttled (s : State) (i : Nat) (f : Take → Take) : (s.modTake i f).throttled = s.throttled := rfl
@[simp] theorem State.modTake_windowAt (s : State) (i : Nat) (f : Take → Take) : (s.modTake i f).windowAt = s.windowAt := rfl
@[simp] theorem State.modTake_errCnt (s : State) (i : Nat) (f : Take → Take) : (s.modTake i f).errCnt = s.errCnt := rfl
@[simp] theorem State.modTake_passes (s : State) (i : Nat) (f : Take → Take) : (s.modTake i f).passes = s.passes := rfl
@[simp] theorem State.modTake_mveReqs (s : State) (i : Nat) (f : Take → Take) : (s.modTake i f).mveReqs = s.mveReqs := rfl
@[simp] theorem State.modTake_seals (s : State) (i : Nat) (f : Take → Take) : (s.modTake i f).seals = s.seals := rfl
@[simp] theorem State.modTake_nodes (s : State) (i : Nat) (f : Take → Take) : (s.modTake i f).nodes = s.nodes := rfl
@[simp] theorem State.modTake_armed (s : State) (i : Nat) (f : Take → Take) : (s.modTake i f).armed = s.armed := rfl
@[simp] theorem State.modTake_dailyCnt (s : State) (i : Nat) (f : Take → Take) : (s.modTake i f).dailyCnt = s.dailyCnt := rfl
@[simp] theorem State.modTake_pkgId (s : State) (i : Nat) (f : Take → Take) : (s.modTake i f).pkgId = s.pkgId := rfl
@[simp] theorem State.modTake_standalone (s : State) (i : Nat) (f : Take → Take) : (s.modTake i f).standalone = s.standalone := rfl
@[simp] theorem State.modTake_portsDown (s : State) (i : Nat) (f : Take → Take) : (s.modTake i f).portsDown = s.portsDown := rfl
@[simp] theorem State.modTake_badPorts (s : State) (i : Nat) (f : Take → Take) : (s.modTake i f).badPorts = s.badPorts := rfl
@[simp] theorem State.modTake_linkCtr (s : State) (i : Nat) (f : Take → Take) : (s.modTake i f).linkCtr = s.linkCtr := rfl
@[simp] theorem State.modTake_cutOff (s : State) (i : Nat) (f : Take → Take) : (s.modTake i f).cutOff = s.cutOff := rfl
@[simp] theorem State.modTake_exports (s : State) (i : Nat) (f : Take → Take) : (s.modTake i f).exports = s.exports := rfl
@[simp] theorem State.modTake_keys (s : State) (i : Nat) (f : Take → Take) : (s.modTake i f).keys = s.keys := rfl
@[simp] theorem State.modTake_fwDigest (s : State) (i : Nat) (f : Take → Take) : (s.modTake i f).fwDigest = s.fwDigest := rfl
@[simp] theorem State.modTake_fwOk (s : State) (i : Nat) (f : Take → Take) : (s.modTake i f).fwOk = s.fwOk := rfl
@[simp] theorem State.modTake_staged (s : State) (i : Nat) (f : Take → Take) : (s.modTake i f).staged = s.staged := rfl
@[simp] theorem State.modTake_mailbox (s : State) (i : Nat) (f : Take → Take) : (s.modTake i f).mailbox = s.mailbox := rfl
@[simp] theorem State.modTake_mbWait (s : State) (i : Nat) (f : Take → Take) : (s.modTake i f).mbWait = s.mbWait := rfl
@[simp] theorem State.modTake_mbReady (s : State) (i : Nat) (f : Take → Take) : (s.modTake i f).mbReady = s.mbReady := rfl
@[simp] theorem State.modTake_powerLow (s : State) (i : Nat) (f : Take → Take) : (s.modTake i f).powerLow = s.powerLow := rfl
@[simp] theorem State.modTake_msix (s : State) (i : Nat) (f : Take → Take) : (s.modTake i f).msix = s.msix := rfl
@[simp] theorem State.modTake_hostReply (s : State) (i : Nat) (f : Take → Take) : (s.modTake i f).hostReply = s.hostReply := rfl
@[simp] theorem State.modTake_remoteReply (s : State) (i : Nat) (f : Take → Take) : (s.modTake i f).remoteReply = s.remoteReply := rfl

@[simp] theorem State.modReel_cur (s : State) (i : Nat) (f : Reel → Reel) : (s.modReel i f).cur = s.cur := rfl
@[simp] theorem State.modReel_agenda (s : State) (i : Nat) (f : Reel → Reel) : (s.modReel i f).agenda = s.agenda := rfl
@[simp] theorem State.modReel_clock (s : State) (i : Nat) (f : Reel → Reel) : (s.modReel i f).clock = s.clock := rfl
@[simp] theorem State.modReel_freeIx (s : State) (i : Nat) (f : Reel → Reel) : (s.modReel i f).freeIx = s.freeIx := rfl
@[simp] theorem State.modReel_power (s : State) (i : Nat) (f : Reel → Reel) : (s.modReel i f).power = s.power := rfl
@[simp] theorem State.modReel_threads (s : State) (i : Nat) (f : Reel → Reel) : (s.modReel i f).threads = s.threads := rfl
@[simp] theorem State.modReel_takes (s : State) (i : Nat) (f : Reel → Reel) : (s.modReel i f).takes = s.takes := rfl
@[simp] theorem State.modReel_scenes (s : State) (i : Nat) (f : Reel → Reel) : (s.modReel i f).scenes = s.scenes := rfl
@[simp] theorem State.modReel_casts (s : State) (i : Nat) (f : Reel → Reel) : (s.modReel i f).casts = s.casts := rfl
@[simp] theorem State.modReel_pend (s : State) (i : Nat) (f : Reel → Reel) : (s.modReel i f).pend = s.pend := rfl
@[simp] theorem State.modReel_ops (s : State) (i : Nat) (f : Reel → Reel) : (s.modReel i f).ops = s.ops := rfl
@[simp] theorem State.modReel_dies (s : State) (i : Nat) (f : Reel → Reel) : (s.modReel i f).dies = s.dies := rfl
@[simp] theorem State.modReel_ctxs (s : State) (i : Nat) (f : Reel → Reel) : (s.modReel i f).ctxs = s.ctxs := rfl
@[simp] theorem State.modReel_held (s : State) (i : Nat) (f : Reel → Reel) : (s.modReel i f).held = s.held := rfl
@[simp] theorem State.modReel_mem (s : State) (i : Nat) (f : Reel → Reel) : (s.modReel i f).mem = s.mem := rfl
@[simp] theorem State.modReel_lineTags (s : State) (i : Nat) (f : Reel → Reel) : (s.modReel i f).lineTags = s.lineTags := rfl
@[simp] theorem State.modReel_frameTags (s : State) (i : Nat) (f : Reel → Reel) : (s.modReel i f).frameTags = s.frameTags := rfl
@[simp] theorem State.modReel_l2 (s : State) (i : Nat) (f : Reel → Reel) : (s.modReel i f).l2 = s.l2 := rfl
@[simp] theorem State.modReel_bindings (s : State) (i : Nat) (f : Reel → Reel) : (s.modReel i f).bindings = s.bindings := rfl
@[simp] theorem State.modReel_tlb (s : State) (i : Nat) (f : Reel → Reel) : (s.modReel i f).tlb = s.tlb := rfl
@[simp] theorem State.modReel_codeRows (s : State) (i : Nat) (f : Reel → Reel) : (s.modReel i f).codeRows = s.codeRows := rfl
@[simp] theorem State.modReel_parts (s : State) (i : Nat) (f : Reel → Reel) : (s.modReel i f).parts = s.parts := rfl
@[simp] theorem State.modReel_uniB (s : State) (i : Nat) (f : Reel → Reel) : (s.modReel i f).uniB = s.uniB := rfl
@[simp] theorem State.modReel_wiped (s : State) (i : Nat) (f : Reel → Reel) : (s.modReel i f).wiped = s.wiped := rfl
@[simp] theorem State.modReel_scrubs (s : State) (i : Nat) (f : Reel → Reel) : (s.modReel i f).scrubs = s.scrubs := rfl
@[simp] theorem State.modReel_walks (s : State) (i : Nat) (f : Reel → Reel) : (s.modReel i f).walks = s.walks := rfl
@[simp] theorem State.modReel_l1 (s : State) (i : Nat) (f : Reel → Reel) : (s.modReel i f).l1 = s.l1 := rfl
@[simp] theorem State.modReel_recCache (s : State) (i : Nat) (f : Reel → Reel) : (s.modReel i f).recCache = s.recCache := rfl
@[simp] theorem State.modReel_olds (s : State) (i : Nat) (f : Reel → Reel) : (s.modReel i f).olds = s.olds := rfl
@[simp] theorem State.modReel_markCtr (s : State) (i : Nat) (f : Reel → Reel) : (s.modReel i f).markCtr = s.markCtr := rfl
@[simp] theorem State.modReel_releases (s : State) (i : Nat) (f : Reel → Reel) : (s.modReel i f).releases = s.releases := rfl
@[simp] theorem State.modReel_loaded (s : State) (i : Nat) (f : Reel → Reel) : (s.modReel i f).loaded = s.loaded := rfl
@[simp] theorem State.modReel_fences (s : State) (i : Nat) (f : Reel → Reel) : (s.modReel i f).fences = s.fences := rfl
@[simp] theorem State.modReel_nodeMarks (s : State) (i : Nat) (f : Reel → Reel) : (s.modReel i f).nodeMarks = s.nodeMarks := rfl
@[simp] theorem State.modReel_signals (s : State) (i : Nat) (f : Reel → Reel) : (s.modReel i f).signals = s.signals := rfl
@[simp] theorem State.modReel_staging (s : State) (i : Nat) (f : Reel → Reel) : (s.modReel i f).staging = s.staging := rfl
@[simp] theorem State.modReel_memErrs (s : State) (i : Nat) (f : Reel → Reel) : (s.modReel i f).memErrs = s.memErrs := rfl
@[simp] theorem State.modReel_listBytes (s : State) (i : Nat) (f : Reel → Reel) : (s.modReel i f).listBytes = s.listBytes := rfl
@[simp] theorem State.modReel_rounds (s : State) (i : Nat) (f : Reel → Reel) : (s.modReel i f).rounds = s.rounds := rfl
@[simp] theorem State.modReel_lcs (s : State) (i : Nat) (f : Reel → Reel) : (s.modReel i f).lcs = s.lcs := rfl
@[simp] theorem State.modReel_shadow (s : State) (i : Nat) (f : Reel → Reel) : (s.modReel i f).shadow = s.shadow := rfl
@[simp] theorem State.modReel_pageReqs (s : State) (i : Nat) (f : Reel → Reel) : (s.modReel i f).pageReqs = s.pageReqs := rfl
@[simp] theorem State.modReel_seqCtr (s : State) (i : Nat) (f : Reel → Reel) : (s.modReel i f).seqCtr = s.seqCtr := rfl
@[simp] theorem State.modReel_trails (s : State) (i : Nat) (f : Reel → Reel) : (s.modReel i f).trails = s.trails := rfl
@[simp] theorem State.modReel_tracks (s : State) (i : Nat) (f : Reel → Reel) : (s.modReel i f).tracks = s.tracks := rfl
@[simp] theorem State.modReel_groupMode (s : State) (i : Nat) (f : Reel → Reel) : (s.modReel i f).groupMode = s.groupMode := rfl
@[simp] theorem State.modReel_hashVer (s : State) (i : Nat) (f : Reel → Reel) : (s.modReel i f).hashVer = s.hashVer := rfl
@[simp] theorem State.modReel_masks (s : State) (i : Nat) (f : Reel → Reel) : (s.modReel i f).masks = s.masks := rfl
@[simp] theorem State.modReel_oldMasks (s : State) (i : Nat) (f : Reel → Reel) : (s.modReel i f).oldMasks = s.oldMasks := rfl
@[simp] theorem State.modReel_migrating (s : State) (i : Nat) (f : Reel → Reel) : (s.modReel i f).migrating = s.migrating := rfl
@[simp] theorem State.modReel_moved (s : State) (i : Nat) (f : Reel → Reel) : (s.modReel i f).moved = s.moved := rfl
@[simp] theorem State.modReel_openRows (s : State) (i : Nat) (f : Reel → Reel) : (s.modReel i f).openRows = s.openRows := rfl
@[simp] theorem State.modReel_bankCnt (s : State) (i : Nat) (f : Reel → Reel) : (s.modReel i f).bankCnt = s.bankCnt := rfl
@[simp] theorem State.modReel_rowCnt (s : State) (i : Nat) (f : Reel → Reel) : (s.modReel i f).rowCnt = s.rowCnt := rfl
@[simp] theorem State.modReel_conflicted (s : State) (i : Nat) (f : Reel → Reel) : (s.modReel i f).conflicted = s.conflicted := rfl
@[simp] theorem State.modReel_throttled (s : State) (i : Nat) (f : Reel → Reel) : (s.modReel i f).throttled = s.throttled := rfl
@[simp] theorem State.modReel_windowAt (s : State) (i : Nat) (f : Reel → Reel) : (s.modReel i f).windowAt = s.windowAt := rfl
@[simp] theorem State.modReel_errCnt (s : State) (i : Nat) (f : Reel → Reel) : (s.modReel i f).errCnt = s.errCnt := rfl
@[simp] theorem State.modReel_passes (s : State) (i : Nat) (f : Reel → Reel) : (s.modReel i f).passes = s.passes := rfl
@[simp] theorem State.modReel_mveReqs (s : State) (i : Nat) (f : Reel → Reel) : (s.modReel i f).mveReqs = s.mveReqs := rfl
@[simp] theorem State.modReel_seals (s : State) (i : Nat) (f : Reel → Reel) : (s.modReel i f).seals = s.seals := rfl
@[simp] theorem State.modReel_nodes (s : State) (i : Nat) (f : Reel → Reel) : (s.modReel i f).nodes = s.nodes := rfl
@[simp] theorem State.modReel_armed (s : State) (i : Nat) (f : Reel → Reel) : (s.modReel i f).armed = s.armed := rfl
@[simp] theorem State.modReel_dailyCnt (s : State) (i : Nat) (f : Reel → Reel) : (s.modReel i f).dailyCnt = s.dailyCnt := rfl
@[simp] theorem State.modReel_pkgId (s : State) (i : Nat) (f : Reel → Reel) : (s.modReel i f).pkgId = s.pkgId := rfl
@[simp] theorem State.modReel_standalone (s : State) (i : Nat) (f : Reel → Reel) : (s.modReel i f).standalone = s.standalone := rfl
@[simp] theorem State.modReel_portsDown (s : State) (i : Nat) (f : Reel → Reel) : (s.modReel i f).portsDown = s.portsDown := rfl
@[simp] theorem State.modReel_badPorts (s : State) (i : Nat) (f : Reel → Reel) : (s.modReel i f).badPorts = s.badPorts := rfl
@[simp] theorem State.modReel_linkCtr (s : State) (i : Nat) (f : Reel → Reel) : (s.modReel i f).linkCtr = s.linkCtr := rfl
@[simp] theorem State.modReel_cutOff (s : State) (i : Nat) (f : Reel → Reel) : (s.modReel i f).cutOff = s.cutOff := rfl
@[simp] theorem State.modReel_exports (s : State) (i : Nat) (f : Reel → Reel) : (s.modReel i f).exports = s.exports := rfl
@[simp] theorem State.modReel_keys (s : State) (i : Nat) (f : Reel → Reel) : (s.modReel i f).keys = s.keys := rfl
@[simp] theorem State.modReel_fwDigest (s : State) (i : Nat) (f : Reel → Reel) : (s.modReel i f).fwDigest = s.fwDigest := rfl
@[simp] theorem State.modReel_fwOk (s : State) (i : Nat) (f : Reel → Reel) : (s.modReel i f).fwOk = s.fwOk := rfl
@[simp] theorem State.modReel_staged (s : State) (i : Nat) (f : Reel → Reel) : (s.modReel i f).staged = s.staged := rfl
@[simp] theorem State.modReel_mailbox (s : State) (i : Nat) (f : Reel → Reel) : (s.modReel i f).mailbox = s.mailbox := rfl
@[simp] theorem State.modReel_mbWait (s : State) (i : Nat) (f : Reel → Reel) : (s.modReel i f).mbWait = s.mbWait := rfl
@[simp] theorem State.modReel_mbReady (s : State) (i : Nat) (f : Reel → Reel) : (s.modReel i f).mbReady = s.mbReady := rfl
@[simp] theorem State.modReel_powerLow (s : State) (i : Nat) (f : Reel → Reel) : (s.modReel i f).powerLow = s.powerLow := rfl
@[simp] theorem State.modReel_msix (s : State) (i : Nat) (f : Reel → Reel) : (s.modReel i f).msix = s.msix := rfl
@[simp] theorem State.modReel_hostReply (s : State) (i : Nat) (f : Reel → Reel) : (s.modReel i f).hostReply = s.hostReply := rfl
@[simp] theorem State.modReel_remoteReply (s : State) (i : Nat) (f : Reel → Reel) : (s.modReel i f).remoteReply = s.remoteReply := rfl

@[simp] theorem State.modScene_cur (s : State) (i : Nat) (f : Scene → Scene) : (s.modScene i f).cur = s.cur := rfl
@[simp] theorem State.modScene_agenda (s : State) (i : Nat) (f : Scene → Scene) : (s.modScene i f).agenda = s.agenda := rfl
@[simp] theorem State.modScene_clock (s : State) (i : Nat) (f : Scene → Scene) : (s.modScene i f).clock = s.clock := rfl
@[simp] theorem State.modScene_freeIx (s : State) (i : Nat) (f : Scene → Scene) : (s.modScene i f).freeIx = s.freeIx := rfl
@[simp] theorem State.modScene_power (s : State) (i : Nat) (f : Scene → Scene) : (s.modScene i f).power = s.power := rfl
@[simp] theorem State.modScene_threads (s : State) (i : Nat) (f : Scene → Scene) : (s.modScene i f).threads = s.threads := rfl
@[simp] theorem State.modScene_takes (s : State) (i : Nat) (f : Scene → Scene) : (s.modScene i f).takes = s.takes := rfl
@[simp] theorem State.modScene_reels (s : State) (i : Nat) (f : Scene → Scene) : (s.modScene i f).reels = s.reels := rfl
@[simp] theorem State.modScene_casts (s : State) (i : Nat) (f : Scene → Scene) : (s.modScene i f).casts = s.casts := rfl
@[simp] theorem State.modScene_pend (s : State) (i : Nat) (f : Scene → Scene) : (s.modScene i f).pend = s.pend := rfl
@[simp] theorem State.modScene_ops (s : State) (i : Nat) (f : Scene → Scene) : (s.modScene i f).ops = s.ops := rfl
@[simp] theorem State.modScene_dies (s : State) (i : Nat) (f : Scene → Scene) : (s.modScene i f).dies = s.dies := rfl
@[simp] theorem State.modScene_ctxs (s : State) (i : Nat) (f : Scene → Scene) : (s.modScene i f).ctxs = s.ctxs := rfl
@[simp] theorem State.modScene_held (s : State) (i : Nat) (f : Scene → Scene) : (s.modScene i f).held = s.held := rfl
@[simp] theorem State.modScene_mem (s : State) (i : Nat) (f : Scene → Scene) : (s.modScene i f).mem = s.mem := rfl
@[simp] theorem State.modScene_lineTags (s : State) (i : Nat) (f : Scene → Scene) : (s.modScene i f).lineTags = s.lineTags := rfl
@[simp] theorem State.modScene_frameTags (s : State) (i : Nat) (f : Scene → Scene) : (s.modScene i f).frameTags = s.frameTags := rfl
@[simp] theorem State.modScene_l2 (s : State) (i : Nat) (f : Scene → Scene) : (s.modScene i f).l2 = s.l2 := rfl
@[simp] theorem State.modScene_bindings (s : State) (i : Nat) (f : Scene → Scene) : (s.modScene i f).bindings = s.bindings := rfl
@[simp] theorem State.modScene_tlb (s : State) (i : Nat) (f : Scene → Scene) : (s.modScene i f).tlb = s.tlb := rfl
@[simp] theorem State.modScene_codeRows (s : State) (i : Nat) (f : Scene → Scene) : (s.modScene i f).codeRows = s.codeRows := rfl
@[simp] theorem State.modScene_parts (s : State) (i : Nat) (f : Scene → Scene) : (s.modScene i f).parts = s.parts := rfl
@[simp] theorem State.modScene_uniB (s : State) (i : Nat) (f : Scene → Scene) : (s.modScene i f).uniB = s.uniB := rfl
@[simp] theorem State.modScene_wiped (s : State) (i : Nat) (f : Scene → Scene) : (s.modScene i f).wiped = s.wiped := rfl
@[simp] theorem State.modScene_scrubs (s : State) (i : Nat) (f : Scene → Scene) : (s.modScene i f).scrubs = s.scrubs := rfl
@[simp] theorem State.modScene_walks (s : State) (i : Nat) (f : Scene → Scene) : (s.modScene i f).walks = s.walks := rfl
@[simp] theorem State.modScene_l1 (s : State) (i : Nat) (f : Scene → Scene) : (s.modScene i f).l1 = s.l1 := rfl
@[simp] theorem State.modScene_recCache (s : State) (i : Nat) (f : Scene → Scene) : (s.modScene i f).recCache = s.recCache := rfl
@[simp] theorem State.modScene_olds (s : State) (i : Nat) (f : Scene → Scene) : (s.modScene i f).olds = s.olds := rfl
@[simp] theorem State.modScene_markCtr (s : State) (i : Nat) (f : Scene → Scene) : (s.modScene i f).markCtr = s.markCtr := rfl
@[simp] theorem State.modScene_releases (s : State) (i : Nat) (f : Scene → Scene) : (s.modScene i f).releases = s.releases := rfl
@[simp] theorem State.modScene_loaded (s : State) (i : Nat) (f : Scene → Scene) : (s.modScene i f).loaded = s.loaded := rfl
@[simp] theorem State.modScene_fences (s : State) (i : Nat) (f : Scene → Scene) : (s.modScene i f).fences = s.fences := rfl
@[simp] theorem State.modScene_nodeMarks (s : State) (i : Nat) (f : Scene → Scene) : (s.modScene i f).nodeMarks = s.nodeMarks := rfl
@[simp] theorem State.modScene_signals (s : State) (i : Nat) (f : Scene → Scene) : (s.modScene i f).signals = s.signals := rfl
@[simp] theorem State.modScene_staging (s : State) (i : Nat) (f : Scene → Scene) : (s.modScene i f).staging = s.staging := rfl
@[simp] theorem State.modScene_memErrs (s : State) (i : Nat) (f : Scene → Scene) : (s.modScene i f).memErrs = s.memErrs := rfl
@[simp] theorem State.modScene_listBytes (s : State) (i : Nat) (f : Scene → Scene) : (s.modScene i f).listBytes = s.listBytes := rfl
@[simp] theorem State.modScene_rounds (s : State) (i : Nat) (f : Scene → Scene) : (s.modScene i f).rounds = s.rounds := rfl
@[simp] theorem State.modScene_lcs (s : State) (i : Nat) (f : Scene → Scene) : (s.modScene i f).lcs = s.lcs := rfl
@[simp] theorem State.modScene_shadow (s : State) (i : Nat) (f : Scene → Scene) : (s.modScene i f).shadow = s.shadow := rfl
@[simp] theorem State.modScene_pageReqs (s : State) (i : Nat) (f : Scene → Scene) : (s.modScene i f).pageReqs = s.pageReqs := rfl
@[simp] theorem State.modScene_seqCtr (s : State) (i : Nat) (f : Scene → Scene) : (s.modScene i f).seqCtr = s.seqCtr := rfl
@[simp] theorem State.modScene_trails (s : State) (i : Nat) (f : Scene → Scene) : (s.modScene i f).trails = s.trails := rfl
@[simp] theorem State.modScene_tracks (s : State) (i : Nat) (f : Scene → Scene) : (s.modScene i f).tracks = s.tracks := rfl
@[simp] theorem State.modScene_groupMode (s : State) (i : Nat) (f : Scene → Scene) : (s.modScene i f).groupMode = s.groupMode := rfl
@[simp] theorem State.modScene_hashVer (s : State) (i : Nat) (f : Scene → Scene) : (s.modScene i f).hashVer = s.hashVer := rfl
@[simp] theorem State.modScene_masks (s : State) (i : Nat) (f : Scene → Scene) : (s.modScene i f).masks = s.masks := rfl
@[simp] theorem State.modScene_oldMasks (s : State) (i : Nat) (f : Scene → Scene) : (s.modScene i f).oldMasks = s.oldMasks := rfl
@[simp] theorem State.modScene_migrating (s : State) (i : Nat) (f : Scene → Scene) : (s.modScene i f).migrating = s.migrating := rfl
@[simp] theorem State.modScene_moved (s : State) (i : Nat) (f : Scene → Scene) : (s.modScene i f).moved = s.moved := rfl
@[simp] theorem State.modScene_openRows (s : State) (i : Nat) (f : Scene → Scene) : (s.modScene i f).openRows = s.openRows := rfl
@[simp] theorem State.modScene_bankCnt (s : State) (i : Nat) (f : Scene → Scene) : (s.modScene i f).bankCnt = s.bankCnt := rfl
@[simp] theorem State.modScene_rowCnt (s : State) (i : Nat) (f : Scene → Scene) : (s.modScene i f).rowCnt = s.rowCnt := rfl
@[simp] theorem State.modScene_conflicted (s : State) (i : Nat) (f : Scene → Scene) : (s.modScene i f).conflicted = s.conflicted := rfl
@[simp] theorem State.modScene_throttled (s : State) (i : Nat) (f : Scene → Scene) : (s.modScene i f).throttled = s.throttled := rfl
@[simp] theorem State.modScene_windowAt (s : State) (i : Nat) (f : Scene → Scene) : (s.modScene i f).windowAt = s.windowAt := rfl
@[simp] theorem State.modScene_errCnt (s : State) (i : Nat) (f : Scene → Scene) : (s.modScene i f).errCnt = s.errCnt := rfl
@[simp] theorem State.modScene_passes (s : State) (i : Nat) (f : Scene → Scene) : (s.modScene i f).passes = s.passes := rfl
@[simp] theorem State.modScene_mveReqs (s : State) (i : Nat) (f : Scene → Scene) : (s.modScene i f).mveReqs = s.mveReqs := rfl
@[simp] theorem State.modScene_seals (s : State) (i : Nat) (f : Scene → Scene) : (s.modScene i f).seals = s.seals := rfl
@[simp] theorem State.modScene_nodes (s : State) (i : Nat) (f : Scene → Scene) : (s.modScene i f).nodes = s.nodes := rfl
@[simp] theorem State.modScene_armed (s : State) (i : Nat) (f : Scene → Scene) : (s.modScene i f).armed = s.armed := rfl
@[simp] theorem State.modScene_dailyCnt (s : State) (i : Nat) (f : Scene → Scene) : (s.modScene i f).dailyCnt = s.dailyCnt := rfl
@[simp] theorem State.modScene_pkgId (s : State) (i : Nat) (f : Scene → Scene) : (s.modScene i f).pkgId = s.pkgId := rfl
@[simp] theorem State.modScene_standalone (s : State) (i : Nat) (f : Scene → Scene) : (s.modScene i f).standalone = s.standalone := rfl
@[simp] theorem State.modScene_portsDown (s : State) (i : Nat) (f : Scene → Scene) : (s.modScene i f).portsDown = s.portsDown := rfl
@[simp] theorem State.modScene_badPorts (s : State) (i : Nat) (f : Scene → Scene) : (s.modScene i f).badPorts = s.badPorts := rfl
@[simp] theorem State.modScene_linkCtr (s : State) (i : Nat) (f : Scene → Scene) : (s.modScene i f).linkCtr = s.linkCtr := rfl
@[simp] theorem State.modScene_cutOff (s : State) (i : Nat) (f : Scene → Scene) : (s.modScene i f).cutOff = s.cutOff := rfl
@[simp] theorem State.modScene_exports (s : State) (i : Nat) (f : Scene → Scene) : (s.modScene i f).exports = s.exports := rfl
@[simp] theorem State.modScene_keys (s : State) (i : Nat) (f : Scene → Scene) : (s.modScene i f).keys = s.keys := rfl
@[simp] theorem State.modScene_fwDigest (s : State) (i : Nat) (f : Scene → Scene) : (s.modScene i f).fwDigest = s.fwDigest := rfl
@[simp] theorem State.modScene_fwOk (s : State) (i : Nat) (f : Scene → Scene) : (s.modScene i f).fwOk = s.fwOk := rfl
@[simp] theorem State.modScene_staged (s : State) (i : Nat) (f : Scene → Scene) : (s.modScene i f).staged = s.staged := rfl
@[simp] theorem State.modScene_mailbox (s : State) (i : Nat) (f : Scene → Scene) : (s.modScene i f).mailbox = s.mailbox := rfl
@[simp] theorem State.modScene_mbWait (s : State) (i : Nat) (f : Scene → Scene) : (s.modScene i f).mbWait = s.mbWait := rfl
@[simp] theorem State.modScene_mbReady (s : State) (i : Nat) (f : Scene → Scene) : (s.modScene i f).mbReady = s.mbReady := rfl
@[simp] theorem State.modScene_powerLow (s : State) (i : Nat) (f : Scene → Scene) : (s.modScene i f).powerLow = s.powerLow := rfl
@[simp] theorem State.modScene_msix (s : State) (i : Nat) (f : Scene → Scene) : (s.modScene i f).msix = s.msix := rfl
@[simp] theorem State.modScene_hostReply (s : State) (i : Nat) (f : Scene → Scene) : (s.modScene i f).hostReply = s.hostReply := rfl
@[simp] theorem State.modScene_remoteReply (s : State) (i : Nat) (f : Scene → Scene) : (s.modScene i f).remoteReply = s.remoteReply := rfl

@[simp] theorem State.modCast_cur (s : State) (i : Nat) (f : Cast → Cast) : (s.modCast i f).cur = s.cur := rfl
@[simp] theorem State.modCast_agenda (s : State) (i : Nat) (f : Cast → Cast) : (s.modCast i f).agenda = s.agenda := rfl
@[simp] theorem State.modCast_clock (s : State) (i : Nat) (f : Cast → Cast) : (s.modCast i f).clock = s.clock := rfl
@[simp] theorem State.modCast_freeIx (s : State) (i : Nat) (f : Cast → Cast) : (s.modCast i f).freeIx = s.freeIx := rfl
@[simp] theorem State.modCast_power (s : State) (i : Nat) (f : Cast → Cast) : (s.modCast i f).power = s.power := rfl
@[simp] theorem State.modCast_threads (s : State) (i : Nat) (f : Cast → Cast) : (s.modCast i f).threads = s.threads := rfl
@[simp] theorem State.modCast_takes (s : State) (i : Nat) (f : Cast → Cast) : (s.modCast i f).takes = s.takes := rfl
@[simp] theorem State.modCast_reels (s : State) (i : Nat) (f : Cast → Cast) : (s.modCast i f).reels = s.reels := rfl
@[simp] theorem State.modCast_scenes (s : State) (i : Nat) (f : Cast → Cast) : (s.modCast i f).scenes = s.scenes := rfl
@[simp] theorem State.modCast_pend (s : State) (i : Nat) (f : Cast → Cast) : (s.modCast i f).pend = s.pend := rfl
@[simp] theorem State.modCast_ops (s : State) (i : Nat) (f : Cast → Cast) : (s.modCast i f).ops = s.ops := rfl
@[simp] theorem State.modCast_dies (s : State) (i : Nat) (f : Cast → Cast) : (s.modCast i f).dies = s.dies := rfl
@[simp] theorem State.modCast_ctxs (s : State) (i : Nat) (f : Cast → Cast) : (s.modCast i f).ctxs = s.ctxs := rfl
@[simp] theorem State.modCast_held (s : State) (i : Nat) (f : Cast → Cast) : (s.modCast i f).held = s.held := rfl
@[simp] theorem State.modCast_mem (s : State) (i : Nat) (f : Cast → Cast) : (s.modCast i f).mem = s.mem := rfl
@[simp] theorem State.modCast_lineTags (s : State) (i : Nat) (f : Cast → Cast) : (s.modCast i f).lineTags = s.lineTags := rfl
@[simp] theorem State.modCast_frameTags (s : State) (i : Nat) (f : Cast → Cast) : (s.modCast i f).frameTags = s.frameTags := rfl
@[simp] theorem State.modCast_l2 (s : State) (i : Nat) (f : Cast → Cast) : (s.modCast i f).l2 = s.l2 := rfl
@[simp] theorem State.modCast_bindings (s : State) (i : Nat) (f : Cast → Cast) : (s.modCast i f).bindings = s.bindings := rfl
@[simp] theorem State.modCast_tlb (s : State) (i : Nat) (f : Cast → Cast) : (s.modCast i f).tlb = s.tlb := rfl
@[simp] theorem State.modCast_codeRows (s : State) (i : Nat) (f : Cast → Cast) : (s.modCast i f).codeRows = s.codeRows := rfl
@[simp] theorem State.modCast_parts (s : State) (i : Nat) (f : Cast → Cast) : (s.modCast i f).parts = s.parts := rfl
@[simp] theorem State.modCast_uniB (s : State) (i : Nat) (f : Cast → Cast) : (s.modCast i f).uniB = s.uniB := rfl
@[simp] theorem State.modCast_wiped (s : State) (i : Nat) (f : Cast → Cast) : (s.modCast i f).wiped = s.wiped := rfl
@[simp] theorem State.modCast_scrubs (s : State) (i : Nat) (f : Cast → Cast) : (s.modCast i f).scrubs = s.scrubs := rfl
@[simp] theorem State.modCast_walks (s : State) (i : Nat) (f : Cast → Cast) : (s.modCast i f).walks = s.walks := rfl
@[simp] theorem State.modCast_l1 (s : State) (i : Nat) (f : Cast → Cast) : (s.modCast i f).l1 = s.l1 := rfl
@[simp] theorem State.modCast_recCache (s : State) (i : Nat) (f : Cast → Cast) : (s.modCast i f).recCache = s.recCache := rfl
@[simp] theorem State.modCast_olds (s : State) (i : Nat) (f : Cast → Cast) : (s.modCast i f).olds = s.olds := rfl
@[simp] theorem State.modCast_markCtr (s : State) (i : Nat) (f : Cast → Cast) : (s.modCast i f).markCtr = s.markCtr := rfl
@[simp] theorem State.modCast_releases (s : State) (i : Nat) (f : Cast → Cast) : (s.modCast i f).releases = s.releases := rfl
@[simp] theorem State.modCast_loaded (s : State) (i : Nat) (f : Cast → Cast) : (s.modCast i f).loaded = s.loaded := rfl
@[simp] theorem State.modCast_fences (s : State) (i : Nat) (f : Cast → Cast) : (s.modCast i f).fences = s.fences := rfl
@[simp] theorem State.modCast_nodeMarks (s : State) (i : Nat) (f : Cast → Cast) : (s.modCast i f).nodeMarks = s.nodeMarks := rfl
@[simp] theorem State.modCast_signals (s : State) (i : Nat) (f : Cast → Cast) : (s.modCast i f).signals = s.signals := rfl
@[simp] theorem State.modCast_staging (s : State) (i : Nat) (f : Cast → Cast) : (s.modCast i f).staging = s.staging := rfl
@[simp] theorem State.modCast_memErrs (s : State) (i : Nat) (f : Cast → Cast) : (s.modCast i f).memErrs = s.memErrs := rfl
@[simp] theorem State.modCast_listBytes (s : State) (i : Nat) (f : Cast → Cast) : (s.modCast i f).listBytes = s.listBytes := rfl
@[simp] theorem State.modCast_rounds (s : State) (i : Nat) (f : Cast → Cast) : (s.modCast i f).rounds = s.rounds := rfl
@[simp] theorem State.modCast_lcs (s : State) (i : Nat) (f : Cast → Cast) : (s.modCast i f).lcs = s.lcs := rfl
@[simp] theorem State.modCast_shadow (s : State) (i : Nat) (f : Cast → Cast) : (s.modCast i f).shadow = s.shadow := rfl
@[simp] theorem State.modCast_pageReqs (s : State) (i : Nat) (f : Cast → Cast) : (s.modCast i f).pageReqs = s.pageReqs := rfl
@[simp] theorem State.modCast_seqCtr (s : State) (i : Nat) (f : Cast → Cast) : (s.modCast i f).seqCtr = s.seqCtr := rfl
@[simp] theorem State.modCast_trails (s : State) (i : Nat) (f : Cast → Cast) : (s.modCast i f).trails = s.trails := rfl
@[simp] theorem State.modCast_tracks (s : State) (i : Nat) (f : Cast → Cast) : (s.modCast i f).tracks = s.tracks := rfl
@[simp] theorem State.modCast_groupMode (s : State) (i : Nat) (f : Cast → Cast) : (s.modCast i f).groupMode = s.groupMode := rfl
@[simp] theorem State.modCast_hashVer (s : State) (i : Nat) (f : Cast → Cast) : (s.modCast i f).hashVer = s.hashVer := rfl
@[simp] theorem State.modCast_masks (s : State) (i : Nat) (f : Cast → Cast) : (s.modCast i f).masks = s.masks := rfl
@[simp] theorem State.modCast_oldMasks (s : State) (i : Nat) (f : Cast → Cast) : (s.modCast i f).oldMasks = s.oldMasks := rfl
@[simp] theorem State.modCast_migrating (s : State) (i : Nat) (f : Cast → Cast) : (s.modCast i f).migrating = s.migrating := rfl
@[simp] theorem State.modCast_moved (s : State) (i : Nat) (f : Cast → Cast) : (s.modCast i f).moved = s.moved := rfl
@[simp] theorem State.modCast_openRows (s : State) (i : Nat) (f : Cast → Cast) : (s.modCast i f).openRows = s.openRows := rfl
@[simp] theorem State.modCast_bankCnt (s : State) (i : Nat) (f : Cast → Cast) : (s.modCast i f).bankCnt = s.bankCnt := rfl
@[simp] theorem State.modCast_rowCnt (s : State) (i : Nat) (f : Cast → Cast) : (s.modCast i f).rowCnt = s.rowCnt := rfl
@[simp] theorem State.modCast_conflicted (s : State) (i : Nat) (f : Cast → Cast) : (s.modCast i f).conflicted = s.conflicted := rfl
@[simp] theorem State.modCast_throttled (s : State) (i : Nat) (f : Cast → Cast) : (s.modCast i f).throttled = s.throttled := rfl
@[simp] theorem State.modCast_windowAt (s : State) (i : Nat) (f : Cast → Cast) : (s.modCast i f).windowAt = s.windowAt := rfl
@[simp] theorem State.modCast_errCnt (s : State) (i : Nat) (f : Cast → Cast) : (s.modCast i f).errCnt = s.errCnt := rfl
@[simp] theorem State.modCast_passes (s : State) (i : Nat) (f : Cast → Cast) : (s.modCast i f).passes = s.passes := rfl
@[simp] theorem State.modCast_mveReqs (s : State) (i : Nat) (f : Cast → Cast) : (s.modCast i f).mveReqs = s.mveReqs := rfl
@[simp] theorem State.modCast_seals (s : State) (i : Nat) (f : Cast → Cast) : (s.modCast i f).seals = s.seals := rfl
@[simp] theorem State.modCast_nodes (s : State) (i : Nat) (f : Cast → Cast) : (s.modCast i f).nodes = s.nodes := rfl
@[simp] theorem State.modCast_armed (s : State) (i : Nat) (f : Cast → Cast) : (s.modCast i f).armed = s.armed := rfl
@[simp] theorem State.modCast_dailyCnt (s : State) (i : Nat) (f : Cast → Cast) : (s.modCast i f).dailyCnt = s.dailyCnt := rfl
@[simp] theorem State.modCast_pkgId (s : State) (i : Nat) (f : Cast → Cast) : (s.modCast i f).pkgId = s.pkgId := rfl
@[simp] theorem State.modCast_standalone (s : State) (i : Nat) (f : Cast → Cast) : (s.modCast i f).standalone = s.standalone := rfl
@[simp] theorem State.modCast_portsDown (s : State) (i : Nat) (f : Cast → Cast) : (s.modCast i f).portsDown = s.portsDown := rfl
@[simp] theorem State.modCast_badPorts (s : State) (i : Nat) (f : Cast → Cast) : (s.modCast i f).badPorts = s.badPorts := rfl
@[simp] theorem State.modCast_linkCtr (s : State) (i : Nat) (f : Cast → Cast) : (s.modCast i f).linkCtr = s.linkCtr := rfl
@[simp] theorem State.modCast_cutOff (s : State) (i : Nat) (f : Cast → Cast) : (s.modCast i f).cutOff = s.cutOff := rfl
@[simp] theorem State.modCast_exports (s : State) (i : Nat) (f : Cast → Cast) : (s.modCast i f).exports = s.exports := rfl
@[simp] theorem State.modCast_keys (s : State) (i : Nat) (f : Cast → Cast) : (s.modCast i f).keys = s.keys := rfl
@[simp] theorem State.modCast_fwDigest (s : State) (i : Nat) (f : Cast → Cast) : (s.modCast i f).fwDigest = s.fwDigest := rfl
@[simp] theorem State.modCast_fwOk (s : State) (i : Nat) (f : Cast → Cast) : (s.modCast i f).fwOk = s.fwOk := rfl
@[simp] theorem State.modCast_staged (s : State) (i : Nat) (f : Cast → Cast) : (s.modCast i f).staged = s.staged := rfl
@[simp] theorem State.modCast_mailbox (s : State) (i : Nat) (f : Cast → Cast) : (s.modCast i f).mailbox = s.mailbox := rfl
@[simp] theorem State.modCast_mbWait (s : State) (i : Nat) (f : Cast → Cast) : (s.modCast i f).mbWait = s.mbWait := rfl
@[simp] theorem State.modCast_mbReady (s : State) (i : Nat) (f : Cast → Cast) : (s.modCast i f).mbReady = s.mbReady := rfl
@[simp] theorem State.modCast_powerLow (s : State) (i : Nat) (f : Cast → Cast) : (s.modCast i f).powerLow = s.powerLow := rfl
@[simp] theorem State.modCast_msix (s : State) (i : Nat) (f : Cast → Cast) : (s.modCast i f).msix = s.msix := rfl
@[simp] theorem State.modCast_hostReply (s : State) (i : Nat) (f : Cast → Cast) : (s.modCast i f).hostReply = s.hostReply := rfl
@[simp] theorem State.modCast_remoteReply (s : State) (i : Nat) (f : Cast → Cast) : (s.modCast i f).remoteReply = s.remoteReply := rfl

@[simp] theorem State.modOp_cur (s : State) (i : Nat) (f : Op → Op) : (s.modOp i f).cur = s.cur := rfl
@[simp] theorem State.modOp_agenda (s : State) (i : Nat) (f : Op → Op) : (s.modOp i f).agenda = s.agenda := rfl
@[simp] theorem State.modOp_clock (s : State) (i : Nat) (f : Op → Op) : (s.modOp i f).clock = s.clock := rfl
@[simp] theorem State.modOp_freeIx (s : State) (i : Nat) (f : Op → Op) : (s.modOp i f).freeIx = s.freeIx := rfl
@[simp] theorem State.modOp_power (s : State) (i : Nat) (f : Op → Op) : (s.modOp i f).power = s.power := rfl
@[simp] theorem State.modOp_threads (s : State) (i : Nat) (f : Op → Op) : (s.modOp i f).threads = s.threads := rfl
@[simp] theorem State.modOp_takes (s : State) (i : Nat) (f : Op → Op) : (s.modOp i f).takes = s.takes := rfl
@[simp] theorem State.modOp_reels (s : State) (i : Nat) (f : Op → Op) : (s.modOp i f).reels = s.reels := rfl
@[simp] theorem State.modOp_scenes (s : State) (i : Nat) (f : Op → Op) : (s.modOp i f).scenes = s.scenes := rfl
@[simp] theorem State.modOp_casts (s : State) (i : Nat) (f : Op → Op) : (s.modOp i f).casts = s.casts := rfl
@[simp] theorem State.modOp_pend (s : State) (i : Nat) (f : Op → Op) : (s.modOp i f).pend = s.pend := rfl
@[simp] theorem State.modOp_dies (s : State) (i : Nat) (f : Op → Op) : (s.modOp i f).dies = s.dies := rfl
@[simp] theorem State.modOp_ctxs (s : State) (i : Nat) (f : Op → Op) : (s.modOp i f).ctxs = s.ctxs := rfl
@[simp] theorem State.modOp_held (s : State) (i : Nat) (f : Op → Op) : (s.modOp i f).held = s.held := rfl
@[simp] theorem State.modOp_mem (s : State) (i : Nat) (f : Op → Op) : (s.modOp i f).mem = s.mem := rfl
@[simp] theorem State.modOp_lineTags (s : State) (i : Nat) (f : Op → Op) : (s.modOp i f).lineTags = s.lineTags := rfl
@[simp] theorem State.modOp_frameTags (s : State) (i : Nat) (f : Op → Op) : (s.modOp i f).frameTags = s.frameTags := rfl
@[simp] theorem State.modOp_l2 (s : State) (i : Nat) (f : Op → Op) : (s.modOp i f).l2 = s.l2 := rfl
@[simp] theorem State.modOp_bindings (s : State) (i : Nat) (f : Op → Op) : (s.modOp i f).bindings = s.bindings := rfl
@[simp] theorem State.modOp_tlb (s : State) (i : Nat) (f : Op → Op) : (s.modOp i f).tlb = s.tlb := rfl
@[simp] theorem State.modOp_codeRows (s : State) (i : Nat) (f : Op → Op) : (s.modOp i f).codeRows = s.codeRows := rfl
@[simp] theorem State.modOp_parts (s : State) (i : Nat) (f : Op → Op) : (s.modOp i f).parts = s.parts := rfl
@[simp] theorem State.modOp_uniB (s : State) (i : Nat) (f : Op → Op) : (s.modOp i f).uniB = s.uniB := rfl
@[simp] theorem State.modOp_wiped (s : State) (i : Nat) (f : Op → Op) : (s.modOp i f).wiped = s.wiped := rfl
@[simp] theorem State.modOp_scrubs (s : State) (i : Nat) (f : Op → Op) : (s.modOp i f).scrubs = s.scrubs := rfl
@[simp] theorem State.modOp_walks (s : State) (i : Nat) (f : Op → Op) : (s.modOp i f).walks = s.walks := rfl
@[simp] theorem State.modOp_l1 (s : State) (i : Nat) (f : Op → Op) : (s.modOp i f).l1 = s.l1 := rfl
@[simp] theorem State.modOp_recCache (s : State) (i : Nat) (f : Op → Op) : (s.modOp i f).recCache = s.recCache := rfl
@[simp] theorem State.modOp_olds (s : State) (i : Nat) (f : Op → Op) : (s.modOp i f).olds = s.olds := rfl
@[simp] theorem State.modOp_markCtr (s : State) (i : Nat) (f : Op → Op) : (s.modOp i f).markCtr = s.markCtr := rfl
@[simp] theorem State.modOp_releases (s : State) (i : Nat) (f : Op → Op) : (s.modOp i f).releases = s.releases := rfl
@[simp] theorem State.modOp_loaded (s : State) (i : Nat) (f : Op → Op) : (s.modOp i f).loaded = s.loaded := rfl
@[simp] theorem State.modOp_fences (s : State) (i : Nat) (f : Op → Op) : (s.modOp i f).fences = s.fences := rfl
@[simp] theorem State.modOp_nodeMarks (s : State) (i : Nat) (f : Op → Op) : (s.modOp i f).nodeMarks = s.nodeMarks := rfl
@[simp] theorem State.modOp_signals (s : State) (i : Nat) (f : Op → Op) : (s.modOp i f).signals = s.signals := rfl
@[simp] theorem State.modOp_staging (s : State) (i : Nat) (f : Op → Op) : (s.modOp i f).staging = s.staging := rfl
@[simp] theorem State.modOp_memErrs (s : State) (i : Nat) (f : Op → Op) : (s.modOp i f).memErrs = s.memErrs := rfl
@[simp] theorem State.modOp_listBytes (s : State) (i : Nat) (f : Op → Op) : (s.modOp i f).listBytes = s.listBytes := rfl
@[simp] theorem State.modOp_rounds (s : State) (i : Nat) (f : Op → Op) : (s.modOp i f).rounds = s.rounds := rfl
@[simp] theorem State.modOp_lcs (s : State) (i : Nat) (f : Op → Op) : (s.modOp i f).lcs = s.lcs := rfl
@[simp] theorem State.modOp_shadow (s : State) (i : Nat) (f : Op → Op) : (s.modOp i f).shadow = s.shadow := rfl
@[simp] theorem State.modOp_pageReqs (s : State) (i : Nat) (f : Op → Op) : (s.modOp i f).pageReqs = s.pageReqs := rfl
@[simp] theorem State.modOp_seqCtr (s : State) (i : Nat) (f : Op → Op) : (s.modOp i f).seqCtr = s.seqCtr := rfl
@[simp] theorem State.modOp_trails (s : State) (i : Nat) (f : Op → Op) : (s.modOp i f).trails = s.trails := rfl
@[simp] theorem State.modOp_tracks (s : State) (i : Nat) (f : Op → Op) : (s.modOp i f).tracks = s.tracks := rfl
@[simp] theorem State.modOp_groupMode (s : State) (i : Nat) (f : Op → Op) : (s.modOp i f).groupMode = s.groupMode := rfl
@[simp] theorem State.modOp_hashVer (s : State) (i : Nat) (f : Op → Op) : (s.modOp i f).hashVer = s.hashVer := rfl
@[simp] theorem State.modOp_masks (s : State) (i : Nat) (f : Op → Op) : (s.modOp i f).masks = s.masks := rfl
@[simp] theorem State.modOp_oldMasks (s : State) (i : Nat) (f : Op → Op) : (s.modOp i f).oldMasks = s.oldMasks := rfl
@[simp] theorem State.modOp_migrating (s : State) (i : Nat) (f : Op → Op) : (s.modOp i f).migrating = s.migrating := rfl
@[simp] theorem State.modOp_moved (s : State) (i : Nat) (f : Op → Op) : (s.modOp i f).moved = s.moved := rfl
@[simp] theorem State.modOp_openRows (s : State) (i : Nat) (f : Op → Op) : (s.modOp i f).openRows = s.openRows := rfl
@[simp] theorem State.modOp_bankCnt (s : State) (i : Nat) (f : Op → Op) : (s.modOp i f).bankCnt = s.bankCnt := rfl
@[simp] theorem State.modOp_rowCnt (s : State) (i : Nat) (f : Op → Op) : (s.modOp i f).rowCnt = s.rowCnt := rfl
@[simp] theorem State.modOp_conflicted (s : State) (i : Nat) (f : Op → Op) : (s.modOp i f).conflicted = s.conflicted := rfl
@[simp] theorem State.modOp_throttled (s : State) (i : Nat) (f : Op → Op) : (s.modOp i f).throttled = s.throttled := rfl
@[simp] theorem State.modOp_windowAt (s : State) (i : Nat) (f : Op → Op) : (s.modOp i f).windowAt = s.windowAt := rfl
@[simp] theorem State.modOp_errCnt (s : State) (i : Nat) (f : Op → Op) : (s.modOp i f).errCnt = s.errCnt := rfl
@[simp] theorem State.modOp_passes (s : State) (i : Nat) (f : Op → Op) : (s.modOp i f).passes = s.passes := rfl
@[simp] theorem State.modOp_mveReqs (s : State) (i : Nat) (f : Op → Op) : (s.modOp i f).mveReqs = s.mveReqs := rfl
@[simp] theorem State.modOp_seals (s : State) (i : Nat) (f : Op → Op) : (s.modOp i f).seals = s.seals := rfl
@[simp] theorem State.modOp_nodes (s : State) (i : Nat) (f : Op → Op) : (s.modOp i f).nodes = s.nodes := rfl
@[simp] theorem State.modOp_armed (s : State) (i : Nat) (f : Op → Op) : (s.modOp i f).armed = s.armed := rfl
@[simp] theorem State.modOp_dailyCnt (s : State) (i : Nat) (f : Op → Op) : (s.modOp i f).dailyCnt = s.dailyCnt := rfl
@[simp] theorem State.modOp_pkgId (s : State) (i : Nat) (f : Op → Op) : (s.modOp i f).pkgId = s.pkgId := rfl
@[simp] theorem State.modOp_standalone (s : State) (i : Nat) (f : Op → Op) : (s.modOp i f).standalone = s.standalone := rfl
@[simp] theorem State.modOp_portsDown (s : State) (i : Nat) (f : Op → Op) : (s.modOp i f).portsDown = s.portsDown := rfl
@[simp] theorem State.modOp_badPorts (s : State) (i : Nat) (f : Op → Op) : (s.modOp i f).badPorts = s.badPorts := rfl
@[simp] theorem State.modOp_linkCtr (s : State) (i : Nat) (f : Op → Op) : (s.modOp i f).linkCtr = s.linkCtr := rfl
@[simp] theorem State.modOp_cutOff (s : State) (i : Nat) (f : Op → Op) : (s.modOp i f).cutOff = s.cutOff := rfl
@[simp] theorem State.modOp_exports (s : State) (i : Nat) (f : Op → Op) : (s.modOp i f).exports = s.exports := rfl
@[simp] theorem State.modOp_keys (s : State) (i : Nat) (f : Op → Op) : (s.modOp i f).keys = s.keys := rfl
@[simp] theorem State.modOp_fwDigest (s : State) (i : Nat) (f : Op → Op) : (s.modOp i f).fwDigest = s.fwDigest := rfl
@[simp] theorem State.modOp_fwOk (s : State) (i : Nat) (f : Op → Op) : (s.modOp i f).fwOk = s.fwOk := rfl
@[simp] theorem State.modOp_staged (s : State) (i : Nat) (f : Op → Op) : (s.modOp i f).staged = s.staged := rfl
@[simp] theorem State.modOp_mailbox (s : State) (i : Nat) (f : Op → Op) : (s.modOp i f).mailbox = s.mailbox := rfl
@[simp] theorem State.modOp_mbWait (s : State) (i : Nat) (f : Op → Op) : (s.modOp i f).mbWait = s.mbWait := rfl
@[simp] theorem State.modOp_mbReady (s : State) (i : Nat) (f : Op → Op) : (s.modOp i f).mbReady = s.mbReady := rfl
@[simp] theorem State.modOp_powerLow (s : State) (i : Nat) (f : Op → Op) : (s.modOp i f).powerLow = s.powerLow := rfl
@[simp] theorem State.modOp_msix (s : State) (i : Nat) (f : Op → Op) : (s.modOp i f).msix = s.msix := rfl
@[simp] theorem State.modOp_hostReply (s : State) (i : Nat) (f : Op → Op) : (s.modOp i f).hostReply = s.hostReply := rfl
@[simp] theorem State.modOp_remoteReply (s : State) (i : Nat) (f : Op → Op) : (s.modOp i f).remoteReply = s.remoteReply := rfl

@[simp] theorem State.modDie_cur (s : State) (d : Nat) (f : DieRegs → DieRegs) : (s.modDie d f).cur = s.cur := rfl
@[simp] theorem State.modDie_agenda (s : State) (d : Nat) (f : DieRegs → DieRegs) : (s.modDie d f).agenda = s.agenda := rfl
@[simp] theorem State.modDie_clock (s : State) (d : Nat) (f : DieRegs → DieRegs) : (s.modDie d f).clock = s.clock := rfl
@[simp] theorem State.modDie_freeIx (s : State) (d : Nat) (f : DieRegs → DieRegs) : (s.modDie d f).freeIx = s.freeIx := rfl
@[simp] theorem State.modDie_power (s : State) (d : Nat) (f : DieRegs → DieRegs) : (s.modDie d f).power = s.power := rfl
@[simp] theorem State.modDie_threads (s : State) (d : Nat) (f : DieRegs → DieRegs) : (s.modDie d f).threads = s.threads := rfl
@[simp] theorem State.modDie_takes (s : State) (d : Nat) (f : DieRegs → DieRegs) : (s.modDie d f).takes = s.takes := rfl
@[simp] theorem State.modDie_reels (s : State) (d : Nat) (f : DieRegs → DieRegs) : (s.modDie d f).reels = s.reels := rfl
@[simp] theorem State.modDie_scenes (s : State) (d : Nat) (f : DieRegs → DieRegs) : (s.modDie d f).scenes = s.scenes := rfl
@[simp] theorem State.modDie_casts (s : State) (d : Nat) (f : DieRegs → DieRegs) : (s.modDie d f).casts = s.casts := rfl
@[simp] theorem State.modDie_pend (s : State) (d : Nat) (f : DieRegs → DieRegs) : (s.modDie d f).pend = s.pend := rfl
@[simp] theorem State.modDie_ops (s : State) (d : Nat) (f : DieRegs → DieRegs) : (s.modDie d f).ops = s.ops := rfl
@[simp] theorem State.modDie_ctxs (s : State) (d : Nat) (f : DieRegs → DieRegs) : (s.modDie d f).ctxs = s.ctxs := rfl
@[simp] theorem State.modDie_held (s : State) (d : Nat) (f : DieRegs → DieRegs) : (s.modDie d f).held = s.held := rfl
@[simp] theorem State.modDie_mem (s : State) (d : Nat) (f : DieRegs → DieRegs) : (s.modDie d f).mem = s.mem := rfl
@[simp] theorem State.modDie_lineTags (s : State) (d : Nat) (f : DieRegs → DieRegs) : (s.modDie d f).lineTags = s.lineTags := rfl
@[simp] theorem State.modDie_frameTags (s : State) (d : Nat) (f : DieRegs → DieRegs) : (s.modDie d f).frameTags = s.frameTags := rfl
@[simp] theorem State.modDie_l2 (s : State) (d : Nat) (f : DieRegs → DieRegs) : (s.modDie d f).l2 = s.l2 := rfl
@[simp] theorem State.modDie_bindings (s : State) (d : Nat) (f : DieRegs → DieRegs) : (s.modDie d f).bindings = s.bindings := rfl
@[simp] theorem State.modDie_tlb (s : State) (d : Nat) (f : DieRegs → DieRegs) : (s.modDie d f).tlb = s.tlb := rfl
@[simp] theorem State.modDie_codeRows (s : State) (d : Nat) (f : DieRegs → DieRegs) : (s.modDie d f).codeRows = s.codeRows := rfl
@[simp] theorem State.modDie_parts (s : State) (d : Nat) (f : DieRegs → DieRegs) : (s.modDie d f).parts = s.parts := rfl
@[simp] theorem State.modDie_uniB (s : State) (d : Nat) (f : DieRegs → DieRegs) : (s.modDie d f).uniB = s.uniB := rfl
@[simp] theorem State.modDie_wiped (s : State) (d : Nat) (f : DieRegs → DieRegs) : (s.modDie d f).wiped = s.wiped := rfl
@[simp] theorem State.modDie_scrubs (s : State) (d : Nat) (f : DieRegs → DieRegs) : (s.modDie d f).scrubs = s.scrubs := rfl
@[simp] theorem State.modDie_walks (s : State) (d : Nat) (f : DieRegs → DieRegs) : (s.modDie d f).walks = s.walks := rfl
@[simp] theorem State.modDie_l1 (s : State) (d : Nat) (f : DieRegs → DieRegs) : (s.modDie d f).l1 = s.l1 := rfl
@[simp] theorem State.modDie_recCache (s : State) (d : Nat) (f : DieRegs → DieRegs) : (s.modDie d f).recCache = s.recCache := rfl
@[simp] theorem State.modDie_olds (s : State) (d : Nat) (f : DieRegs → DieRegs) : (s.modDie d f).olds = s.olds := rfl
@[simp] theorem State.modDie_markCtr (s : State) (d : Nat) (f : DieRegs → DieRegs) : (s.modDie d f).markCtr = s.markCtr := rfl
@[simp] theorem State.modDie_releases (s : State) (d : Nat) (f : DieRegs → DieRegs) : (s.modDie d f).releases = s.releases := rfl
@[simp] theorem State.modDie_loaded (s : State) (d : Nat) (f : DieRegs → DieRegs) : (s.modDie d f).loaded = s.loaded := rfl
@[simp] theorem State.modDie_fences (s : State) (d : Nat) (f : DieRegs → DieRegs) : (s.modDie d f).fences = s.fences := rfl
@[simp] theorem State.modDie_nodeMarks (s : State) (d : Nat) (f : DieRegs → DieRegs) : (s.modDie d f).nodeMarks = s.nodeMarks := rfl
@[simp] theorem State.modDie_signals (s : State) (d : Nat) (f : DieRegs → DieRegs) : (s.modDie d f).signals = s.signals := rfl
@[simp] theorem State.modDie_staging (s : State) (d : Nat) (f : DieRegs → DieRegs) : (s.modDie d f).staging = s.staging := rfl
@[simp] theorem State.modDie_memErrs (s : State) (d : Nat) (f : DieRegs → DieRegs) : (s.modDie d f).memErrs = s.memErrs := rfl
@[simp] theorem State.modDie_listBytes (s : State) (d : Nat) (f : DieRegs → DieRegs) : (s.modDie d f).listBytes = s.listBytes := rfl
@[simp] theorem State.modDie_rounds (s : State) (d : Nat) (f : DieRegs → DieRegs) : (s.modDie d f).rounds = s.rounds := rfl
@[simp] theorem State.modDie_lcs (s : State) (d : Nat) (f : DieRegs → DieRegs) : (s.modDie d f).lcs = s.lcs := rfl
@[simp] theorem State.modDie_shadow (s : State) (d : Nat) (f : DieRegs → DieRegs) : (s.modDie d f).shadow = s.shadow := rfl
@[simp] theorem State.modDie_pageReqs (s : State) (d : Nat) (f : DieRegs → DieRegs) : (s.modDie d f).pageReqs = s.pageReqs := rfl
@[simp] theorem State.modDie_seqCtr (s : State) (d : Nat) (f : DieRegs → DieRegs) : (s.modDie d f).seqCtr = s.seqCtr := rfl
@[simp] theorem State.modDie_trails (s : State) (d : Nat) (f : DieRegs → DieRegs) : (s.modDie d f).trails = s.trails := rfl
@[simp] theorem State.modDie_tracks (s : State) (d : Nat) (f : DieRegs → DieRegs) : (s.modDie d f).tracks = s.tracks := rfl
@[simp] theorem State.modDie_groupMode (s : State) (d : Nat) (f : DieRegs → DieRegs) : (s.modDie d f).groupMode = s.groupMode := rfl
@[simp] theorem State.modDie_hashVer (s : State) (d : Nat) (f : DieRegs → DieRegs) : (s.modDie d f).hashVer = s.hashVer := rfl
@[simp] theorem State.modDie_masks (s : State) (d : Nat) (f : DieRegs → DieRegs) : (s.modDie d f).masks = s.masks := rfl
@[simp] theorem State.modDie_oldMasks (s : State) (d : Nat) (f : DieRegs → DieRegs) : (s.modDie d f).oldMasks = s.oldMasks := rfl
@[simp] theorem State.modDie_migrating (s : State) (d : Nat) (f : DieRegs → DieRegs) : (s.modDie d f).migrating = s.migrating := rfl
@[simp] theorem State.modDie_moved (s : State) (d : Nat) (f : DieRegs → DieRegs) : (s.modDie d f).moved = s.moved := rfl
@[simp] theorem State.modDie_openRows (s : State) (d : Nat) (f : DieRegs → DieRegs) : (s.modDie d f).openRows = s.openRows := rfl
@[simp] theorem State.modDie_bankCnt (s : State) (d : Nat) (f : DieRegs → DieRegs) : (s.modDie d f).bankCnt = s.bankCnt := rfl
@[simp] theorem State.modDie_rowCnt (s : State) (d : Nat) (f : DieRegs → DieRegs) : (s.modDie d f).rowCnt = s.rowCnt := rfl
@[simp] theorem State.modDie_conflicted (s : State) (d : Nat) (f : DieRegs → DieRegs) : (s.modDie d f).conflicted = s.conflicted := rfl
@[simp] theorem State.modDie_throttled (s : State) (d : Nat) (f : DieRegs → DieRegs) : (s.modDie d f).throttled = s.throttled := rfl
@[simp] theorem State.modDie_windowAt (s : State) (d : Nat) (f : DieRegs → DieRegs) : (s.modDie d f).windowAt = s.windowAt := rfl
@[simp] theorem State.modDie_errCnt (s : State) (d : Nat) (f : DieRegs → DieRegs) : (s.modDie d f).errCnt = s.errCnt := rfl
@[simp] theorem State.modDie_passes (s : State) (d : Nat) (f : DieRegs → DieRegs) : (s.modDie d f).passes = s.passes := rfl
@[simp] theorem State.modDie_mveReqs (s : State) (d : Nat) (f : DieRegs → DieRegs) : (s.modDie d f).mveReqs = s.mveReqs := rfl
@[simp] theorem State.modDie_seals (s : State) (d : Nat) (f : DieRegs → DieRegs) : (s.modDie d f).seals = s.seals := rfl
@[simp] theorem State.modDie_nodes (s : State) (d : Nat) (f : DieRegs → DieRegs) : (s.modDie d f).nodes = s.nodes := rfl
@[simp] theorem State.modDie_armed (s : State) (d : Nat) (f : DieRegs → DieRegs) : (s.modDie d f).armed = s.armed := rfl
@[simp] theorem State.modDie_dailyCnt (s : State) (d : Nat) (f : DieRegs → DieRegs) : (s.modDie d f).dailyCnt = s.dailyCnt := rfl
@[simp] theorem State.modDie_pkgId (s : State) (d : Nat) (f : DieRegs → DieRegs) : (s.modDie d f).pkgId = s.pkgId := rfl
@[simp] theorem State.modDie_standalone (s : State) (d : Nat) (f : DieRegs → DieRegs) : (s.modDie d f).standalone = s.standalone := rfl
@[simp] theorem State.modDie_portsDown (s : State) (d : Nat) (f : DieRegs → DieRegs) : (s.modDie d f).portsDown = s.portsDown := rfl
@[simp] theorem State.modDie_badPorts (s : State) (d : Nat) (f : DieRegs → DieRegs) : (s.modDie d f).badPorts = s.badPorts := rfl
@[simp] theorem State.modDie_linkCtr (s : State) (d : Nat) (f : DieRegs → DieRegs) : (s.modDie d f).linkCtr = s.linkCtr := rfl
@[simp] theorem State.modDie_cutOff (s : State) (d : Nat) (f : DieRegs → DieRegs) : (s.modDie d f).cutOff = s.cutOff := rfl
@[simp] theorem State.modDie_exports (s : State) (d : Nat) (f : DieRegs → DieRegs) : (s.modDie d f).exports = s.exports := rfl
@[simp] theorem State.modDie_keys (s : State) (d : Nat) (f : DieRegs → DieRegs) : (s.modDie d f).keys = s.keys := rfl
@[simp] theorem State.modDie_fwDigest (s : State) (d : Nat) (f : DieRegs → DieRegs) : (s.modDie d f).fwDigest = s.fwDigest := rfl
@[simp] theorem State.modDie_fwOk (s : State) (d : Nat) (f : DieRegs → DieRegs) : (s.modDie d f).fwOk = s.fwOk := rfl
@[simp] theorem State.modDie_staged (s : State) (d : Nat) (f : DieRegs → DieRegs) : (s.modDie d f).staged = s.staged := rfl
@[simp] theorem State.modDie_mailbox (s : State) (d : Nat) (f : DieRegs → DieRegs) : (s.modDie d f).mailbox = s.mailbox := rfl
@[simp] theorem State.modDie_mbWait (s : State) (d : Nat) (f : DieRegs → DieRegs) : (s.modDie d f).mbWait = s.mbWait := rfl
@[simp] theorem State.modDie_mbReady (s : State) (d : Nat) (f : DieRegs → DieRegs) : (s.modDie d f).mbReady = s.mbReady := rfl
@[simp] theorem State.modDie_powerLow (s : State) (d : Nat) (f : DieRegs → DieRegs) : (s.modDie d f).powerLow = s.powerLow := rfl
@[simp] theorem State.modDie_msix (s : State) (d : Nat) (f : DieRegs → DieRegs) : (s.modDie d f).msix = s.msix := rfl
@[simp] theorem State.modDie_hostReply (s : State) (d : Nat) (f : DieRegs → DieRegs) : (s.modDie d f).hostReply = s.hostReply := rfl
@[simp] theorem State.modDie_remoteReply (s : State) (d : Nat) (f : DieRegs → DieRegs) : (s.modDie d f).remoteReply = s.remoteReply := rfl

@[simp] theorem State.later_cur (s : State) (due : Nat) (w : RegWrite) : (s.later due w).cur = s.cur := rfl
@[simp] theorem State.later_agenda (s : State) (due : Nat) (w : RegWrite) : (s.later due w).agenda = s.agenda := rfl
@[simp] theorem State.later_clock (s : State) (due : Nat) (w : RegWrite) : (s.later due w).clock = s.clock := rfl
@[simp] theorem State.later_freeIx (s : State) (due : Nat) (w : RegWrite) : (s.later due w).freeIx = s.freeIx := rfl
@[simp] theorem State.later_power (s : State) (due : Nat) (w : RegWrite) : (s.later due w).power = s.power := rfl
@[simp] theorem State.later_threads (s : State) (due : Nat) (w : RegWrite) : (s.later due w).threads = s.threads := rfl
@[simp] theorem State.later_takes (s : State) (due : Nat) (w : RegWrite) : (s.later due w).takes = s.takes := rfl
@[simp] theorem State.later_reels (s : State) (due : Nat) (w : RegWrite) : (s.later due w).reels = s.reels := rfl
@[simp] theorem State.later_scenes (s : State) (due : Nat) (w : RegWrite) : (s.later due w).scenes = s.scenes := rfl
@[simp] theorem State.later_casts (s : State) (due : Nat) (w : RegWrite) : (s.later due w).casts = s.casts := rfl
@[simp] theorem State.later_ops (s : State) (due : Nat) (w : RegWrite) : (s.later due w).ops = s.ops := rfl
@[simp] theorem State.later_dies (s : State) (due : Nat) (w : RegWrite) : (s.later due w).dies = s.dies := rfl
@[simp] theorem State.later_ctxs (s : State) (due : Nat) (w : RegWrite) : (s.later due w).ctxs = s.ctxs := rfl
@[simp] theorem State.later_held (s : State) (due : Nat) (w : RegWrite) : (s.later due w).held = s.held := rfl
@[simp] theorem State.later_mem (s : State) (due : Nat) (w : RegWrite) : (s.later due w).mem = s.mem := rfl
@[simp] theorem State.later_lineTags (s : State) (due : Nat) (w : RegWrite) : (s.later due w).lineTags = s.lineTags := rfl
@[simp] theorem State.later_frameTags (s : State) (due : Nat) (w : RegWrite) : (s.later due w).frameTags = s.frameTags := rfl
@[simp] theorem State.later_l2 (s : State) (due : Nat) (w : RegWrite) : (s.later due w).l2 = s.l2 := rfl
@[simp] theorem State.later_bindings (s : State) (due : Nat) (w : RegWrite) : (s.later due w).bindings = s.bindings := rfl
@[simp] theorem State.later_tlb (s : State) (due : Nat) (w : RegWrite) : (s.later due w).tlb = s.tlb := rfl
@[simp] theorem State.later_codeRows (s : State) (due : Nat) (w : RegWrite) : (s.later due w).codeRows = s.codeRows := rfl
@[simp] theorem State.later_parts (s : State) (due : Nat) (w : RegWrite) : (s.later due w).parts = s.parts := rfl
@[simp] theorem State.later_uniB (s : State) (due : Nat) (w : RegWrite) : (s.later due w).uniB = s.uniB := rfl
@[simp] theorem State.later_wiped (s : State) (due : Nat) (w : RegWrite) : (s.later due w).wiped = s.wiped := rfl
@[simp] theorem State.later_scrubs (s : State) (due : Nat) (w : RegWrite) : (s.later due w).scrubs = s.scrubs := rfl
@[simp] theorem State.later_walks (s : State) (due : Nat) (w : RegWrite) : (s.later due w).walks = s.walks := rfl
@[simp] theorem State.later_l1 (s : State) (due : Nat) (w : RegWrite) : (s.later due w).l1 = s.l1 := rfl
@[simp] theorem State.later_recCache (s : State) (due : Nat) (w : RegWrite) : (s.later due w).recCache = s.recCache := rfl
@[simp] theorem State.later_olds (s : State) (due : Nat) (w : RegWrite) : (s.later due w).olds = s.olds := rfl
@[simp] theorem State.later_markCtr (s : State) (due : Nat) (w : RegWrite) : (s.later due w).markCtr = s.markCtr := rfl
@[simp] theorem State.later_releases (s : State) (due : Nat) (w : RegWrite) : (s.later due w).releases = s.releases := rfl
@[simp] theorem State.later_loaded (s : State) (due : Nat) (w : RegWrite) : (s.later due w).loaded = s.loaded := rfl
@[simp] theorem State.later_fences (s : State) (due : Nat) (w : RegWrite) : (s.later due w).fences = s.fences := rfl
@[simp] theorem State.later_nodeMarks (s : State) (due : Nat) (w : RegWrite) : (s.later due w).nodeMarks = s.nodeMarks := rfl
@[simp] theorem State.later_signals (s : State) (due : Nat) (w : RegWrite) : (s.later due w).signals = s.signals := rfl
@[simp] theorem State.later_staging (s : State) (due : Nat) (w : RegWrite) : (s.later due w).staging = s.staging := rfl
@[simp] theorem State.later_memErrs (s : State) (due : Nat) (w : RegWrite) : (s.later due w).memErrs = s.memErrs := rfl
@[simp] theorem State.later_listBytes (s : State) (due : Nat) (w : RegWrite) : (s.later due w).listBytes = s.listBytes := rfl
@[simp] theorem State.later_rounds (s : State) (due : Nat) (w : RegWrite) : (s.later due w).rounds = s.rounds := rfl
@[simp] theorem State.later_lcs (s : State) (due : Nat) (w : RegWrite) : (s.later due w).lcs = s.lcs := rfl
@[simp] theorem State.later_shadow (s : State) (due : Nat) (w : RegWrite) : (s.later due w).shadow = s.shadow := rfl
@[simp] theorem State.later_pageReqs (s : State) (due : Nat) (w : RegWrite) : (s.later due w).pageReqs = s.pageReqs := rfl
@[simp] theorem State.later_seqCtr (s : State) (due : Nat) (w : RegWrite) : (s.later due w).seqCtr = s.seqCtr := rfl
@[simp] theorem State.later_trails (s : State) (due : Nat) (w : RegWrite) : (s.later due w).trails = s.trails := rfl
@[simp] theorem State.later_tracks (s : State) (due : Nat) (w : RegWrite) : (s.later due w).tracks = s.tracks := rfl
@[simp] theorem State.later_groupMode (s : State) (due : Nat) (w : RegWrite) : (s.later due w).groupMode = s.groupMode := rfl
@[simp] theorem State.later_hashVer (s : State) (due : Nat) (w : RegWrite) : (s.later due w).hashVer = s.hashVer := rfl
@[simp] theorem State.later_masks (s : State) (due : Nat) (w : RegWrite) : (s.later due w).masks = s.masks := rfl
@[simp] theorem State.later_oldMasks (s : State) (due : Nat) (w : RegWrite) : (s.later due w).oldMasks = s.oldMasks := rfl
@[simp] theorem State.later_migrating (s : State) (due : Nat) (w : RegWrite) : (s.later due w).migrating = s.migrating := rfl
@[simp] theorem State.later_moved (s : State) (due : Nat) (w : RegWrite) : (s.later due w).moved = s.moved := rfl
@[simp] theorem State.later_openRows (s : State) (due : Nat) (w : RegWrite) : (s.later due w).openRows = s.openRows := rfl
@[simp] theorem State.later_bankCnt (s : State) (due : Nat) (w : RegWrite) : (s.later due w).bankCnt = s.bankCnt := rfl
@[simp] theorem State.later_rowCnt (s : State) (due : Nat) (w : RegWrite) : (s.later due w).rowCnt = s.rowCnt := rfl
@[simp] theorem State.later_conflicted (s : State) (due : Nat) (w : RegWrite) : (s.later due w).conflicted = s.conflicted := rfl
@[simp] theorem State.later_throttled (s : State) (due : Nat) (w : RegWrite) : (s.later due w).throttled = s.throttled := rfl
@[simp] theorem State.later_windowAt (s : State) (due : Nat) (w : RegWrite) : (s.later due w).windowAt = s.windowAt := rfl
@[simp] theorem State.later_errCnt (s : State) (due : Nat) (w : RegWrite) : (s.later due w).errCnt = s.errCnt := rfl
@[simp] theorem State.later_passes (s : State) (due : Nat) (w : RegWrite) : (s.later due w).passes = s.passes := rfl
@[simp] theorem State.later_mveReqs (s : State) (due : Nat) (w : RegWrite) : (s.later due w).mveReqs = s.mveReqs := rfl
@[simp] theorem State.later_seals (s : State) (due : Nat) (w : RegWrite) : (s.later due w).seals = s.seals := rfl
@[simp] theorem State.later_nodes (s : State) (due : Nat) (w : RegWrite) : (s.later due w).nodes = s.nodes := rfl
@[simp] theorem State.later_armed (s : State) (due : Nat) (w : RegWrite) : (s.later due w).armed = s.armed := rfl
@[simp] theorem State.later_dailyCnt (s : State) (due : Nat) (w : RegWrite) : (s.later due w).dailyCnt = s.dailyCnt := rfl
@[simp] theorem State.later_pkgId (s : State) (due : Nat) (w : RegWrite) : (s.later due w).pkgId = s.pkgId := rfl
@[simp] theorem State.later_standalone (s : State) (due : Nat) (w : RegWrite) : (s.later due w).standalone = s.standalone := rfl
@[simp] theorem State.later_portsDown (s : State) (due : Nat) (w : RegWrite) : (s.later due w).portsDown = s.portsDown := rfl
@[simp] theorem State.later_badPorts (s : State) (due : Nat) (w : RegWrite) : (s.later due w).badPorts = s.badPorts := rfl
@[simp] theorem State.later_linkCtr (s : State) (due : Nat) (w : RegWrite) : (s.later due w).linkCtr = s.linkCtr := rfl
@[simp] theorem State.later_cutOff (s : State) (due : Nat) (w : RegWrite) : (s.later due w).cutOff = s.cutOff := rfl
@[simp] theorem State.later_exports (s : State) (due : Nat) (w : RegWrite) : (s.later due w).exports = s.exports := rfl
@[simp] theorem State.later_keys (s : State) (due : Nat) (w : RegWrite) : (s.later due w).keys = s.keys := rfl
@[simp] theorem State.later_fwDigest (s : State) (due : Nat) (w : RegWrite) : (s.later due w).fwDigest = s.fwDigest := rfl
@[simp] theorem State.later_fwOk (s : State) (due : Nat) (w : RegWrite) : (s.later due w).fwOk = s.fwOk := rfl
@[simp] theorem State.later_staged (s : State) (due : Nat) (w : RegWrite) : (s.later due w).staged = s.staged := rfl
@[simp] theorem State.later_mailbox (s : State) (due : Nat) (w : RegWrite) : (s.later due w).mailbox = s.mailbox := rfl
@[simp] theorem State.later_mbWait (s : State) (due : Nat) (w : RegWrite) : (s.later due w).mbWait = s.mbWait := rfl
@[simp] theorem State.later_mbReady (s : State) (due : Nat) (w : RegWrite) : (s.later due w).mbReady = s.mbReady := rfl
@[simp] theorem State.later_powerLow (s : State) (due : Nat) (w : RegWrite) : (s.later due w).powerLow = s.powerLow := rfl
@[simp] theorem State.later_msix (s : State) (due : Nat) (w : RegWrite) : (s.later due w).msix = s.msix := rfl
@[simp] theorem State.later_hostReply (s : State) (due : Nat) (w : RegWrite) : (s.later due w).hostReply = s.hostReply := rfl
@[simp] theorem State.later_remoteReply (s : State) (due : Nat) (w : RegWrite) : (s.later due w).remoteReply = s.remoteReply := rfl

@[simp] theorem State.setFrameTag_cur (s : State) (frame tag : Nat) : (s.setFrameTag frame tag).cur = s.cur := rfl
@[simp] theorem State.setFrameTag_agenda (s : State) (frame tag : Nat) : (s.setFrameTag frame tag).agenda = s.agenda := rfl
@[simp] theorem State.setFrameTag_clock (s : State) (frame tag : Nat) : (s.setFrameTag frame tag).clock = s.clock := rfl
@[simp] theorem State.setFrameTag_freeIx (s : State) (frame tag : Nat) : (s.setFrameTag frame tag).freeIx = s.freeIx := rfl
@[simp] theorem State.setFrameTag_power (s : State) (frame tag : Nat) : (s.setFrameTag frame tag).power = s.power := rfl
@[simp] theorem State.setFrameTag_threads (s : State) (frame tag : Nat) : (s.setFrameTag frame tag).threads = s.threads := rfl
@[simp] theorem State.setFrameTag_takes (s : State) (frame tag : Nat) : (s.setFrameTag frame tag).takes = s.takes := rfl
@[simp] theorem State.setFrameTag_reels (s : State) (frame tag : Nat) : (s.setFrameTag frame tag).reels = s.reels := rfl
@[simp] theorem State.setFrameTag_scenes (s : State) (frame tag : Nat) : (s.setFrameTag frame tag).scenes = s.scenes := rfl
@[simp] theorem State.setFrameTag_casts (s : State) (frame tag : Nat) : (s.setFrameTag frame tag).casts = s.casts := rfl
@[simp] theorem State.setFrameTag_pend (s : State) (frame tag : Nat) : (s.setFrameTag frame tag).pend = s.pend := rfl
@[simp] theorem State.setFrameTag_ops (s : State) (frame tag : Nat) : (s.setFrameTag frame tag).ops = s.ops := rfl
@[simp] theorem State.setFrameTag_dies (s : State) (frame tag : Nat) : (s.setFrameTag frame tag).dies = s.dies := rfl
@[simp] theorem State.setFrameTag_ctxs (s : State) (frame tag : Nat) : (s.setFrameTag frame tag).ctxs = s.ctxs := rfl
@[simp] theorem State.setFrameTag_held (s : State) (frame tag : Nat) : (s.setFrameTag frame tag).held = s.held := rfl
@[simp] theorem State.setFrameTag_mem (s : State) (frame tag : Nat) : (s.setFrameTag frame tag).mem = s.mem := rfl
@[simp] theorem State.setFrameTag_lineTags (s : State) (frame tag : Nat) : (s.setFrameTag frame tag).lineTags = s.lineTags := rfl
@[simp] theorem State.setFrameTag_l2 (s : State) (frame tag : Nat) : (s.setFrameTag frame tag).l2 = s.l2 := rfl
@[simp] theorem State.setFrameTag_bindings (s : State) (frame tag : Nat) : (s.setFrameTag frame tag).bindings = s.bindings := rfl
@[simp] theorem State.setFrameTag_tlb (s : State) (frame tag : Nat) : (s.setFrameTag frame tag).tlb = s.tlb := rfl
@[simp] theorem State.setFrameTag_codeRows (s : State) (frame tag : Nat) : (s.setFrameTag frame tag).codeRows = s.codeRows := rfl
@[simp] theorem State.setFrameTag_parts (s : State) (frame tag : Nat) : (s.setFrameTag frame tag).parts = s.parts := rfl
@[simp] theorem State.setFrameTag_uniB (s : State) (frame tag : Nat) : (s.setFrameTag frame tag).uniB = s.uniB := rfl
@[simp] theorem State.setFrameTag_wiped (s : State) (frame tag : Nat) : (s.setFrameTag frame tag).wiped = s.wiped := rfl
@[simp] theorem State.setFrameTag_scrubs (s : State) (frame tag : Nat) : (s.setFrameTag frame tag).scrubs = s.scrubs := rfl
@[simp] theorem State.setFrameTag_walks (s : State) (frame tag : Nat) : (s.setFrameTag frame tag).walks = s.walks := rfl
@[simp] theorem State.setFrameTag_l1 (s : State) (frame tag : Nat) : (s.setFrameTag frame tag).l1 = s.l1 := rfl
@[simp] theorem State.setFrameTag_recCache (s : State) (frame tag : Nat) : (s.setFrameTag frame tag).recCache = s.recCache := rfl
@[simp] theorem State.setFrameTag_olds (s : State) (frame tag : Nat) : (s.setFrameTag frame tag).olds = s.olds := rfl
@[simp] theorem State.setFrameTag_markCtr (s : State) (frame tag : Nat) : (s.setFrameTag frame tag).markCtr = s.markCtr := rfl
@[simp] theorem State.setFrameTag_releases (s : State) (frame tag : Nat) : (s.setFrameTag frame tag).releases = s.releases := rfl
@[simp] theorem State.setFrameTag_loaded (s : State) (frame tag : Nat) : (s.setFrameTag frame tag).loaded = s.loaded := rfl
@[simp] theorem State.setFrameTag_fences (s : State) (frame tag : Nat) : (s.setFrameTag frame tag).fences = s.fences := rfl
@[simp] theorem State.setFrameTag_nodeMarks (s : State) (frame tag : Nat) : (s.setFrameTag frame tag).nodeMarks = s.nodeMarks := rfl
@[simp] theorem State.setFrameTag_signals (s : State) (frame tag : Nat) : (s.setFrameTag frame tag).signals = s.signals := rfl
@[simp] theorem State.setFrameTag_staging (s : State) (frame tag : Nat) : (s.setFrameTag frame tag).staging = s.staging := rfl
@[simp] theorem State.setFrameTag_memErrs (s : State) (frame tag : Nat) : (s.setFrameTag frame tag).memErrs = s.memErrs := rfl
@[simp] theorem State.setFrameTag_listBytes (s : State) (frame tag : Nat) : (s.setFrameTag frame tag).listBytes = s.listBytes := rfl
@[simp] theorem State.setFrameTag_rounds (s : State) (frame tag : Nat) : (s.setFrameTag frame tag).rounds = s.rounds := rfl
@[simp] theorem State.setFrameTag_lcs (s : State) (frame tag : Nat) : (s.setFrameTag frame tag).lcs = s.lcs := rfl
@[simp] theorem State.setFrameTag_shadow (s : State) (frame tag : Nat) : (s.setFrameTag frame tag).shadow = s.shadow := rfl
@[simp] theorem State.setFrameTag_pageReqs (s : State) (frame tag : Nat) : (s.setFrameTag frame tag).pageReqs = s.pageReqs := rfl
@[simp] theorem State.setFrameTag_seqCtr (s : State) (frame tag : Nat) : (s.setFrameTag frame tag).seqCtr = s.seqCtr := rfl
@[simp] theorem State.setFrameTag_trails (s : State) (frame tag : Nat) : (s.setFrameTag frame tag).trails = s.trails := rfl
@[simp] theorem State.setFrameTag_tracks (s : State) (frame tag : Nat) : (s.setFrameTag frame tag).tracks = s.tracks := rfl
@[simp] theorem State.setFrameTag_groupMode (s : State) (frame tag : Nat) : (s.setFrameTag frame tag).groupMode = s.groupMode := rfl
@[simp] theorem State.setFrameTag_hashVer (s : State) (frame tag : Nat) : (s.setFrameTag frame tag).hashVer = s.hashVer := rfl
@[simp] theorem State.setFrameTag_masks (s : State) (frame tag : Nat) : (s.setFrameTag frame tag).masks = s.masks := rfl
@[simp] theorem State.setFrameTag_oldMasks (s : State) (frame tag : Nat) : (s.setFrameTag frame tag).oldMasks = s.oldMasks := rfl
@[simp] theorem State.setFrameTag_migrating (s : State) (frame tag : Nat) : (s.setFrameTag frame tag).migrating = s.migrating := rfl
@[simp] theorem State.setFrameTag_moved (s : State) (frame tag : Nat) : (s.setFrameTag frame tag).moved = s.moved := rfl
@[simp] theorem State.setFrameTag_openRows (s : State) (frame tag : Nat) : (s.setFrameTag frame tag).openRows = s.openRows := rfl
@[simp] theorem State.setFrameTag_bankCnt (s : State) (frame tag : Nat) : (s.setFrameTag frame tag).bankCnt = s.bankCnt := rfl
@[simp] theorem State.setFrameTag_rowCnt (s : State) (frame tag : Nat) : (s.setFrameTag frame tag).rowCnt = s.rowCnt := rfl
@[simp] theorem State.setFrameTag_conflicted (s : State) (frame tag : Nat) : (s.setFrameTag frame tag).conflicted = s.conflicted := rfl
@[simp] theorem State.setFrameTag_throttled (s : State) (frame tag : Nat) : (s.setFrameTag frame tag).throttled = s.throttled := rfl
@[simp] theorem State.setFrameTag_windowAt (s : State) (frame tag : Nat) : (s.setFrameTag frame tag).windowAt = s.windowAt := rfl
@[simp] theorem State.setFrameTag_errCnt (s : State) (frame tag : Nat) : (s.setFrameTag frame tag).errCnt = s.errCnt := rfl
@[simp] theorem State.setFrameTag_passes (s : State) (frame tag : Nat) : (s.setFrameTag frame tag).passes = s.passes := rfl
@[simp] theorem State.setFrameTag_mveReqs (s : State) (frame tag : Nat) : (s.setFrameTag frame tag).mveReqs = s.mveReqs := rfl
@[simp] theorem State.setFrameTag_seals (s : State) (frame tag : Nat) : (s.setFrameTag frame tag).seals = s.seals := rfl
@[simp] theorem State.setFrameTag_nodes (s : State) (frame tag : Nat) : (s.setFrameTag frame tag).nodes = s.nodes := rfl
@[simp] theorem State.setFrameTag_armed (s : State) (frame tag : Nat) : (s.setFrameTag frame tag).armed = s.armed := rfl
@[simp] theorem State.setFrameTag_dailyCnt (s : State) (frame tag : Nat) : (s.setFrameTag frame tag).dailyCnt = s.dailyCnt := rfl
@[simp] theorem State.setFrameTag_pkgId (s : State) (frame tag : Nat) : (s.setFrameTag frame tag).pkgId = s.pkgId := rfl
@[simp] theorem State.setFrameTag_standalone (s : State) (frame tag : Nat) : (s.setFrameTag frame tag).standalone = s.standalone := rfl
@[simp] theorem State.setFrameTag_portsDown (s : State) (frame tag : Nat) : (s.setFrameTag frame tag).portsDown = s.portsDown := rfl
@[simp] theorem State.setFrameTag_badPorts (s : State) (frame tag : Nat) : (s.setFrameTag frame tag).badPorts = s.badPorts := rfl
@[simp] theorem State.setFrameTag_linkCtr (s : State) (frame tag : Nat) : (s.setFrameTag frame tag).linkCtr = s.linkCtr := rfl
@[simp] theorem State.setFrameTag_cutOff (s : State) (frame tag : Nat) : (s.setFrameTag frame tag).cutOff = s.cutOff := rfl
@[simp] theorem State.setFrameTag_exports (s : State) (frame tag : Nat) : (s.setFrameTag frame tag).exports = s.exports := rfl
@[simp] theorem State.setFrameTag_keys (s : State) (frame tag : Nat) : (s.setFrameTag frame tag).keys = s.keys := rfl
@[simp] theorem State.setFrameTag_fwDigest (s : State) (frame tag : Nat) : (s.setFrameTag frame tag).fwDigest = s.fwDigest := rfl
@[simp] theorem State.setFrameTag_fwOk (s : State) (frame tag : Nat) : (s.setFrameTag frame tag).fwOk = s.fwOk := rfl
@[simp] theorem State.setFrameTag_staged (s : State) (frame tag : Nat) : (s.setFrameTag frame tag).staged = s.staged := rfl
@[simp] theorem State.setFrameTag_mailbox (s : State) (frame tag : Nat) : (s.setFrameTag frame tag).mailbox = s.mailbox := rfl
@[simp] theorem State.setFrameTag_mbWait (s : State) (frame tag : Nat) : (s.setFrameTag frame tag).mbWait = s.mbWait := rfl
@[simp] theorem State.setFrameTag_mbReady (s : State) (frame tag : Nat) : (s.setFrameTag frame tag).mbReady = s.mbReady := rfl
@[simp] theorem State.setFrameTag_powerLow (s : State) (frame tag : Nat) : (s.setFrameTag frame tag).powerLow = s.powerLow := rfl
@[simp] theorem State.setFrameTag_msix (s : State) (frame tag : Nat) : (s.setFrameTag frame tag).msix = s.msix := rfl
@[simp] theorem State.setFrameTag_hostReply (s : State) (frame tag : Nat) : (s.setFrameTag frame tag).hostReply = s.hostReply := rfl
@[simp] theorem State.setFrameTag_remoteReply (s : State) (frame tag : Nat) : (s.setFrameTag frame tag).remoteReply = s.remoteReply := rfl

@[simp] theorem State.setLineBit_cur (s : State) (line i : Nat) (b : Bool) : (s.setLineBit line i b).cur = s.cur := rfl
@[simp] theorem State.setLineBit_agenda (s : State) (line i : Nat) (b : Bool) : (s.setLineBit line i b).agenda = s.agenda := rfl
@[simp] theorem State.setLineBit_clock (s : State) (line i : Nat) (b : Bool) : (s.setLineBit line i b).clock = s.clock := rfl
@[simp] theorem State.setLineBit_freeIx (s : State) (line i : Nat) (b : Bool) : (s.setLineBit line i b).freeIx = s.freeIx := rfl
@[simp] theorem State.setLineBit_power (s : State) (line i : Nat) (b : Bool) : (s.setLineBit line i b).power = s.power := rfl
@[simp] theorem State.setLineBit_threads (s : State) (line i : Nat) (b : Bool) : (s.setLineBit line i b).threads = s.threads := rfl
@[simp] theorem State.setLineBit_takes (s : State) (line i : Nat) (b : Bool) : (s.setLineBit line i b).takes = s.takes := rfl
@[simp] theorem State.setLineBit_reels (s : State) (line i : Nat) (b : Bool) : (s.setLineBit line i b).reels = s.reels := rfl
@[simp] theorem State.setLineBit_scenes (s : State) (line i : Nat) (b : Bool) : (s.setLineBit line i b).scenes = s.scenes := rfl
@[simp] theorem State.setLineBit_casts (s : State) (line i : Nat) (b : Bool) : (s.setLineBit line i b).casts = s.casts := rfl
@[simp] theorem State.setLineBit_pend (s : State) (line i : Nat) (b : Bool) : (s.setLineBit line i b).pend = s.pend := rfl
@[simp] theorem State.setLineBit_ops (s : State) (line i : Nat) (b : Bool) : (s.setLineBit line i b).ops = s.ops := rfl
@[simp] theorem State.setLineBit_dies (s : State) (line i : Nat) (b : Bool) : (s.setLineBit line i b).dies = s.dies := rfl
@[simp] theorem State.setLineBit_ctxs (s : State) (line i : Nat) (b : Bool) : (s.setLineBit line i b).ctxs = s.ctxs := rfl
@[simp] theorem State.setLineBit_held (s : State) (line i : Nat) (b : Bool) : (s.setLineBit line i b).held = s.held := rfl
@[simp] theorem State.setLineBit_mem (s : State) (line i : Nat) (b : Bool) : (s.setLineBit line i b).mem = s.mem := rfl
@[simp] theorem State.setLineBit_frameTags (s : State) (line i : Nat) (b : Bool) : (s.setLineBit line i b).frameTags = s.frameTags := rfl
@[simp] theorem State.setLineBit_l2 (s : State) (line i : Nat) (b : Bool) : (s.setLineBit line i b).l2 = s.l2 := rfl
@[simp] theorem State.setLineBit_bindings (s : State) (line i : Nat) (b : Bool) : (s.setLineBit line i b).bindings = s.bindings := rfl
@[simp] theorem State.setLineBit_tlb (s : State) (line i : Nat) (b : Bool) : (s.setLineBit line i b).tlb = s.tlb := rfl
@[simp] theorem State.setLineBit_codeRows (s : State) (line i : Nat) (b : Bool) : (s.setLineBit line i b).codeRows = s.codeRows := rfl
@[simp] theorem State.setLineBit_parts (s : State) (line i : Nat) (b : Bool) : (s.setLineBit line i b).parts = s.parts := rfl
@[simp] theorem State.setLineBit_uniB (s : State) (line i : Nat) (b : Bool) : (s.setLineBit line i b).uniB = s.uniB := rfl
@[simp] theorem State.setLineBit_wiped (s : State) (line i : Nat) (b : Bool) : (s.setLineBit line i b).wiped = s.wiped := rfl
@[simp] theorem State.setLineBit_scrubs (s : State) (line i : Nat) (b : Bool) : (s.setLineBit line i b).scrubs = s.scrubs := rfl
@[simp] theorem State.setLineBit_walks (s : State) (line i : Nat) (b : Bool) : (s.setLineBit line i b).walks = s.walks := rfl
@[simp] theorem State.setLineBit_l1 (s : State) (line i : Nat) (b : Bool) : (s.setLineBit line i b).l1 = s.l1 := rfl
@[simp] theorem State.setLineBit_recCache (s : State) (line i : Nat) (b : Bool) : (s.setLineBit line i b).recCache = s.recCache := rfl
@[simp] theorem State.setLineBit_olds (s : State) (line i : Nat) (b : Bool) : (s.setLineBit line i b).olds = s.olds := rfl
@[simp] theorem State.setLineBit_markCtr (s : State) (line i : Nat) (b : Bool) : (s.setLineBit line i b).markCtr = s.markCtr := rfl
@[simp] theorem State.setLineBit_releases (s : State) (line i : Nat) (b : Bool) : (s.setLineBit line i b).releases = s.releases := rfl
@[simp] theorem State.setLineBit_loaded (s : State) (line i : Nat) (b : Bool) : (s.setLineBit line i b).loaded = s.loaded := rfl
@[simp] theorem State.setLineBit_fences (s : State) (line i : Nat) (b : Bool) : (s.setLineBit line i b).fences = s.fences := rfl
@[simp] theorem State.setLineBit_nodeMarks (s : State) (line i : Nat) (b : Bool) : (s.setLineBit line i b).nodeMarks = s.nodeMarks := rfl
@[simp] theorem State.setLineBit_signals (s : State) (line i : Nat) (b : Bool) : (s.setLineBit line i b).signals = s.signals := rfl
@[simp] theorem State.setLineBit_staging (s : State) (line i : Nat) (b : Bool) : (s.setLineBit line i b).staging = s.staging := rfl
@[simp] theorem State.setLineBit_memErrs (s : State) (line i : Nat) (b : Bool) : (s.setLineBit line i b).memErrs = s.memErrs := rfl
@[simp] theorem State.setLineBit_listBytes (s : State) (line i : Nat) (b : Bool) : (s.setLineBit line i b).listBytes = s.listBytes := rfl
@[simp] theorem State.setLineBit_rounds (s : State) (line i : Nat) (b : Bool) : (s.setLineBit line i b).rounds = s.rounds := rfl
@[simp] theorem State.setLineBit_lcs (s : State) (line i : Nat) (b : Bool) : (s.setLineBit line i b).lcs = s.lcs := rfl
@[simp] theorem State.setLineBit_shadow (s : State) (line i : Nat) (b : Bool) : (s.setLineBit line i b).shadow = s.shadow := rfl
@[simp] theorem State.setLineBit_pageReqs (s : State) (line i : Nat) (b : Bool) : (s.setLineBit line i b).pageReqs = s.pageReqs := rfl
@[simp] theorem State.setLineBit_seqCtr (s : State) (line i : Nat) (b : Bool) : (s.setLineBit line i b).seqCtr = s.seqCtr := rfl
@[simp] theorem State.setLineBit_trails (s : State) (line i : Nat) (b : Bool) : (s.setLineBit line i b).trails = s.trails := rfl
@[simp] theorem State.setLineBit_tracks (s : State) (line i : Nat) (b : Bool) : (s.setLineBit line i b).tracks = s.tracks := rfl
@[simp] theorem State.setLineBit_groupMode (s : State) (line i : Nat) (b : Bool) : (s.setLineBit line i b).groupMode = s.groupMode := rfl
@[simp] theorem State.setLineBit_hashVer (s : State) (line i : Nat) (b : Bool) : (s.setLineBit line i b).hashVer = s.hashVer := rfl
@[simp] theorem State.setLineBit_masks (s : State) (line i : Nat) (b : Bool) : (s.setLineBit line i b).masks = s.masks := rfl
@[simp] theorem State.setLineBit_oldMasks (s : State) (line i : Nat) (b : Bool) : (s.setLineBit line i b).oldMasks = s.oldMasks := rfl
@[simp] theorem State.setLineBit_migrating (s : State) (line i : Nat) (b : Bool) : (s.setLineBit line i b).migrating = s.migrating := rfl
@[simp] theorem State.setLineBit_moved (s : State) (line i : Nat) (b : Bool) : (s.setLineBit line i b).moved = s.moved := rfl
@[simp] theorem State.setLineBit_openRows (s : State) (line i : Nat) (b : Bool) : (s.setLineBit line i b).openRows = s.openRows := rfl
@[simp] theorem State.setLineBit_bankCnt (s : State) (line i : Nat) (b : Bool) : (s.setLineBit line i b).bankCnt = s.bankCnt := rfl
@[simp] theorem State.setLineBit_rowCnt (s : State) (line i : Nat) (b : Bool) : (s.setLineBit line i b).rowCnt = s.rowCnt := rfl
@[simp] theorem State.setLineBit_conflicted (s : State) (line i : Nat) (b : Bool) : (s.setLineBit line i b).conflicted = s.conflicted := rfl
@[simp] theorem State.setLineBit_throttled (s : State) (line i : Nat) (b : Bool) : (s.setLineBit line i b).throttled = s.throttled := rfl
@[simp] theorem State.setLineBit_windowAt (s : State) (line i : Nat) (b : Bool) : (s.setLineBit line i b).windowAt = s.windowAt := rfl
@[simp] theorem State.setLineBit_errCnt (s : State) (line i : Nat) (b : Bool) : (s.setLineBit line i b).errCnt = s.errCnt := rfl
@[simp] theorem State.setLineBit_passes (s : State) (line i : Nat) (b : Bool) : (s.setLineBit line i b).passes = s.passes := rfl
@[simp] theorem State.setLineBit_mveReqs (s : State) (line i : Nat) (b : Bool) : (s.setLineBit line i b).mveReqs = s.mveReqs := rfl
@[simp] theorem State.setLineBit_seals (s : State) (line i : Nat) (b : Bool) : (s.setLineBit line i b).seals = s.seals := rfl
@[simp] theorem State.setLineBit_nodes (s : State) (line i : Nat) (b : Bool) : (s.setLineBit line i b).nodes = s.nodes := rfl
@[simp] theorem State.setLineBit_armed (s : State) (line i : Nat) (b : Bool) : (s.setLineBit line i b).armed = s.armed := rfl
@[simp] theorem State.setLineBit_dailyCnt (s : State) (line i : Nat) (b : Bool) : (s.setLineBit line i b).dailyCnt = s.dailyCnt := rfl
@[simp] theorem State.setLineBit_pkgId (s : State) (line i : Nat) (b : Bool) : (s.setLineBit line i b).pkgId = s.pkgId := rfl
@[simp] theorem State.setLineBit_standalone (s : State) (line i : Nat) (b : Bool) : (s.setLineBit line i b).standalone = s.standalone := rfl
@[simp] theorem State.setLineBit_portsDown (s : State) (line i : Nat) (b : Bool) : (s.setLineBit line i b).portsDown = s.portsDown := rfl
@[simp] theorem State.setLineBit_badPorts (s : State) (line i : Nat) (b : Bool) : (s.setLineBit line i b).badPorts = s.badPorts := rfl
@[simp] theorem State.setLineBit_linkCtr (s : State) (line i : Nat) (b : Bool) : (s.setLineBit line i b).linkCtr = s.linkCtr := rfl
@[simp] theorem State.setLineBit_cutOff (s : State) (line i : Nat) (b : Bool) : (s.setLineBit line i b).cutOff = s.cutOff := rfl
@[simp] theorem State.setLineBit_exports (s : State) (line i : Nat) (b : Bool) : (s.setLineBit line i b).exports = s.exports := rfl
@[simp] theorem State.setLineBit_keys (s : State) (line i : Nat) (b : Bool) : (s.setLineBit line i b).keys = s.keys := rfl
@[simp] theorem State.setLineBit_fwDigest (s : State) (line i : Nat) (b : Bool) : (s.setLineBit line i b).fwDigest = s.fwDigest := rfl
@[simp] theorem State.setLineBit_fwOk (s : State) (line i : Nat) (b : Bool) : (s.setLineBit line i b).fwOk = s.fwOk := rfl
@[simp] theorem State.setLineBit_staged (s : State) (line i : Nat) (b : Bool) : (s.setLineBit line i b).staged = s.staged := rfl
@[simp] theorem State.setLineBit_mailbox (s : State) (line i : Nat) (b : Bool) : (s.setLineBit line i b).mailbox = s.mailbox := rfl
@[simp] theorem State.setLineBit_mbWait (s : State) (line i : Nat) (b : Bool) : (s.setLineBit line i b).mbWait = s.mbWait := rfl
@[simp] theorem State.setLineBit_mbReady (s : State) (line i : Nat) (b : Bool) : (s.setLineBit line i b).mbReady = s.mbReady := rfl
@[simp] theorem State.setLineBit_powerLow (s : State) (line i : Nat) (b : Bool) : (s.setLineBit line i b).powerLow = s.powerLow := rfl
@[simp] theorem State.setLineBit_msix (s : State) (line i : Nat) (b : Bool) : (s.setLineBit line i b).msix = s.msix := rfl
@[simp] theorem State.setLineBit_hostReply (s : State) (line i : Nat) (b : Bool) : (s.setLineBit line i b).hostReply = s.hostReply := rfl
@[simp] theorem State.setLineBit_remoteReply (s : State) (line i : Nat) (b : Bool) : (s.setLineBit line i b).remoteReply = s.remoteReply := rfl

@[simp] theorem State.setCtx_cur (s : State) (c : Nat) (x : Ctx) : (s.setCtx c x).cur = s.cur := rfl
@[simp] theorem State.setCtx_agenda (s : State) (c : Nat) (x : Ctx) : (s.setCtx c x).agenda = s.agenda := rfl
@[simp] theorem State.setCtx_clock (s : State) (c : Nat) (x : Ctx) : (s.setCtx c x).clock = s.clock := rfl
@[simp] theorem State.setCtx_freeIx (s : State) (c : Nat) (x : Ctx) : (s.setCtx c x).freeIx = s.freeIx := rfl
@[simp] theorem State.setCtx_power (s : State) (c : Nat) (x : Ctx) : (s.setCtx c x).power = s.power := rfl
@[simp] theorem State.setCtx_threads (s : State) (c : Nat) (x : Ctx) : (s.setCtx c x).threads = s.threads := rfl
@[simp] theorem State.setCtx_takes (s : State) (c : Nat) (x : Ctx) : (s.setCtx c x).takes = s.takes := rfl
@[simp] theorem State.setCtx_reels (s : State) (c : Nat) (x : Ctx) : (s.setCtx c x).reels = s.reels := rfl
@[simp] theorem State.setCtx_scenes (s : State) (c : Nat) (x : Ctx) : (s.setCtx c x).scenes = s.scenes := rfl
@[simp] theorem State.setCtx_casts (s : State) (c : Nat) (x : Ctx) : (s.setCtx c x).casts = s.casts := rfl
@[simp] theorem State.setCtx_pend (s : State) (c : Nat) (x : Ctx) : (s.setCtx c x).pend = s.pend := rfl
@[simp] theorem State.setCtx_ops (s : State) (c : Nat) (x : Ctx) : (s.setCtx c x).ops = s.ops := rfl
@[simp] theorem State.setCtx_dies (s : State) (c : Nat) (x : Ctx) : (s.setCtx c x).dies = s.dies := rfl
@[simp] theorem State.setCtx_held (s : State) (c : Nat) (x : Ctx) : (s.setCtx c x).held = s.held := rfl
@[simp] theorem State.setCtx_mem (s : State) (c : Nat) (x : Ctx) : (s.setCtx c x).mem = s.mem := rfl
@[simp] theorem State.setCtx_lineTags (s : State) (c : Nat) (x : Ctx) : (s.setCtx c x).lineTags = s.lineTags := rfl
@[simp] theorem State.setCtx_frameTags (s : State) (c : Nat) (x : Ctx) : (s.setCtx c x).frameTags = s.frameTags := rfl
@[simp] theorem State.setCtx_l2 (s : State) (c : Nat) (x : Ctx) : (s.setCtx c x).l2 = s.l2 := rfl
@[simp] theorem State.setCtx_bindings (s : State) (c : Nat) (x : Ctx) : (s.setCtx c x).bindings = s.bindings := rfl
@[simp] theorem State.setCtx_tlb (s : State) (c : Nat) (x : Ctx) : (s.setCtx c x).tlb = s.tlb := rfl
@[simp] theorem State.setCtx_codeRows (s : State) (c : Nat) (x : Ctx) : (s.setCtx c x).codeRows = s.codeRows := rfl
@[simp] theorem State.setCtx_parts (s : State) (c : Nat) (x : Ctx) : (s.setCtx c x).parts = s.parts := rfl
@[simp] theorem State.setCtx_uniB (s : State) (c : Nat) (x : Ctx) : (s.setCtx c x).uniB = s.uniB := rfl
@[simp] theorem State.setCtx_wiped (s : State) (c : Nat) (x : Ctx) : (s.setCtx c x).wiped = s.wiped := rfl
@[simp] theorem State.setCtx_scrubs (s : State) (c : Nat) (x : Ctx) : (s.setCtx c x).scrubs = s.scrubs := rfl
@[simp] theorem State.setCtx_walks (s : State) (c : Nat) (x : Ctx) : (s.setCtx c x).walks = s.walks := rfl
@[simp] theorem State.setCtx_l1 (s : State) (c : Nat) (x : Ctx) : (s.setCtx c x).l1 = s.l1 := rfl
@[simp] theorem State.setCtx_recCache (s : State) (c : Nat) (x : Ctx) : (s.setCtx c x).recCache = s.recCache := rfl
@[simp] theorem State.setCtx_olds (s : State) (c : Nat) (x : Ctx) : (s.setCtx c x).olds = s.olds := rfl
@[simp] theorem State.setCtx_markCtr (s : State) (c : Nat) (x : Ctx) : (s.setCtx c x).markCtr = s.markCtr := rfl
@[simp] theorem State.setCtx_releases (s : State) (c : Nat) (x : Ctx) : (s.setCtx c x).releases = s.releases := rfl
@[simp] theorem State.setCtx_loaded (s : State) (c : Nat) (x : Ctx) : (s.setCtx c x).loaded = s.loaded := rfl
@[simp] theorem State.setCtx_fences (s : State) (c : Nat) (x : Ctx) : (s.setCtx c x).fences = s.fences := rfl
@[simp] theorem State.setCtx_nodeMarks (s : State) (c : Nat) (x : Ctx) : (s.setCtx c x).nodeMarks = s.nodeMarks := rfl
@[simp] theorem State.setCtx_signals (s : State) (c : Nat) (x : Ctx) : (s.setCtx c x).signals = s.signals := rfl
@[simp] theorem State.setCtx_staging (s : State) (c : Nat) (x : Ctx) : (s.setCtx c x).staging = s.staging := rfl
@[simp] theorem State.setCtx_memErrs (s : State) (c : Nat) (x : Ctx) : (s.setCtx c x).memErrs = s.memErrs := rfl
@[simp] theorem State.setCtx_listBytes (s : State) (c : Nat) (x : Ctx) : (s.setCtx c x).listBytes = s.listBytes := rfl
@[simp] theorem State.setCtx_rounds (s : State) (c : Nat) (x : Ctx) : (s.setCtx c x).rounds = s.rounds := rfl
@[simp] theorem State.setCtx_lcs (s : State) (c : Nat) (x : Ctx) : (s.setCtx c x).lcs = s.lcs := rfl
@[simp] theorem State.setCtx_shadow (s : State) (c : Nat) (x : Ctx) : (s.setCtx c x).shadow = s.shadow := rfl
@[simp] theorem State.setCtx_pageReqs (s : State) (c : Nat) (x : Ctx) : (s.setCtx c x).pageReqs = s.pageReqs := rfl
@[simp] theorem State.setCtx_seqCtr (s : State) (c : Nat) (x : Ctx) : (s.setCtx c x).seqCtr = s.seqCtr := rfl
@[simp] theorem State.setCtx_trails (s : State) (c : Nat) (x : Ctx) : (s.setCtx c x).trails = s.trails := rfl
@[simp] theorem State.setCtx_tracks (s : State) (c : Nat) (x : Ctx) : (s.setCtx c x).tracks = s.tracks := rfl
@[simp] theorem State.setCtx_groupMode (s : State) (c : Nat) (x : Ctx) : (s.setCtx c x).groupMode = s.groupMode := rfl
@[simp] theorem State.setCtx_hashVer (s : State) (c : Nat) (x : Ctx) : (s.setCtx c x).hashVer = s.hashVer := rfl
@[simp] theorem State.setCtx_masks (s : State) (c : Nat) (x : Ctx) : (s.setCtx c x).masks = s.masks := rfl
@[simp] theorem State.setCtx_oldMasks (s : State) (c : Nat) (x : Ctx) : (s.setCtx c x).oldMasks = s.oldMasks := rfl
@[simp] theorem State.setCtx_migrating (s : State) (c : Nat) (x : Ctx) : (s.setCtx c x).migrating = s.migrating := rfl
@[simp] theorem State.setCtx_moved (s : State) (c : Nat) (x : Ctx) : (s.setCtx c x).moved = s.moved := rfl
@[simp] theorem State.setCtx_openRows (s : State) (c : Nat) (x : Ctx) : (s.setCtx c x).openRows = s.openRows := rfl
@[simp] theorem State.setCtx_bankCnt (s : State) (c : Nat) (x : Ctx) : (s.setCtx c x).bankCnt = s.bankCnt := rfl
@[simp] theorem State.setCtx_rowCnt (s : State) (c : Nat) (x : Ctx) : (s.setCtx c x).rowCnt = s.rowCnt := rfl
@[simp] theorem State.setCtx_conflicted (s : State) (c : Nat) (x : Ctx) : (s.setCtx c x).conflicted = s.conflicted := rfl
@[simp] theorem State.setCtx_throttled (s : State) (c : Nat) (x : Ctx) : (s.setCtx c x).throttled = s.throttled := rfl
@[simp] theorem State.setCtx_windowAt (s : State) (c : Nat) (x : Ctx) : (s.setCtx c x).windowAt = s.windowAt := rfl
@[simp] theorem State.setCtx_errCnt (s : State) (c : Nat) (x : Ctx) : (s.setCtx c x).errCnt = s.errCnt := rfl
@[simp] theorem State.setCtx_passes (s : State) (c : Nat) (x : Ctx) : (s.setCtx c x).passes = s.passes := rfl
@[simp] theorem State.setCtx_mveReqs (s : State) (c : Nat) (x : Ctx) : (s.setCtx c x).mveReqs = s.mveReqs := rfl
@[simp] theorem State.setCtx_seals (s : State) (c : Nat) (x : Ctx) : (s.setCtx c x).seals = s.seals := rfl
@[simp] theorem State.setCtx_nodes (s : State) (c : Nat) (x : Ctx) : (s.setCtx c x).nodes = s.nodes := rfl
@[simp] theorem State.setCtx_armed (s : State) (c : Nat) (x : Ctx) : (s.setCtx c x).armed = s.armed := rfl
@[simp] theorem State.setCtx_dailyCnt (s : State) (c : Nat) (x : Ctx) : (s.setCtx c x).dailyCnt = s.dailyCnt := rfl
@[simp] theorem State.setCtx_pkgId (s : State) (c : Nat) (x : Ctx) : (s.setCtx c x).pkgId = s.pkgId := rfl
@[simp] theorem State.setCtx_standalone (s : State) (c : Nat) (x : Ctx) : (s.setCtx c x).standalone = s.standalone := rfl
@[simp] theorem State.setCtx_portsDown (s : State) (c : Nat) (x : Ctx) : (s.setCtx c x).portsDown = s.portsDown := rfl
@[simp] theorem State.setCtx_badPorts (s : State) (c : Nat) (x : Ctx) : (s.setCtx c x).badPorts = s.badPorts := rfl
@[simp] theorem State.setCtx_linkCtr (s : State) (c : Nat) (x : Ctx) : (s.setCtx c x).linkCtr = s.linkCtr := rfl
@[simp] theorem State.setCtx_cutOff (s : State) (c : Nat) (x : Ctx) : (s.setCtx c x).cutOff = s.cutOff := rfl
@[simp] theorem State.setCtx_exports (s : State) (c : Nat) (x : Ctx) : (s.setCtx c x).exports = s.exports := rfl
@[simp] theorem State.setCtx_keys (s : State) (c : Nat) (x : Ctx) : (s.setCtx c x).keys = s.keys := rfl
@[simp] theorem State.setCtx_fwDigest (s : State) (c : Nat) (x : Ctx) : (s.setCtx c x).fwDigest = s.fwDigest := rfl
@[simp] theorem State.setCtx_fwOk (s : State) (c : Nat) (x : Ctx) : (s.setCtx c x).fwOk = s.fwOk := rfl
@[simp] theorem State.setCtx_staged (s : State) (c : Nat) (x : Ctx) : (s.setCtx c x).staged = s.staged := rfl
@[simp] theorem State.setCtx_mailbox (s : State) (c : Nat) (x : Ctx) : (s.setCtx c x).mailbox = s.mailbox := rfl
@[simp] theorem State.setCtx_mbWait (s : State) (c : Nat) (x : Ctx) : (s.setCtx c x).mbWait = s.mbWait := rfl
@[simp] theorem State.setCtx_mbReady (s : State) (c : Nat) (x : Ctx) : (s.setCtx c x).mbReady = s.mbReady := rfl
@[simp] theorem State.setCtx_powerLow (s : State) (c : Nat) (x : Ctx) : (s.setCtx c x).powerLow = s.powerLow := rfl
@[simp] theorem State.setCtx_msix (s : State) (c : Nat) (x : Ctx) : (s.setCtx c x).msix = s.msix := rfl
@[simp] theorem State.setCtx_hostReply (s : State) (c : Nat) (x : Ctx) : (s.setCtx c x).hostReply = s.hostReply := rfl
@[simp] theorem State.setCtx_remoteReply (s : State) (c : Nat) (x : Ctx) : (s.setCtx c x).remoteReply = s.remoteReply := rfl

/-! ## What they change -/

@[simp] theorem State.modThread_threads (s : State) (i : Nat) (f : Thread → Thread) :
    (s.modThread i f).threads = s.threads.modify i f := rfl
@[simp] theorem State.modTake_takes (s : State) (i : Nat) (f : Take → Take) : (s.modTake i f).takes = s.takes.modify i f := rfl
@[simp] theorem State.modScene_scenes (s : State) (i : Nat) (f : Scene → Scene) :
    (s.modScene i f).scenes = s.scenes.modify i f := rfl
@[simp] theorem State.modOp_ops (s : State) (i : Nat) (f : Op → Op) : (s.modOp i f).ops = s.ops.modify i f := rfl

/-- Another thread is left alone. -/
theorem State.modThread_other (s : State) (i j : Nat) (f : Thread → Thread) (h : j ≠ i) :
    (s.modThread i f).thread j = s.thread j := by
  simp [State.thread, List.getD_eq_getElem?_getD, Ne.symm h]

/-- The thread itself is changed, when it exists. -/
theorem State.modThread_same (s : State) (i : Nat) (f : Thread → Thread) (h : i < s.threads.length) :
    (s.modThread i f).thread i = f (s.thread i) := by
  simp [State.thread, List.getD_eq_getElem?_getD, h]

/-- Another take is left alone. -/
theorem State.modTake_other (s : State) (i j : Nat) (f : Take → Take) (h : j ≠ i) : (s.modTake i f).take j = s.take j := by
  simp [State.take, List.getD_eq_getElem?_getD, Ne.symm h]

/-- The take itself is changed, when it exists. -/
theorem State.modTake_same (s : State) (i : Nat) (f : Take → Take) (h : i < s.takes.length) :
    (s.modTake i f).take i = f (s.take i) := by
  simp [State.take, List.getD_eq_getElem?_getD, h]

end Sys2Proof.Machine
end

