-- ==== Sys2Proof/Laws/Turns.lean ====
section
/-! SUPPORT. What holds before a turn changes (R31, R143, R452): results that are due arrive in threads and scenes, and notes
are taken of takes and of armed records; nothing else differs while no mailbox command waits. -/

namespace Sys2Proof.Machine

/-- A write of a register changes threads and scenes only. -/
theorem State.writeReg_rest (s : State) (w : RegWrite) :
    ({ s.writeReg w with threads := s.threads, scenes := s.scenes } : State) = s := by
  unfold State.writeReg
  split <;> rfl

/-- Writes of registers change threads and scenes only. -/
theorem State.writeRegs_rest (ws : List RegWrite) (s : State) :
    ({ s.writeRegs ws with threads := s.threads, scenes := s.scenes } : State) = s := by
  induction ws generalizing s with
  | nil => rfl
  | cons w ws ih =>
    have h := congrArg (fun t : State => ({ t with threads := s.threads, scenes := s.scenes } : State)) (ih (s.writeReg w))
    exact h.trans (s.writeReg_rest w)

/-- The arrival of results changes threads, scenes and the results on their way only. -/
theorem State.settle_rest (s : State) (now : Nat) :
    ({ s.settle now with threads := s.threads, scenes := s.scenes, pend := s.pend } : State) = s :=
  congrArg (fun t : State => ({ t with pend := s.pend } : State)) (State.writeRegs_rest _ _)

/-- Noting ready records changes what is armed only. -/
theorem State.noteNodes_rest (s : State) : ({ s.noteNodes with armed := s.armed } : State) = s := by
  unfold State.noteNodes
  split <;> rfl

/-- WHAT HOLDS BEFORE A TURN while no mailbox command waits: nothing but threads, scenes, results on their way, takes and armed
records differs. -/
theorem State.between_rest (s : State) (h : s.mbWait = false) :
    ({ s.between with threads := s.threads, scenes := s.scenes, pend := s.pend, takes := s.takes, armed := s.armed } : State) =
      s := by
  have hm : (s.settle s.clock).noteReady.noteNodes.mbWait = false := by
    have e := congrArg State.mbWait (State.noteNodes_rest (s.settle s.clock).noteReady)
    have g := congrArg State.mbWait (s.settle_rest s.clock)
    exact (e.trans g).trans h
  have hb : s.between = (s.settle s.clock).noteReady.noteNodes := by
    unfold State.between State.noteMailbox
    rw [hm]; rfl
  rw [hb]
  have h1 := congrArg (fun t : State => ({ t with threads := s.threads, scenes := s.scenes, pend := s.pend, takes := s.takes
                                                  armed := s.armed } : State))
    (State.noteNodes_rest (s.settle s.clock).noteReady)
  exact h1.trans (congrArg (fun t : State => ({ t with takes := s.takes, armed := s.armed } : State)) (s.settle_rest s.clock))

@[simp] theorem State.between_agenda (s : State) (h : s.mbWait = false) : s.between.agenda = s.agenda := by
  have e := congrArg State.agenda (s.between_rest h)
  exact e
@[simp] theorem State.between_clock (s : State) (h : s.mbWait = false) : s.between.clock = s.clock := by
  have e := congrArg State.clock (s.between_rest h)
  exact e
@[simp] theorem State.between_mem (s : State) (h : s.mbWait = false) : s.between.mem = s.mem := by
  have e := congrArg State.mem (s.between_rest h)
  exact e
@[simp] theorem State.between_power (s : State) (h : s.mbWait = false) : s.between.power = s.power := by
  have e := congrArg State.power (s.between_rest h)
  exact e

end Sys2Proof.Machine
end

