-- ==== Sys2Proof/Laws/Words.lean ====
section
/-! SUPPORT. What the shared operations of the words do: the issue of a word, the results of a per-lane instruction, the
start of an operation and the step past a word. -/

namespace Sys2Proof.Machine

/-! ## Results on their way -/

theorem mem_insertPending (p q : Pending) (l : List Pending) : q ∈ insertPending p l ↔ q = p ∨ q ∈ l := by
  induction l with
  | nil => simp [insertPending]
  | cons a l ih =>
    simp only [insertPending]
    split
    · simp
    · simp only [List.mem_cons, ih]
      exact ⟨fun h => h.elim (fun h => .inr (.inl h)) fun h => h.elim .inl fun h => .inr (.inr h),
        fun h => h.elim (fun h => .inr (.inl h)) fun h => h.elim .inl fun h => .inr (.inr h)⟩

/-- A write put on its way is among those on their way. -/
theorem later_arrives (s : State) (due th : Nat) (dst : Dest) (v : DWord) :
    Arrives (s.later due { thread := th, dest := dst, value := v }) th dst v due :=
  (mem_insertPending _ _ _).2 (.inl rfl)

/-! ## What results in flight leave alone -/

/-- A thread or a take after a change of one of its list. -/
theorem State.modThread_thread (s : State) (i k : Nat) (f : Thread → Thread) :
    (s.modThread i f).thread k = if k = i ∧ i < s.threads.length then f (s.thread k) else s.thread k := by
  by_cases h : k = i
  · subst h
    by_cases hl : k < s.threads.length
    · simp [hl, State.modThread_same]
    · simp [State.thread, List.getD_eq_getElem?_getD, hl]
  · simp [h, State.modThread_other]

theorem State.modScene_scene (s : State) (i k : Nat) (f : Scene → Scene) :
    (s.modScene i f).scene k = if k = i ∧ i < s.scenes.length then f (s.scene k) else s.scene k := by
  by_cases h : k = i
  · subst h
    by_cases hl : k < s.scenes.length
    · simp [State.scene, List.getD_eq_getElem?_getD, hl]
    · simp [State.scene, List.getD_eq_getElem?_getD, hl]
  · simp [State.scene, List.getD_eq_getElem?_getD, h, Ne.symm h]

/-- From `u` to `t`, in the lanes `L`, only results were put on their way, flags set, cue flags raised and uniform
registers written. -/
structure Sends (L : List (Nat × Nat)) (u t : State) : Prop where
  rest : ({ t with threads := u.threads, scenes := u.scenes, pend := u.pend, uniB := u.uniB } : State) = u
  keeps : ∀ q ∈ u.pend, q ∈ t.pend
  thread : ∀ th, SameThread u t th
  sticky : ∀ th, ∃ m, (t.thread th).fpsr = (u.thread th).fpsr ||| m
  others : ∀ th, (∀ l ∈ L, l.2 ≠ th) → t.thread th = u.thread th
  scene : ∀ k, ({ t.scene k with uni := (u.scene k).uni } : Scene) = u.scene k

theorem Sends.refl (L : List (Nat × Nat)) (u : State) : Sends L u u :=
  ⟨rfl, fun _ h => h, fun _ => rfl, fun _ => ⟨0, by simp⟩, fun _ _ => rfl, fun _ => rfl⟩

theorem Sends.trans {L : List (Nat × Nat)} {a b c : State} (h : Sends L a b) (k : Sends L b c) : Sends L a c := by
  refine ⟨?_, fun q hq => k.keeps q (h.keeps q hq), fun th => ?_, fun th => ?_, fun th hn => ?_, fun n => ?_⟩
  · have h1 := h.rest
    rw [← k.rest] at h1
    exact h1
  · have h1 := h.thread th
    have h2 := k.thread th
    unfold SameThread at *
    rw [← h2] at h1
    exact h1
  · obtain ⟨m, hm⟩ := h.sticky th
    obtain ⟨n, hn⟩ := k.sticky th
    exact ⟨m ||| n, by rw [hn, hm, BitVec.or_assoc]⟩
  · rw [k.others th hn, h.others th hn]
  · have h1 := h.scene n
    rw [← k.scene n] at h1
    exact h1

variable {L : List (Nat × Nat)}

theorem Sends.takes {u t : State} (h : Sends L u t) : t.takes = u.takes := by
  have e := congrArg State.takes h.rest; exact e
theorem Sends.clock {u t : State} (h : Sends L u t) : t.clock = u.clock := by
  have e := congrArg State.clock h.rest; exact e
theorem Sends.ops {u t : State} (h : Sends L u t) : t.ops = u.ops := by
  have e := congrArg State.ops h.rest; exact e

theorem sends_later (s : State) (n : Nat) (w : RegWrite) : Sends L s (s.later n w) :=
  ⟨rfl, fun _ h => (mem_insertPending _ _ _).2 (.inr h), fun _ => rfl, fun _ => ⟨0, by simp [State.later, State.thread]⟩,
    fun _ _ => rfl, fun _ => rfl⟩

theorem sends_orFlags (s : State) (l : Nat × Nat) (hl : l ∈ L) (fl : Nat) : Sends L s (s.orFlags l.2 fl) := by
  unfold State.orFlags
  split
  · exact Sends.refl L s
  · refine ⟨rfl, fun _ h => h, fun th => ?_, fun th => ?_, fun th hn => ?_, fun _ => rfl⟩
    · unfold SameThread
      rw [State.modThread_thread]
      split <;> rfl
    · rw [State.modThread_thread]
      split
      · exact ⟨_, rfl⟩
      · exact ⟨0, by simp⟩
    · exact State.modThread_other _ _ _ _ (fun e => hn l hl e.symm)

theorem sends_raiseCue (s : State) (l : Nat × Nat) (hl : l ∈ L) (j : Nat) : Sends L s (s.raiseCue l.2 j) := by
  unfold State.raiseCue
  refine ⟨rfl, fun _ h => h, fun th => ?_, fun th => ?_, fun th hn => ?_, fun _ => rfl⟩
  · unfold SameThread
    rw [State.modThread_thread]
    split <;> rfl
  · refine ⟨0, ?_⟩
    rw [State.modThread_thread]
    split <;> simp [Thread.setCue]
  · exact State.modThread_other _ _ _ _ (fun e => hn l hl e.symm)

theorem sends_writeUniform (s : State) (th k : Nat) (v : DWord) (q : List (Nat × Nat × Nat)) :
    Sends L s (({ s with uniB := q } : State).writeReg { thread := th, dest := .s k, value := v }) := by
  refine ⟨rfl, fun _ h => h, fun _ => rfl, fun _ => ⟨0, by simp [State.writeReg, State.thread]⟩, fun _ _ => rfl, fun n => ?_⟩
  show ({ (s.modScene (s.thread th).scene fun c => c.setUni k (v.setWidth 32)).scene n with uni := (s.scene n).uni } : Scene) = _
  rw [State.modScene_scene]
  split <;> rfl

theorem sends_pipeUniform (s : State) (pb : Bool) (th k : Nat) (v : DWord) :
    Sends L s (s.pipeWrite pb { thread := th, dest := .s k, value := v }) := by
  simp only [State.pipeWrite]
  split
  · exact sends_writeUniform s th k v _
  · split
    · exact Sends.refl L s
    · exact sends_writeUniform s th k v s.uniB

/-- A fold of steps that only send only sends. -/
theorem sends_foldl {α : Type} (f : State → α → State) (l : List α) (hf : ∀ s, ∀ a ∈ l, Sends L s (f s a)) (s : State) :
    Sends L s (l.foldl f s) := by
  induction l generalizing s with
  | nil => exact Sends.refl L s
  | cons a l ih =>
    exact (hf s a (List.mem_cons_self ..)).trans (ih (fun s b hb => hf s b (List.mem_cons_of_mem _ hb)) _)

theorem sends_sendLatch (x : WordCtx) (s : State) (th : Nat) (r : LaneRes) : Sends L s (x.sendLatch s th r) := by
  unfold WordCtx.sendLatch
  split
  · exact Sends.refl L s
  · exact sends_later _ _ _

theorem sends_sendDest (x : WordCtx) (d : Sel) (low : Bool) (s : State) (th : Nat) (r : LaneRes) :
    Sends L s (x.sendDest d low s th r) := by
  unfold WordCtx.sendDest
  simp only
  split
  · split
    · exact sends_later _ _ _
    · exact Sends.refl L s
  · split
    · exact sends_foldl _ _ (fun _ _ _ => sends_pipeUniform _ _ _ _ _) _
    · exact Sends.refl L s
  · refine sends_foldl _ _ (fun _ _ _ => ?_) _
    split
    · exact sends_later _ _ _
    · exact Sends.refl L _

/-- The send of one lane's result changes nothing but what `Sends` says. -/
theorem sends_sendLane (x : WordCtx) (d : Sel) (nw low : Bool) (s : State) (l : Nat × Nat) (hl : l ∈ L) (r : LaneRes) :
    Sends L s (x.sendLane d nw low s l.2 r) := by
  simp only [WordCtx.sendLane]
  refine Sends.trans ((sends_orFlags s l hl r.flags).trans (sends_sendLatch x _ l.2 r)) ?_
  refine Sends.trans ?_ (sends_foldl _ _ (fun _ _ _ => sends_later _ _ _) _)
  split
  · exact Sends.refl L _
  · exact sends_sendDest _ _ _ _ _ _

theorem sends_countCue (x : WordCtx) (s : State) : Sends x.lanes s (x.countCue s) := by
  unfold WordCtx.countCue
  split
  · exact Sends.refl _ s
  · exact sends_foldl _ _ (fun _ l hl => (sends_raiseCue _ l hl _).trans (sends_later _ _ _)) _

/-- A per-lane instruction of the Short or Long group changes nothing but what `Sends` says. -/
theorem sends_alu (x : WordCtx) (d : Sel) (nw : Bool) (s : State) (f : Nat → Nat → LaneRes) :
    Sends x.lanes s (x.alu d nw s f) := by
  simp only [WordCtx.alu]
  refine (sends_countCue x s).trans (sends_foldl _ _ (fun _ r hr => ?_) _)
  have h1 := List.fst_mem_of_mem_zipIdx hr
  obtain ⟨l, hl, he⟩ := List.mem_map.1 h1
  have : r.1.1 = l := by rw [← he]
  exact sends_sendLane _ _ _ _ _ r.1.1 (by rw [this]; exact hl) _

/-! ## Where results go -/

/-- A step of a fold whose later steps keep what is on its way. -/
theorem foldl_arrives {α : Type} (f : State → α → State) (l : List α) (hf : ∀ s, ∀ a ∈ l, Sends L s (f s a)) (a : α)
    (ha : a ∈ l) (s : State) (th : Nat) (dst : Dest) (v : DWord) (due : Nat)
    (h : ∀ u, Sends L s u → Arrives (f u a) th dst v due) : Arrives (l.foldl f s) th dst v due := by
  induction l generalizing s with
  | nil => cases ha
  | cons b l ih =>
    rw [List.foldl_cons]
    have ht := fun s c hc => hf s c (List.mem_cons_of_mem b hc)
    cases ha with
    | head => exact (sends_foldl f l ht _).keeps _ (h s (Sends.refl L s))
    | tail _ hm => exact ih ht hm (f s b) fun u hu => h u ((hf s b (List.mem_cons_self ..)).trans hu)

/-- A lane's result is on its way to its latch. -/
theorem sendLane_latch (x : WordCtx) (d : Sel) (nw low : Bool) (s : State) (th : Nat) (r : LaneRes)
    (hw : r.words ≠ []) :
    Arrives (x.sendLane d nw low s th r) th (.b (x.pos % 4)) (r.words.getD 1 0 ++ r.words.getD 0 0)
      (s.clock + (groupDelay (opGroup x.instr.opcode)).1) := by
  have e : (x.sendLatch (s.orFlags th r.flags) th r) = (s.orFlags th r.flags).later
      ((s.orFlags th r.flags).clock + (groupDelay (opGroup x.instr.opcode)).1)
      { thread := th, dest := .b (x.pos % 4), value := r.words.getD 1 0 ++ r.words.getD 0 0 } := by
    unfold WordCtx.sendLatch
    have : r.words.isEmpty = false := by
      cases hr : r.words with
      | nil => exact absurd hr hw
      | cons _ _ => rfl
    rw [this]; rfl
  simp only [WordCtx.sendLane]
  refine (sends_foldl (L := [(0, th)]) _ _ (fun _ _ _ => sends_later _ _ _) _).keeps _ ?_
  have h0 := later_arrives (s.orFlags th r.flags) ((s.orFlags th r.flags).clock + (groupDelay (opGroup x.instr.opcode)).1) th
    (.b (x.pos % 4)) (r.words.getD 1 0 ++ r.words.getD 0 0)
  rw [← e, (sends_orFlags s (0, th) (List.mem_singleton.2 rfl) r.flags).clock] at h0
  split
  · exact h0
  · exact (sends_sendDest (L := [(0, th)]) _ _ _ _ _ _).keeps _ h0

/-- Word k of a lane's result is on its way to register k of D. -/
theorem sendLane_dest (x : WordCtx) (d : Sel) (low : Bool) (s : State) (th : Nat) (r : LaneRes) (k : Nat) (v : Word)
    (t : Dest) (hv : r.words[k]? = some v) (hd : selClass d = .main ∨ selClass d = .operand) (ht : destOf d k = some t) :
    Arrives (x.sendLane d false low s th r) th t (v.setWidth 64) (s.clock + (groupDelay (opGroup x.instr.opcode)).2) := by
  simp only [WordCtx.sendLane]
  refine (sends_foldl (L := [(0, th)]) _ _ (fun _ _ _ => sends_later _ _ _) _).keeps _ ?_
  have h1 := (sends_orFlags s (0, th) (List.mem_singleton.2 rfl) r.flags).trans (sends_sendLatch x (s.orFlags th r.flags) th r)
  generalize x.sendLatch (s.orFlags th r.flags) th r = u at h1
  have hm : (v, k) ∈ r.words.zipIdx := by rw [List.mem_zipIdx_iff_getElem?]; exact hv
  have hstep : ∀ (s : State) (w : Word × Nat), Sends [(0, th)] s (match destOf d w.2 with
      | some t => s.later (u.clock + (groupDelay (opGroup x.instr.opcode)).2)
          { thread := th, dest := t, value := w.1.setWidth 64 }
      | none => s) := by
    intro s w; split
    · exact sends_later _ _ _
    · exact Sends.refl _ _
  rw [← h1.clock]
  show ({ write := _, due := _ } : Pending) ∈ (x.sendDest d low u th r).pend
  have goal : Arrives ((r.words.zipIdx).foldl (fun s w => match destOf d w.2 with
      | some t => s.later (u.clock + (groupDelay (opGroup x.instr.opcode)).2)
          { thread := th, dest := t, value := w.1.setWidth 64 }
      | none => s) u) th t (v.setWidth 64) (u.clock + (groupDelay (opGroup x.instr.opcode)).2) := by
    refine foldl_arrives (L := [(0, th)]) _ _ (fun s w _ => hstep s w) (v, k) hm u _ _ _ _ fun w _ => ?_
    simp only [ht]
    exact later_arrives _ _ _ _ _
  unfold WordCtx.sendDest
  rcases hd with hd | hd <;> simp only [hd] <;> exact goal

/-- A truth value is on its way to the predicate D. -/
theorem sendLane_pred (x : WordCtx) (d : Sel) (low : Bool) (s : State) (th : Nat) (r : LaneRes) (b : Bool)
    (hv : r.pred = some b) (hd : selClass d = .pred) :
    Arrives (x.sendLane d false low s th r) th (.p (selReg d)) (if b then 1 else 0)
      (s.clock + (groupDelay (opGroup x.instr.opcode)).2) := by
  simp only [WordCtx.sendLane]
  refine (sends_foldl (L := [(0, th)]) _ _ (fun _ _ _ => sends_later _ _ _) _).keeps _ ?_
  have h1 := (sends_orFlags s (0, th) (List.mem_singleton.2 rfl) r.flags).trans (sends_sendLatch x (s.orFlags th r.flags) th r)
  rw [← h1.clock]
  unfold WordCtx.sendDest
  simp only [hd, hv]
  exact later_arrives _ _ _ _ _

/-- A write beside D is on its way. -/
theorem sendLane_extra (x : WordCtx) (d : Sel) (nw low : Bool) (s : State) (th : Nat) (r : LaneRes) (e : Dest × DWord)
    (he : e ∈ r.extra) : Arrives (x.sendLane d nw low s th r) th e.1 e.2
      (s.clock + (groupDelay (opGroup x.instr.opcode)).2) := by
  simp only [WordCtx.sendLane]
  have h1 : Sends [(0, th)] s (if nw then x.sendLatch (s.orFlags th r.flags) th r
      else x.sendDest d low (x.sendLatch (s.orFlags th r.flags) th r) th r) := by
    refine ((sends_orFlags s (0, th) (List.mem_singleton.2 rfl) r.flags).trans (sends_sendLatch x _ th r)).trans ?_
    split
    · exact Sends.refl _ _
    · exact sends_sendDest _ _ _ _ _ _
  refine foldl_arrives (L := [(0, th)]) _ _ (fun _ _ _ => sends_later _ _ _) e he _ _ _ _ _ fun u hu => ?_
  rw [← (h1.trans hu).clock]
  exact later_arrives _ _ _ _ _

/-- What holds of the send of every lane holds of the whole instruction: a lane's result reaches where `sendLane` sends
it. -/
theorem alu_arrives (x : WordCtx) (d : Sel) (nw : Bool) (s : State) (f : Nat → Nat → LaneRes) (l : Nat × Nat)
    (hl : l ∈ x.lanes) (th : Nat) (dst : Dest) (v : DWord) (due : Nat)
    (h : ∀ u low, u.clock = s.clock → Arrives (x.sendLane d nw low u l.2 (f l.1 l.2)) th dst v due) :
    Arrives (x.alu d nw s f) th dst v due := by
  simp only [WordCtx.alu]
  have hm : (l, f l.1 l.2) ∈ x.lanes.map fun l => (l, f l.1 l.2) := List.mem_map.2 ⟨l, hl, rfl⟩
  obtain ⟨k, hk⟩ := List.mem_iff_getElem?.1 hm
  have hz : ((l, f l.1 l.2), k) ∈ (x.lanes.map fun l => (l, f l.1 l.2)).zipIdx := by
    rw [List.mem_zipIdx_iff_getElem?]; exact hk
  refine foldl_arrives (L := x.lanes) _ _ (fun s r hr => ?_) _ hz _ _ _ _ _ fun u hu => ?_
  · obtain ⟨l', hl', he⟩ := List.mem_map.1 (List.fst_mem_of_mem_zipIdx hr)
    have : r.1.1 = l' := by rw [← he]
    exact sends_sendLane _ _ _ _ _ r.1.1 (by rw [this]; exact hl') _
  exact h u _ (((sends_countCue x s).trans hu).clock)

/-! ## The issue of a word -/

theorem issues_cur {i : Instr} {s : State} {c : Cur} (h : issues i s c = true) : s.cur = some c := by
  simp [issues] at h; exact h.1.1.1.1.1

theorem dropHurt_none (x : WordCtx) (s : State)
    (h : (x.lanes.all fun l => !meetsError x.instr l.1 (s.thread l.2).bad) = true) : x.dropHurt s = x := by
  have : x.lanes.filter (fun l => meetsError x.instr l.1 (s.thread l.2).bad) = [] := by
    rw [List.filter_eq_nil_iff]
    intro l hl
    have := List.all_eq_true.1 h l hl
    simpa using this
  simp only [WordCtx.dropHurt, this]
  rfl

/-- A word in which no lane meets a register word in error posts nothing for one. -/
theorem postHurt_none (x : WordCtx) (s : State) (n : Nat) (h : x.hurt = []) : x.postHurt s n = s := by
  simp [WordCtx.postHurt, h]

theorem WordRes.after_id (r : WordRes) (f : State → State) (h : ∀ s, f s = s) : r.after f = r := by
  cases r <;> simp [WordRes.after, h]

/-- A change of the threads of lanes changes only threads. -/
theorem modThreads_rest (f : State → Thread → Thread) (ls : List (Nat × Nat)) (s : State) :
    ({ ls.foldl (fun (s : State) l => s.modThread l.2 (f s)) s with threads := s.threads } : State) = s := by
  induction ls generalizing s with
  | nil => rfl
  | cons a l ih =>
    have e := congrArg (fun t : State => ({ t with threads := s.threads } : State)) (ih (s.modThread a.2 (f s)))
    exact e

/-- Using register lines changes only threads. -/
theorem useLines_rest (s : State) (i : Instr) (ls : List (Nat × Nat)) :
    ({ s.useLines i ls with threads := s.threads } : State) = s := by
  unfold State.useLines
  split
  · rfl
  · exact modThreads_rest (fun s t => { t with used := i.lines.foldl (fun u n => u.set n s.clock) t.used }) ls s

/-- The state in which a word's meaning begins holds the takes of the state in which it issues. -/
theorem begun_takes (s : State) (c : Cur) (i : Instr) : (s.begun c i).takes = (s.issue c i).takes := by
  have e := congrArg State.takes (useLines_rest (s.issue c i) i (s.atIssue c i).lanes); exact e

/-- A word that issues has its body's effect, and its take stands where `settle` leaves it. -/
theorem issues_runWord {i : Instr} {s : State} {c : Cur} (h : issues i s c = true) (body : WordCtx → State → WordRes) :
    runWord i s body = .next ((body (s.atIssue c i) (s.begun c i)).settle (s.begun c i) c i) := by
  have hc := issues_cur h
  simp only [issues, Bool.and_eq_true, Bool.not_eq_true', decide_eq_true_eq] at h
  obtain ⟨⟨⟨⟨⟨-, -⟩, -⟩, hh⟩, ho⟩, hb⟩ := h
  have hd : (s.atIssue c i).dropHurt (s.begun c i) = s.atIssue c i := dropHurt_none _ _ hb
  have hn : ∀ t n, (s.atIssue c i).postHurt t n = t := fun t n => postHurt_none _ _ _ rfl
  unfold State.begun State.atIssue at *
  unfold runWord
  simp only [hc, hh, ho, hd, hn]
  simp only [Bool.false_eq_true, if_false]
  rw [WordRes.after_id _ _ fun _ => rfl]

/-- A control word that issues has its body's effect from the end of its clause on. -/
theorem issues_runControl {i : Instr} {s : State} {c : Cur} (h : issues i s c = true) (body : WordCtx → State → WordRes) :
    runControl i s body = .next ((body (s.atIssue c i)
      (((s.begun c i).endClause c.take (c.addr + 8)).modTake c.take fun t => { t with last := (s.begun c i).clock })).settle
        (s.begun c i) c i) := by
  unfold runControl
  rw [issues_runWord h]
  rfl

theorem State.take_modTake (s : State) (i k : Nat) (f : Take → Take) :
    (s.modTake i f).take k = if k = i ∧ i < s.takes.length then f (s.take k) else s.take k := by
  by_cases h : k = i
  · subst h
    by_cases hl : k < s.takes.length
    · simp [hl, State.modTake_same]
    · simp [State.take, List.getD_eq_getElem?_getD, hl]
  · simp [h, State.modTake_other]

/-- A take that occupies a pipe exists. -/
theorem issuing_lt {s : State} {k : Nat} (h : (s.take k).st.issues = true) : k < s.takes.length := by
  by_cases hl : k < s.takes.length
  · exact hl
  · exfalso
    have : s.take k = default := by simp [State.take, List.getD_eq_getElem?_getD, hl]
    rw [this] at h
    exact absurd h (by decide)

theorem issues_take {i : Instr} {s : State} {c : Cur} (h : issues i s c = true) :
    ((s.begun c i).take c.take).st.issues = true := by
  simp only [issues, Bool.and_eq_true] at h; exact h.1.1.1.1.2

theorem issues_lanes {i : Instr} {s : State} {c : Cur} (h : issues i s c = true) : (s.atIssue c i).lanes ≠ [] := by
  simp [issues] at h; exact h.1.1.1.2

/-- The lanes of the take of a word that issues. -/
theorem issues_take_lanes {i : Instr} {s : State} {c : Cur} (h : issues i s c = true) :
    ((s.begun c i).take c.take).lanes ≠ [] := by
  have h1 := issues_lanes h
  intro he
  apply h1
  show activeLanes _ _ _ = []
  unfold activeLanes
  have e : ((s.issue c i).take c.take).lanes = [] := by
    unfold State.take at *; rw [← begun_takes]; exact he
  rw [e]; rfl

/-- The step past a word, in a state in which the take is as it was when the word issued. -/
theorem pastWord_stands {i : Instr} {s t : State} {c : Cur} (h : issues i s c = true) (ht : t.takes = (s.begun c i).takes) :
    StandsPast (s.begun c i) (t.pastWord c.take i c.addr) c i := by
  have hs := issues_take h
  have hl := issuing_lt hs
  have hne := issues_take_lanes h
  have hk : t.take c.take = (s.begun c i).take c.take := by unfold State.take; rw [ht]
  unfold StandsPast State.pastWord
  rw [hk]
  generalize hu : (s.begun c i).take c.take = k at *
  obtain ⟨p, hst⟩ : ∃ p, k.st = .issuing p := by
    cases hk' : k.st <;> rw [hk'] at hs <;> first | exact ⟨_, rfl⟩ | exact absurd hs (by simp [TakeState.issues])
  have hlt : c.take < t.takes.length := by rw [ht]; exact hl
  by_cases hc : k.cnt ≤ k.pos + i.words
  · simp only [hst, hc, if_true, State.endClause]
    rw [State.modTake_same _ _ _ (by simpa using hlt), State.modTake_same _ _ _ hlt, hk]
    simp [hne]
  · simp only [hst, hc, if_false]
    rw [State.modTake_same _ _ _ hlt, hk]
    simp [hst]

theorem modTake_id (t : State) (k : Nat) : t.modTake k id = t := by
  have : t.takes.modify k id = t.takes := by simp
  unfold State.modTake
  rw [this]

/-- The step past a word changes its take or nothing. -/
theorem pastWord_eq (t : State) (k : Nat) (i : Instr) (a : DWord) :
    ∃ f g, t.pastWord k i a = (t.modTake k f).modTake k g := by
  simp only [State.pastWord]
  split
  · split
    · exact ⟨_, _, rfl⟩
    · exact ⟨_, id, (modTake_id _ _).symm⟩
  · exact ⟨id, id, by rw [modTake_id, modTake_id]⟩

/-- The step past a word changes only its take. -/
theorem pastWord_rest (t : State) (k : Nat) (i : Instr) (a : DWord) :
    ({ t.pastWord k i a with takes := t.takes } : State) = t := by
  obtain ⟨f, g, h⟩ := pastWord_eq t k i a
  rw [h]; rfl

theorem pastWord_other (t : State) (k j : Nat) (i : Instr) (a : DWord) (h : j ≠ k) :
    (t.pastWord k i a).take j = t.take j := by
  obtain ⟨f, g, e⟩ := pastWord_eq t k i a
  rw [e]
  rw [State.modTake_other _ _ _ _ h, State.modTake_other _ _ _ _ h]

/-- What is on its way stays on its way. -/
theorem pastWord_pend (t : State) (k : Nat) (i : Instr) (a : DWord) : (t.pastWord k i a).pend = t.pend := by
  have e := congrArg State.pend (pastWord_rest t k i a); exact e

theorem pastWord_threads (t : State) (k : Nat) (i : Instr) (a : DWord) : (t.pastWord k i a).threads = t.threads := by
  have e := congrArg State.threads (pastWord_rest t k i a); exact e

theorem pastWord_scenes (t : State) (k : Nat) (i : Instr) (a : DWord) : (t.pastWord k i a).scenes = t.scenes := by
  have e := congrArg State.scenes (pastWord_rest t k i a); exact e

theorem pastWord_ops (t : State) (k : Nat) (i : Instr) (a : DWord) : (t.pastWord k i a).ops = t.ops := by
  have e := congrArg State.ops (pastWord_rest t k i a); exact e

/-! ## Starting an operation -/

/-- Raising a cue flag in lanes leaves operations and clock alone. -/
theorem raiseCues_ops (l : List (Nat × Nat)) (c : Nat) (s : State) :
    (l.foldl (fun (s : State) l => s.raiseCue l.2 c) s).ops = s.ops ∧
      (l.foldl (fun (s : State) l => s.raiseCue l.2 c) s).clock = s.clock := by
  induction l generalizing s with
  | nil => exact ⟨rfl, rfl⟩
  | cons a l ih => exact ih (s.raiseCue a.2 c)

/-- A word that starts stands last among the operations. -/
theorem start_started (x : WordCtx) (u s : State) (args : List Nat) (ws : List RegWrite) (fl : List (Nat × Nat))
    (dl : Option Daily) (ho : s.ops = u.ops) : Started u (x.start s args ws fl dl) x x.lanes args ws := by
  unfold WordCtx.start Started
  cases x.instr.cueFlag with
  | none => exact ⟨_, by rw [← ho], rfl, rfl, rfl, rfl, rfl, rfl, rfl, rfl, rfl, rfl, rfl⟩
  | some c => exact ⟨_, by rw [← ho, ← (raiseCues_ops x.lanes c s).1], rfl, rfl, rfl, rfl, rfl, rfl, rfl, rfl, rfl, rfl, rfl⟩

/-- What stands among the operations stands there after the step past the word. -/
theorem Started.past {u t : State} {x : WordCtx} {ls : List (Nat × Nat)} {args : List Nat} {ws : List RegWrite}
    (h : Started u t x ls args ws) (k : Nat) (i : Instr) (a : DWord) : Started u (t.pastWord k i a) x ls args ws := by
  obtain ⟨o, ho, h1, h2, h3, h4, h5, h6, hr⟩ := h
  exact ⟨o, by rw [pastWord_ops, ho], h1, h2, h3, h4, h5,
    by rw [h6]; have e := congrArg State.clock (pastWord_rest t k i a); exact e.symm, hr⟩

/-! ## Words that only start -/

/-- A per-lane word that issues sends its lanes' results, and its take goes past it. -/
theorem alu_next {i : Instr} {s : State} {c : Cur} (h : issues i s c = true) (d : Sel) (nw : Bool)
    (f : State → Nat → Nat → LaneRes) :
    runWord i s (fun x s => .done (x.alu d nw s (f s))) =
      .next (((s.atIssue c i).alu d nw (s.begun c i) (f (s.begun c i))).pastWord c.take i c.addr) := by
  rw [issues_runWord h]; rfl

/-- Where a take stands depends on the takes alone. -/
theorem StandsPast.congr {u v t : State} {c : Cur} {i : Instr} (h : StandsPast u t c i) (e : v.takes = u.takes) :
    StandsPast v t c i := by
  unfold StandsPast State.take at *
  rw [e]; exact h

theorem raiseCue_thread (s : State) (th j k : Nat) :
    SameThread s (s.raiseCue th j) k ∧ ((s.raiseCue th j).thread k).fpsr = (s.thread k).fpsr := by
  unfold SameThread State.raiseCue
  rw [State.modThread_thread]
  split <;> exact ⟨rfl, rfl⟩

theorem raiseCues_only (l : List (Nat × Nat)) (j : Nat) (s : State) (k : Nat) :
    ({ l.foldl (fun (s : State) l => s.raiseCue l.2 j) s with threads := s.threads } : State) = s ∧
      SameThread s (l.foldl (fun (s : State) l => s.raiseCue l.2 j) s) k ∧
      ((l.foldl (fun (s : State) l => s.raiseCue l.2 j) s).thread k).fpsr = (s.thread k).fpsr := by
  induction l generalizing s with
  | nil => exact ⟨rfl, rfl, rfl⟩
  | cons a l ih =>
    obtain ⟨h1, h2, h3⟩ := ih (s.raiseCue a.2 j)
    obtain ⟨g1, g2⟩ := raiseCue_thread s a.2 j k
    refine ⟨?_, ?_, h3.trans g2⟩
    · have e := congrArg (fun t : State => ({ t with threads := s.threads } : State)) h1
      exact e
    · unfold SameThread at *
      rw [← h2] at g1
      exact g1

/-- Starting an operation changes nothing but the operations and cue flags. -/
theorem start_only (x : WordCtx) (v : State) (args : List Nat) (ws : List RegWrite) (fl : List (Nat × Nat))
    (dl : Option Daily) (k : Nat) :
    ({ x.start v args ws fl dl with ops := v.ops, threads := v.threads } : State) = v ∧
      SameThread v (x.start v args ws fl dl) k ∧ ((x.start v args ws fl dl).thread k).fpsr = (v.thread k).fpsr := by
  unfold WordCtx.start
  cases x.instr.cueFlag with
  | none => exact ⟨rfl, rfl, rfl⟩
  | some j =>
    obtain ⟨h1, h2, h3⟩ := raiseCues_only x.lanes j v k
    refine ⟨?_, h2, h3⟩
    have e := congrArg (fun t : State => ({ t with ops := v.ops } : State)) h1
    exact e

theorem start_takes (x : WordCtx) (v : State) (args : List Nat) (ws : List RegWrite) (fl : List (Nat × Nat))
    (dl : Option Daily) : (x.start v args ws fl dl).takes = v.takes := by
  have e := congrArg State.takes (start_only x v args ws fl dl 0).1; exact e

theorem pastWord_thread (t : State) (k : Nat) (i : Instr) (a : DWord) (n : Nat) :
    (t.pastWord k i a).thread n = t.thread n := by
  unfold State.thread; rw [pastWord_threads]

/-- A step past the word after a change of operations and cue flags alone. -/
theorem startsOnly_past {v t : State} {k : Nat} (i : Instr) (a : DWord)
    (h1 : ({ t with ops := v.ops, threads := v.threads } : State) = v)
    (h2 : ∀ n, SameThread v t n ∧ (t.thread n).fpsr = (v.thread n).fpsr) : StartsOnly v (t.pastWord k i a) k := by
  refine ⟨?_, fun j hj => ?_, fun n => ?_⟩
  · have e := congrArg (fun t : State => ({ t with ops := v.ops, threads := v.threads, takes := v.takes } : State))
      (pastWord_rest t k i a)
    have g := congrArg (fun t : State => ({ t with takes := v.takes } : State)) h1
    exact e.trans g
  · rw [pastWord_other _ _ _ _ _ hj]
    have e := congrArg State.takes h1
    have e' : t.takes = v.takes := e
    unfold State.take
    rw [e']
  · unfold SameThread
    rw [pastWord_thread]
    exact h2 n

/-- A word whose meaning starts an operation in all its lanes and steps past only starts. -/
theorem starts_of {i : Instr} {s : State} {c : Cur} (h : issues i s c = true) (v : State) (args : List Nat)
    (ws : List RegWrite) (hv : v.takes = (s.begun c i).takes)
    (he : exec i s = .next (((s.atIssue c i).start v args ws).pastWord c.take i c.addr)) : Starts i s c v args ws := by
  refine ⟨_, he, ?_, (start_started _ v v args ws [] none rfl).past _ _ _, ?_⟩
  · exact (pastWord_stands h ((start_takes ..).trans hv)).congr hv
  · exact startsOnly_past i c.addr (start_only _ v args ws [] none 0).1 fun n => (start_only _ v args ws [] none n).2

/-! ## Words that act once for the take -/

theorem acts_issues {i : Instr} {s : State} {c : Cur} {ops : List (Sel × Nat)} {rep : Nat × Nat}
    (h : acts i s c ops rep = true) : issues i s c = true := by
  simp only [acts, Bool.and_eq_true] at h; exact h.1.1.1

/-- A word that acts has its body's effect, with its reporting lane's thread. -/
theorem acts_onceWord {i : Instr} {s : State} {c : Cur} {ops : List (Sel × Nat)} {rep : Nat × Nat}
    (h : acts i s c ops rep = true) (body : WordCtx → State → Nat → WordRes) :
    onceWord i s ops body = .next ((body (s.atIssue c i) (s.begun c i) rep.2).settle (s.begun c i) c i) := by
  have hi := acts_issues h
  simp only [acts, Bool.and_eq_true, decide_eq_true_eq, beq_iff_eq] at h
  obtain ⟨⟨⟨-, hp⟩, hr⟩, ho⟩ := h
  have hm : macroOp (s.atIssue c i) (s.begun c i) = none := by
    have e : ((s.begun c i).take (s.atIssue c i).tk).progress = 0 := hp
    simp [macroOp, e]
  unfold onceWord
  rw [issues_runWord hi]
  simp only [hm, hr, ho]
  rfl

end Sys2Proof.Machine
end

