-- ==== Sys2Proof/Tests/Slice0.lean ====
section
/-! SUPPORT. Tests on single words and steps, and witnesses for the hypotheses of the statements. -/

set_option Elab.async false

namespace Sys2Proof.Tests

open Sys2Proof.Machine

/-! ## States that the tests start from -/

/-- The place of the word that is tested: word 0 of the clause of take 0 at address 0. -/
def at0 : Cur := { take := 0, addr := 8, pos := 0 }

/-- The state in which instruction `i` has been fetched as the word of take 0, changed by `f`. -/
def ready (i : Instr) (f : State → State) : State :=
  { f (State.reset.place ((encode i).getD 0) i) with cur := some at0, agenda := [] }

/-- The next state; the machine after reset where there is none. -/
def after : Host.Outcome State Fault Refusal → State
  | .next t => t
  | _ => State.reset

/-- A word of format T. -/
def tw (mod d a b c : Nat) : TWord :=
  { mod := BitVec.ofNat 4 mod, d := BitVec.ofNat 9 d, nw := false, a := BitVec.ofNat 9 a, b := BitVec.ofNat 9 b
    c := BitVec.ofNat 9 c, pg := 0, pn := false, dist := 0, cue := 15, xm := 0 }

/-- A word of format I. -/
def iw (d a imm : Nat) : IWord :=
  { d := BitVec.ofNat 9 d, nw := false, a := BitVec.ofNat 9 a, imm := BitVec.ofNat 32 imm, pg := 0, dist := 0 }

/-- A word of format M. -/
def mw (mod d a s imm ex : Nat) : MWord :=
  { mod := BitVec.ofNat 4 mod, d := BitVec.ofNat 9 d, nw := false, a := BitVec.ofNat 9 a, s := BitVec.ofNat 6 s
    imm := BitVec.ofNat 12 imm, pg := 0, pn := false, dist := 0, cue := 15, ex := BitVec.ofNat 4 ex }

/-- A word of format J. -/
def jw (mod d a : Nat) (tgt : Int) : JWord :=
  { mod := BitVec.ofNat 4 mod, d := BitVec.ofNat 9 d, a := BitVec.ofNat 9 a, tgt := BitVec.ofInt 30 tgt, pg := 0, pn := false }

/-- Main register `k` of thread `th` holds `x`. -/
def setV (th k : Nat) (x : Nat) (s : State) : State := s.modThread th fun t => t.setReg k (BitVec.ofNat 32 x)

/-- Uniform register `k` of scene 0 holds `x`. -/
def setU (k : Nat) (x : Nat) (s : State) : State := s.modScene 0 fun c => c.setUni k (BitVec.ofNat 32 x)

/-- The values on their way to registers, without latches. -/
def results (t : State) : List (Dest × DWord) := (t.pend.filter fun p => match p.write.dest with
  | .b _ => false
  | _ => true).map fun p => (p.write.dest, p.write.value)

/-- A second thread beside the first, in lane 1 of the same take. -/
def two (s : State) : State :=
  { s with
    threads := s.threads ++ [{ s.thread 0 with tid := 1, slot := 1 }]
    takes := s.takes.modify 0 fun t => { t with lanes := [(0, 0), (1, 1)] }
    scenes := s.scenes.modify 0 fun c => { c with threads := [0, 1], nthr := 2, cap := 2, nextTid := 2 } }

/-- A member of a cast. -/
def mem0 (th since : Nat) (arrived waiting : Option Nat) : Member :=
  { thread := th, rank := th, since := since, arrived := arrived, waiting := waiting, again := none, swap := false, pack := false, mark := none }

/-- A cast of key 5 in phase 3, with core 0 as its core 0 and core 1 as its core 1. -/
def cast0 (ms : List Member) : Cast :=
  { ctx := 0, die := 0, key := 5, live := true, rankCtr := 2, phase := 3, members := ms, nums := [(0, 0), (1, 1)], free := [] }

/-- Memory with the bytes `bs` from `a` on, over bytes that are zero where `bs` is. -/
def lay (m : Memory) (a : Nat) : List Byte → Memory
  | [] => m
  | b :: bs => lay (if b == 0 then m else m.put a b) (a + 1) bs

/-- Page `k` of VA maps frame `f` of page type `cm` for context 0, with write and atomic permission: the tables stand in
frame 1, the leaf in the table at 0x14000. -/
def mapPage (k f cm : Nat) (s : State) : State :=
  let s := s.setFrameTag f (mkTag cm false true 0 false)
  { s with mem := lay s.mem (0x14000 + 8 * k) (leBytes 8 (f * 65536 + cm * 64 + 13)) }

/-- Tables for context 0 down to one of the last level. -/
def tables (s : State) : State :=
  let s := s.setFrameTag 1 (mkTag 0 false true 0 false)
  let s := s.setCtx 0 { Ctx.reset with registered := true, ptRoot := 0x10000, bufBase := 0, bufCnt := 4 }
  { s with mem := lay (lay (lay (lay s.mem 0x10000 (leBytes 8 (0x110 * 65536 + 1))) 0x11000 (leBytes 8 (0x120 * 65536 + 1)))
      0x12000 (leBytes 8 (0x130 * 65536 + 1))) 0x13000 (leBytes 8 (0x140 * 65536 + 1)) }

/-- A buffer record of context 0: its base, extent and rights, of 4-byte elements. -/
def record (base extent rights : Nat) : Nat :=
  base + extent * 2 ^ 64 + 2 * 2 ^ 160 + rights * 2 ^ 168 + 2 ^ 207

/-- Record `k` of the buffer table at VA 0. -/
def setRec (k r : Nat) (s : State) : State := { s with mem := lay s.mem (0x20000 + 32 * k) (leBytes 32 r) }

/-- Context 0 with four pages: the SC page of the buffer table at VA 0 (frame 2), then an SC, an RC and a WO page (frames 3
to 5) and an IP page (frame 6); record 1 covers the SC page, 2 the RC page, 3 the WO page, each of 1024 bytes. -/
def mapped (s : State) : State :=
  setRec 3 (record 0x30000 1024 7) (setRec 2 (record 0x20000 1024 7) (setRec 1 (record 0x10000 1024 7)
    (mapPage 4 6 3 (mapPage 3 5 2 (mapPage 2 4 1 (mapPage 1 3 0 (mapPage 0 2 0 (tables s))))))))

/-- The header of a coded surface of 16 by 16 8-bit samples: directory at 128, slabs at 256, spill area at 512, hints at 768, no
reference filled, in the given state. -/
def surfHdr (state : Nat) : Nat :=
  15 * 2 ^ 8 + 15 * 2 ^ 22 + 128 * 2 ^ 64 + 256 * 2 ^ 96 + 128 * 2 ^ 128 + 512 * 2 ^ 160 + 256 * 2 ^ 192 + 64 * 2 ^ 224 + 768 * 2 ^ 256 +
    state * 2 ^ 320 + (2 ^ 64 - 1) * 2 ^ 416

/-- Such a surface in the RC page, its directory with no record. -/
def inRcPage (state : Nat) (s : State) : State :=
  let entry := leBytes 64 (0xFFFF * 2 ^ 80)
  { s with mem := lay (lay s.mem 0x40000 (leBytes 128 (surfHdr state))) 0x40080 (entry ++ entry) }
def surface (state : Nat) (s : State) : State := inRcPage state (mapped s)

/-- A kernel entry: code at VA 0 of 4096 bytes, its one entry listed at VA 0x10180, at least 8 registers. -/
def kernelEntry : Nat := 4096 * 2 ^ 64 + 0x10180 * 2 ^ 192 + 2 ^ 256 + 8 * 2 ^ 288 + 2 ^ 311

/-- A scene node of that kernel with one thread, in a task state, on any die. -/
def sceneNode (state : Nat) : Nat := 1 + state * 2 ^ 8 + 7 * 2 ^ 19 + 2 ^ 256 + 2 ^ 268 + 8 * 2 ^ 280

/-- The context with a kernel table of one entry at VA 0x10100 and a task area of 8 records at VA 0x10200. -/
def tasked (node : Nat) (s : State) : State :=
  let s := (mapped s).modCtx 0 fun c => { c with kTab := 0x10100, ktCnt := 1, taskBase := 0x10200, taskCnt := 8 }
  { s with mem := lay (lay s.mem 0x30100 (leBytes 64 kernelEntry)) 0x30240 (leBytes 64 node) }

/-- A pass buffer of a 64 by 64 target in the RC page, in the given state, with its bin area at 128 and record 1 as its template. -/
def passBuf (state done : Nat) (s : State) : State :=
  { s with mem := lay s.mem 0x40000 (leBytes 128 (63 + 63 * 2 ^ 14 + 0x3F800000 * 2 ^ 32 + 2 ^ 64 + done * 2 ^ 96 + 128 * 2 ^ 128 + 896 * 2 ^ 160 + state * 2 ^ 192)) }

/-- The pass of that buffer. -/
def pass0 (state : Nat) : Pass :=
  { ctx := 0, buf := 2, scene := 0, die := 0, part := 0, core := 0, state := state, tris := [], used := 0, final := [] }

/-- The supervisor's translations on die 0 go through the same tables, its buffer table stands at VA 0. -/
def supMapped (s : State) : State := (mapped s).modDie 0 fun d => { d with sPtRoot := 0x10000, sBufBase := 0, sBufCnt := 4 }

/-! ## Words of the spec's encodings (R133 to R147, and the listings of its programs) -/

/-- Words and the instructions that they stand for. -/
def decodesTo (xs : List (Nat × Instr)) : Bool := xs.all fun x => decide (decodeTableWord 64 x.1 = some x.2)

/-- R147: `FFMA v4, v1, v2, v3` under p3 with its cue flag, distance and rounding mode; `LDG.n32.acq v9, [s2: v7 + 0x40]
+cf1`; `IADDI v3, v3, -16`; a branch back by 8 words under !p2. -/
theorem test_decode_examples : decodesTo [
    (0x4B0020020201B241, .ffma { tw 0 4 1 2 3 with pg := 3, dist := 2, cue := 4, xm := 1 }),
    (0x7820480E10200012, .ldg { mw 2 9 7 2 0x40 2 with cue := 1 }),
    (0x0401807FFFFFFE00, .iaddi (iw 3 3 0xFFFFFFF0)),
    (0x30000003FFFFFF85, .bra { jw 0 0 0 (-8) with pg := 2, pn := true })] = true := by decide +kernel

/-- The words of the base-two exponential. -/
theorem test_decode_exponential : decodesTo [
    (0x78200AA408000000, .ldg { mw 2 1 0x152 1 0 0 with cue := 0 }),
    (0x510AC80200C080F0, .fclass (tw 0 0x159 1 0 0x181)),
    (0x220012A001AC82F0, .sel { tw 0 2 0x150 1 0x159 with dist := 2 }),
    (0x52001804000003F0, .frnd { tw 0 3 2 0 0 with dist := 3 }),
    (0x49002004030003F0, .fsub { tw 0 4 2 3 0 with dist := 3 }),
    (0x65002806000000F0, .f2i (tw 0 5 3 0 0)),
    (0x5300300800000210, .fexp2f { tw 0 6 4 0 0 with cue := 1, dist := 2 }),
    (0x220042A001AD10F0, .sel { tw 0 8 0x150 1 0x15A with pg := 1 }),
    (0x48004010080013F0, .fadd { tw 0 8 8 8 0 with pg := 1, dist := 3 }),
    (0x5400380C050000F0, .fldexp (tw 0 7 6 5 0)),
    (0x79204AA4100000F0, .stg (mw 2 9 0x152 2 0 0)),
    (0x3500000000000000, .exit (jw 0 0 0 0))] = true := by decide +kernel

/-- The words of the transpose and of the ternary tile. -/
theorem test_decode_tiles : decodesTo [
    (0x3801061C00000000, .join (jw 0 32 0x187 0)),
    (0x8E00000602000000, .feset { mw 0 0 3 0 1024 0 with cue := 0 }),
    (0x8A20301209000010, .cpy { mw 2 6 9 1 512 0 with cue := 1 }),
    (0x81A0C01404000030, .ldsmt { mw 10 24 10 0 2048 0 with cue := 3 }),
    (0x892000060000A0F0, .fencex { mw 2 0 3 0 1 0 with pg := 2 }),
    (0x9D50022915000020, .mstream { tw 5 0 0x114 0x115 0 with cue := 2 }),
    (0x2A092013800043F0, .umov { tw 0 0x124 9 0x180 0 with pg := 4, dist := 3 }),
    (0xA100430600000050, .taskputResv { tw 0 8 0x183 0 0 with cue := 5 }),
    (0xA210001A00000030, .taskarmDec { tw 1 0 13 0 0 with cue := 3 }),
    (0x9B00023512900020, .opldg { tw 0 0 0x11A 0x112 0x120 with cue := 2 })] = true := by decide +kernel

/-- The words of the coded pixels, and a formula's binding. -/
theorem test_decode_surfaces : decodesTo [
    (0xA800122716000010, .acbind { tw 0 2 0x113 0x116 0 with cue := 1 }),
    (0xB0002A2601010010, .sld { tw 0 5 0x113 1 2 with cue := 1 }),
    (0x89300010000400F0, .fencex (mw 3 0 8 0 8 0)),
    (0xB410022514000000, .ssealOpen { tw 1 0 0x112 0x114 0 with cue := 0 }),
    (0xB34A822581C100F0, .sstmvHint (tw 4 0x150 0x112 0x181 0x182)),
    (0xB2005A2781C080F0, .sstc (tw 0 11 0x113 0x181 0x181)),
    (0xB820300000000010, .visq { tw 2 6 0 0 0 with cue := 1 }),
    (0xB700022408000000, .primemitTri { tw 0 0 0x112 8 0 with cue := 0 })] = true := by decide +kernel

/-- The words of the programs of the supervisor. -/
theorem test_decode_supervisor : decodesTo [
    (0xEE0002512A000030, .ptwr { tw 0 0 0x128 0x12A 0 with cue := 3 }),
    (0xE400222915010040, .resumeRec { tw 0 4 0x114 0x115 2 with cue := 4 }),
    (0x7E00280006000010, .atoms { mw 0 5 0 0 0xC00 0 with cue := 1 }),
    (0x3A20000000000000, .barWait (jw 2 0 0 0)),
    (0xE800422806000020, .haltb { tw 0 8 0x114 6 0 with cue := 2 }),
    (0xE900522806900030, .dump { tw 0 10 0x114 6 0x120 with cue := 3 })] = true := by decide +kernel

/-- R138: a `LOOPN` of four words. -/
theorem test_decode_loopn : (decodeTableWord 256
    (0x6F0701050000F000 + 0x183F * 2 ^ 64 + 0x0000000200040001 * 2 ^ 128)).isSome = true := by decide +kernel

/-! ## Ill-formed terms (R131) -/

/-- The causes that the decoder reports for words. -/
theorem test_refused_words : ([0xFF00000000000000, 0x3500000000000001, 0x0300000000000001, 0x0300000000000C00].map fun n =>
    decodeWord n) = [.illegal 3, .illegal 9, .illegal 8, .illegal 9] := by decide +kernel

/-- One ill-formed term for each check of a selector field: a reserved selector, an odd pair, an FP constant as a pair, a
uniform quad, a destination that is a predicate, a predicate that is a register, a carry, a uniform operand, an `s` register
that is not a multiple, the data of an atomic, of a load and of a call, a run past v255 and one that is not aligned, and an
element out of its range. -/
theorem test_ill_formed_selectors : ([
    Instr.iadd (tw 0 5 0x10C 2 0), .mov (tw 3 4 1 0 0), .mov (tw 3 4 0x1C1 0 0), .raybox (tw 0 4 0x114 16 0),
    .iadd (tw 0 0x159 1 2 0), .plop (tw 0 5 0x158 0x158 0), .iaddc (tw 0 5 1 2 3), .umov (tw 0 0x114 1 0x158 0),
    .opldg (tw 0 0 1 0x113 2), .atomg (mw 0 0x150 1 0 0 0), .ldg (mw 3 5 1 0 0 0), .call (jw 0 5 0 2),
    .raybox (tw 0 4 250 16 0), .raybox (tw 0 5 16 24 0), .rdspec (tw 0 5 0x1A0 0 0)].map fun i =>
      decide i.wellFormed) = List.replicate 15 false := by decide +kernel

/-- Ill-formed terms for the other checks: MOD, XM, EX and the LOOPN fields, an unused operand, PN without PG, NW without D,
a reserved cue, and a cue flag on none of these: the same words without the fault are well formed. -/
theorem test_ill_formed_fields : ([
    Instr.fence (mw 9 0 0 0 0 0), .iadd { tw 0 5 1 2 0 with xm := 1 }, .ldg (mw 2 5 1 0 0 15), .iadd (tw 0 5 1 2 3),
    .iadd { tw 0 5 1 2 0 with pn := true }, .nop { tw 0 0 0 0 0 with nw := true }, .frcp { tw 0 5 1 0 0 with cue := 12 },
    .iadd (tw 0 5 1 2 0), .ldg (mw 2 5 1 0 0 0), .nop (tw 0 0 0 0 0), .frcp (tw 0 5 1 0 0)].map fun i => decide i.wellFormed) =
    [false, false, false, false, false, false, false, true, true, true, true] := by decide +kernel

/-- `LOOPN` with a reserved type, with reserved flags, and without a fault. -/
theorem test_ill_formed_loopn : ([
    Instr.loopn { lWord 0 with typ := 15 }, .loopn { lWord 0 with flags := 8 }, .loopn { lWord 0 with mbz := 1 },
    .loopn { lWord 0 with eop := 1, typ := 4, cue := 15 }].map fun i => decide i.wellFormed) = [false, false, false, true] := by
  decide +kernel

/-! ## One step each, with results worked out in the spec or by hand from its rules -/

/-- The results that an instruction of take 0 sends to registers. -/
def runs (i : Instr) (f : State → State) : List (Dest × DWord) := results (after (exec i (ready i f)))

/-- The flags of thread 0 after an instruction. -/
def flags (i : Instr) (f : State → State) : Word := ((after (exec i (ready i f))).thread 0).fpsr

/-- The writes of the operation that an instruction has started. -/
def opWrites (i : Instr) (f : State → State) : List (Dest × DWord) :=
  (((after (exec i (ready i f))).ops.getD 0 default).writes).map fun w => (w.dest, w.value)

/-- v1 to v3 of thread 0. -/
def abc (a b c : Nat) (s : State) : State := setV 0 1 a (setV 0 2 b (setV 0 3 c s))

/-- Threads 0, 1, … in the given lanes of take 0, with `f lane` in v1. -/
def inLanes (ls : List Nat) (f : Nat → Nat) (s : State) : State :=
  { s with
    threads := ls.map fun l => ({ s.thread 0 with slot := l } : Thread).setReg 1 (BitVec.ofNat 32 (f l))
    takes := s.takes.modify 0 fun t => { t with lanes := (List.range ls.length).map fun k => (ls.getD k 0, k) } }

/-- R154: a signed sum past the largest value wraps, and saturates under `.sat` with the flag SAT. -/
theorem test_iadd : runs (.iadd (tw 0 5 1 2 0)) (abc 0x7FFFFFFF 1 0) = [(.v 5, 0x80000000)] ∧
    runs (.iadd (tw 8 5 1 2 0)) (abc 0x7FFFFFFF 1 0) = [(.v 5, 0x7FFFFFFF)] ∧
    flags (.iadd (tw 8 5 1 2 0)) (abc 0x7FFFFFFF 1 0) = 0x20 := by decide +kernel

/-- R154: high products of −1 by 2, signed and unsigned; the difference 0 − 1; 2 × 3 + 1; minima by type. -/
theorem test_integer_words : runs (.imulh (tw 0 5 1 2 0)) (abc 0xFFFFFFFF 2 0) = [(.v 5, 0xFFFFFFFF)] ∧
    runs (.imulh (tw 1 5 1 2 0)) (abc 0xFFFFFFFF 2 0) = [(.v 5, 1)] ∧ runs (.isub (tw 0 5 1 2 0)) (abc 0 1 0) = [(.v 5, 0xFFFFFFFF)] ∧
    runs (.imad (tw 0 5 1 2 3)) (abc 2 3 1) = [(.v 5, 7)] ∧ runs (.imin (tw 0 5 1 2 0)) (abc 0xFFFFFFFF 1 0) = [(.v 5, 0xFFFFFFFF)] ∧
    runs (.imax (tw 1 5 1 2 0)) (abc 0xFFFFFFFF 1 0) = [(.v 5, 0xFFFFFFFF)] ∧
    runs (.isad (tw 0 5 1 2 3)) (abc 3 5 10) = [(.v 5, 12)] := by decide +kernel

/-- R156: a carry out of the low word of a sum, and a borrow, in p3. -/
theorem test_carry : runs (.iaddc { tw 1 10 1 2 0x15B with xm := 4 }) (abc 0xFFFFFFFF 1 0) = [(.v 10, 0), (.p 3, 1)] ∧
    runs (.isubb { tw 1 10 1 2 0x15B with xm := 4 }) (abc 0 1 0) = [(.v 10, 0xFFFFFFFF), (.p 3, 1)] := by decide +kernel

/-- R158: the tables of the first source, of the second, and of the old destination. -/
theorem test_lop3 : ([(0xAA, 0x0F0F), (0xCC, 0x00FF), (0xF0, 0x3333), (0x88, 0x000F)].all fun p =>
    runs (.lop3 (tw 0 3 1 2 p.1)) (abc 0x0F0F 0x00FF 0x3333) == [(.v 3, BitVec.ofNat 64 p.2)]) = true := by decide +kernel

/-- R159: shifts by the whole width, of a negative number, and of a pair of words. -/
theorem test_shifts : runs (.shl (tw 1 5 1 2 0)) (abc 1 32 0) = [(.v 5, 0)] ∧
    runs (.shr (tw 0 5 1 2 0)) (abc 0x80000000 40 0) = [(.v 5, 0xFFFFFFFF)] ∧
    runs (.shf (tw 0 5 1 2 3)) (abc 0x12345678 0x9ABCDEF0 16) = [(.v 5, 0x56789ABC)] ∧
    runs (.shf (tw 1 5 1 2 3)) (abc 0x12345678 0x12345678 8) = [(.v 5, 0x78123456)] := by decide +kernel

/-- R160, R161: fields of 4 bits at bit 4, with and without sign, a field put in, counts and a reversal. -/
theorem test_bits : runs (.bfx (tw 1 5 1 2 0)) (abc 0xF5 0x0404 0) = [(.v 5, 0xF)] ∧
    runs (.bfx (tw 0 5 1 2 0)) (abc 0xF5 0x0404 0) = [(.v 5, 0xFFFFFFFF)] ∧
    runs (.bfi (tw 0 5 1 2 3)) (abc 0xA 0xFFFFFFFF 0x0404) = [(.v 5, 0xFFFFFFAF)] ∧
    runs (.popc (tw 1 5 1 0 0)) (abc 0xF0F 0 0) = [(.v 5, 8)] ∧ runs (.clz (tw 1 5 1 0 0)) (abc 0 0 0) = [(.v 5, 32)] ∧
    runs (.brev (tw 1 5 1 0 0)) (abc 3 0 0) = [(.v 5, 0xC0000000)] := by decide +kernel

/-- R163: 99 is below 100 and −1 is not, unsigned; R162: −1 is below 1, signed. -/
theorem test_compares : runs (.icmpi (iw 0x32 1 100)) (abc 99 0 0) = [(.p 2, 1)] ∧ runs (.icmpi (iw 0x32 1 100)) (abc 0xFFFFFFFF 0 0) = [(.p 2, 0)] ∧
    runs (.icmp (tw 2 0x15A 1 2 0x158)) (abc 0xFFFFFFFF 1 0) = [(.p 2, 1)] := by decide +kernel

/-- R166 to R169, the worked example of the lane operations on colours 0 to 3 of a partial take: the last lane keeps its own
value, a guarded-off neighbour gives the fill value, and a ballot and a sum see the active lanes. -/
theorem test_lanes : (runs (.shfl (tw 1 2 1 0x181 1)) (inLanes [0, 1, 2, 3] (10 * ·))).map (·.2) = [10, 20, 30, 30] ∧
    (runs (.ballot (tw 0 4 1 0 0)) (inLanes [0, 1, 2, 3] fun l => (l + 1) % 2)).map (·.2) = [5, 5, 5, 5] ∧
    (runs (.redux (tw 0 5 1 0 0)) (inLanes [0, 2, 4] (10 * ·))).map (·.2) = [60, 60, 60] := by decide +kernel

/-- R202, R203, the worked example of a quad without its last member: lanes 4, 5 and 6 hold 1.0, 3.5 and 2.0. -/
theorem test_quads : (let f := inLanes [4, 5, 6] fun l => [0x3F800000, 0x40600000, 0x40000000].getD (l - 4) 0
    (runs (.derivx (tw 1 2 1 0 0)) f).map (·.2) = [0x40200000, 0x40200000, 0x40200000] ∧
    (runs (.derivy (tw 1 3 1 0 0)) f).map (·.2) = [0x3F800000, 0x3F800000, 0x3F800000] ∧
    (runs (.qswap (tw 0 4 1 0 0)) f).map (·.2) = [0x40600000, 0x3F800000, 0x40000000]) := by decide +kernel

/-- R185: the examples of `.sat`: 0.75 + 0.5, and −infinity. -/
theorem test_fadd_sat : ([(0x3F000000, 0x3F800000), (0xFF800000, 0), (0x7FC00000, 0)].all fun p =>
    let i := Instr.fadd { tw 0 2 1 2 0 with xm := 4 }
    runs i (abc 0x3F400000 p.1 0) == [(.v 2, BitVec.ofNat 64 p.2)] && flags i (abc 0x3F400000 p.1 0) == 0) = true := by decide +kernel

/-- R110, R111: 1 + 2^−24 ties to even, rounded up it is the next number; the largest number doubled overflows. -/
theorem test_rounding : runs (.fadd (tw 0 5 1 2 0)) (abc 0x3F800000 0x33800000 0) = [(.v 5, 0x3F800000)] ∧
    flags (.fadd (tw 0 5 1 2 0)) (abc 0x3F800000 0x33800000 0) = 0x10 ∧
    runs (.fadd { tw 0 5 1 2 0 with xm := 2 }) (abc 0x3F800000 0x33800000 0) = [(.v 5, 0x3F800001)] ∧
    runs (.fadd (tw 0 5 1 2 0)) (abc 0x7F7FFFFF 0x7F7FFFFF 0) = [(.v 5, 0x7F800000)] ∧
    flags (.fadd (tw 0 5 1 2 0)) (abc 0x7F7FFFFF 0x7F7FFFFF 0) = 0x14 := by decide +kernel

/-- R189: the class mask 0x181 takes a NaN and both infinities, and no number. -/
theorem test_fclass : ([(0x7FC00001, 1), (0x7F800000, 1), (0xFF800000, 1), (0x3F800000, 0), (0, 0)].all fun p =>
    runs (.fclass (tw 0 0x15A 1 0 0x181)) (abc p.1 0 0) == [(.p 2, BitVec.ofNat 64 p.2)]) = true := by decide +kernel

/-- R114, R198, the worked example of packing four E4M3 values: each word over the word before it, and the flags of each. -/
theorem test_pack : ([(0, 0x3FC00000, 0, 0x3C, 0), (1, 0x3A83126F, 0x3C, 0x13C, 0x18), (2, 0x43FA0000, 0x13C, 0x7E013C, 0x14),
    (3, 0x7FC00000, 0x7E013C, 0x7F7E013C, 0)].all fun p =>
      let i := Instr.f2fNarrow (tw 4 8 1 (0x180 + p.1) 2)
      runs i (abc p.2.1 p.2.2.1 0) == [(.v 8, BitVec.ofNat 64 p.2.2.2.1)] && flags i (abc p.2.1 p.2.2.1 0) == BitVec.ofNat 32 p.2.2.2.2) =
    true := by decide +kernel

/-- R200: −2.875 at a scale of 10.0 quantises to −29, and −29 at 0.5 gives −14.5. -/
theorem test_quantise : runs (.qnt (tw 1 8 1 2 0)) (fun s => setV 0 8 0x11223344 (abc 0xC0380000 0x41200000 0 s)) = [(.v 8, 0x1122E344)] ∧
    runs (.dqnt (tw 1 5 1 2 0)) (abc 0xE300 0x3F000000 0) = [(.v 5, 0xC1680000)] := by decide +kernel

/-- R206, the worked example of a ray and a triangle: 1.0, 0.25, 0.25 and 1. -/
theorem test_raytri : (let ray := [0x3E800000, 0x3E800000, 0xBF800000, 0, 0, 0x3F800000, 0, 0, 0, 0x3F800000, 0, 0, 0, 0x3F800000, 0]
    let f := fun (s : State) => (List.range 15).foldl (fun (s : State) k => setV 0 (16 + k) (ray.getD k 0) s) s
    runs (.raytri (tw 0 4 16 22 0)) f = [(.v 4, 0x3F800000), (.v 5, 0x3E800000), (.v 6, 0x3E800000), (.v 7, 1)]) := by decide +kernel

/-- R119: the reciprocal of +0 is +infinity, with the flag DZ. -/
theorem test_frcp : opWrites (.frcp (tw 0 5 1 0 0)) (abc 0 0 0) = [(.v 5, 0x7F800000)] := by decide +kernel

/-- R171: a branch back by 8 words goes to its own address less 64 bytes. -/
theorem test_bra : (((after (exec (.bra (jw 0 0 0 (-8))) (ready (.bra (jw 0 0 0 (-8))) fun s => s))).take 0).pc = at0.addr - 64) := by
  decide +kernel

/-- R212: three words of a fill, and the byte before and after them. -/
theorem test_fill : (let c := (after (exec (.fill (tw 0 0 1 2 3)) (ready (.fill (tw 0 0 1 2 3)) (abc 16 0xAB 3)))).scene 0
    c.spRead 12 20 = [0, 0, 0, 0, 0xAB, 0, 0, 0, 0xAB, 0, 0, 0, 0xAB, 0, 0, 0, 0, 0, 0, 0]) := by decide +kernel

/-- R67, R219: a load from memory takes the bytes at the record's base, four times the lane register, and the immediate, little-endian; a store puts them there. -/
theorem test_global : opWrites (.ldg (mw 2 9 2 2 0x40 0)) (fun s => setV 0 2 8 (setU 2 1 (let s := mapped s; { s with
      mem := s.mem.writeN 0x30060 [0x44, 0x33, 0x22, 0x11] }))) = [(.v 9, 0x11223344)] ∧
    (after (exec (.stg (mw 2 9 2 2 0x40 0)) (ready (.stg (mw 2 9 2 2 0x40 0)) fun s => setV 0 9 0x11223344 (setV 0 2 8 (setU 2 1
      (mapped s)))))).mem.readN 0x3005F 6 = [0, 0x44, 0x33, 0x22, 0x11, 0] := by decide +kernel

/-- R96, R97: after a store, and without a `FENCEX` to the copies, a copy may see the granule from before; after one, a copy
that is started later may not, one that was started earlier may. -/
theorem test_fencex : (let i := Instr.sts (mw 2 8 2 0 0 0)
    let s := after (exec i (ready i fun s => setV 0 2 32 (setV 0 8 7 s)))
    let j := Instr.fencex (mw 2 0 2 0 1 0)
    let t := after (exec j (ready j fun u => { u with olds := s.olds, ops := [default] }))
    let copy := fun (k : Nat) => ({ extReader with cls := 1, via := 1, agent := .op k, threads := [0], die := 0, first := k } : Reader)
    s.olds.map (fun y => (y.space, y.gran, y.bytes, y.ordered (copy 1))) = [(.sp 0, 2, List.replicate 16 0, false)] ∧
    t.olds.map (fun y => (y.ordered (copy 0), y.ordered (copy 1))) = [(false, true)]) := by decide +kernel

/-- R224: an atomic addition gives the old value and leaves the sum; R217, the example of four lanes on one word. -/
theorem test_atomic : (let i := Instr.atoms (mw 0 1 2 0 0 0)
    let s := ready i fun s => (inLanes [0, 3, 5, 9] (fun l => [1, 0, 0, 2, 0, 3, 0, 0, 0, 4].getD l 0) s).modScene 0 fun c =>
      { c with sp := c.sp.writeN 0 [100] }
    let t := after (exec i s)
    ((t.ops.getD 0 default).writes.map (·.value)) = [100, 101, 103, 106] ∧ (t.scene 0).spNum 0 4 = 110) := by decide +kernel

/-- R69: rows 1 to 4 at a stride of 256 bytes under SW256. -/
theorem test_swizzle : [0x100, 0x200, 0x300, 0x400].map (fun a => swz a 2) = [0x110, 0x220, 0x330, 0x440] := by decide +kernel

/-- R127, the worked example of a drain: −3.875, with a bias −2.875, requantised 0xE3. -/
theorem test_drain : (drainOut (2 ^ 32 - 31) 0x3F000000 0x3E80 none 0 0) = (0xC0780000, 0) ∧
    (drainOut (2 ^ 32 - 31) 0x3F000000 0x3E80 (some 0x3F800000) 0 0) = (0xC0380000, 0) ∧
    ((drainOut (2 ^ 32 - 31) 0x3F000000 0x3E80 (some 0x3F800000) 2 0x41200000).1 % 256, (drainOut (2 ^ 32 - 31) 0x3F000000 0x3E80
      (some 0x3F800000) 2 0x41200000).2) = (0xE3, 0) := by decide +kernel

/-- R324, the worked example of a TXF block: residuals 1, 1, 3, 3 in each row. -/
theorem test_residuals : (List.range 4).map (fun xi => resid [(0, 2), (1, -1)] 6 xi 3) = [1, 1, 3, 3] ∧
    (List.range 4).map (fun xi => clampDep 8 (254 + resid [(0, 2), (1, -1)] 6 xi 0)) = [255, 255, 255, 255] := by decide +kernel

/-- R345, the worked example of a triangle that covers one pixel, at depth 0.5. -/
theorem test_coverage : (let t : Tri := { x := [256, 768, 256], y := [256, 256, 768], z := [0x3F000000, 0x3F400000, 0x3E800000], id := 0x2A }
    ([(0, 0), (1, 0), (0, 1), (2, 1), (1, 2)].all fun p => !t.covers p.1 p.2) = true ∧ t.covers 1 1 = true ∧ t.depth 1 1 = 0x3F000000 ∧
    t.depth 1 0 = 0x3F200000) := by decide +kernel

/-- R373, the worked example of a compressed line: BEXP 126. -/
theorem test_compression : (let line := (List.range 64).flatMap fun k => [if k == 5 then 0x00 else 0x80, if k == 5 then 0xBF else (0x3F : Byte)]
    lineFits line = true ∧ lineBexp line = 126 ∧ lineFits ([0, 0] ++ line.drop 2) = false) := by decide +kernel

/-- R303: the T5 column of the worked example: digits 1 and 2 give the codes 0b01 and 0b11. -/
theorem test_t5 : (t5Column (7 :: List.replicate 25 0)) = 0x0D :: List.replicate 31 0 := by decide +kernel

/-- R366, the worked example of the hash: stack 1 under version 0. -/
theorem test_hash : State.reset.stackOf 0x200100080 = 1 ∧ State.reset.channelOf 0x200100080 = 0 := by decide +kernel

/-- The digest of the empty message in the published standard (log entry 13). -/
theorem test_sha256 : beNat (sha256 []) = 0xE3B0C44298FC1C149AFBF4C8996FB92427AE41E4649B934CA495991B7852B855 := by decide +kernel

/-- R401: PARKT and PARKFRAC after reset. -/
theorem test_rdsys : State.reset.readSys 0 0x003 0 = 20 ∧ State.reset.readSys 3 0x002 0 = 32 := by decide +kernel

/-- R33: a step of the placed machine runs the word: `IADD` of two registers. -/
theorem test_step : (let i := Instr.iadd (tw 0 5 1 2 0)
    results (after (step (abc 5 7 0 (State.reset.place ((encode i).getD 0) i)))) = [(.v 5, 12)]) := by decide +kernel

/-! ## Witnesses: for each statement with hypotheses, states and operands that meet them -/

/-- The word issues, and `p` holds of the state at issue and of the word as it issues. -/
def meets (i : Instr) (f : State → State) (p : State → WordCtx → Bool) : Bool :=
  issues i (ready i f) at0 && p ((ready i f).begun at0 i) ((ready i f).atIssue at0 i)

/-- The word acts once for its take with the given operands uniform, and `p` holds. -/
def meetsA (i : Instr) (ops : List (Sel × Nat)) (f : State → State) (p : State → WordCtx → Bool) : Bool :=
  acts i (ready i f) at0 ops (0, 0) && p ((ready i f).begun at0 i) ((ready i f).atIssue at0 i)

/-- The value of a fallible read, or a failed hypothesis. -/
def okThen {α ε : Type} (r : Except ε α) (p : α → Bool) : Bool :=
  match r with
  | .ok a => p a
  | .error _ => false

/-- The same of an optional value. -/
def someThen {α : Type} (r : Option α) (p : α → Bool) : Bool :=
  match r with
  | some a => p a
  | none => false

/-- Take 0 has lane 0 only. -/
def oneLane (s : State) : State := { s with takes := s.takes.modify 0 fun t => { t with lanes := [(0, 0)] } }

/-- Two threads in a cast with the given members, thread 0 in the take. -/
def withCast (ms : List Member) (s : State) : State := { oneLane (two s) with casts := [cast0 ms] }

/-- Every write of memory, or of a scene's scratchpad, is ordered before the reader. -/
def sees (s : State) (r : Reader) (space : Space) : Bool := s.olds.all fun y => y.space != space || y.ordered r

/-- Lane 0, thread 0. -/
def l0 : Nat × Nat := (0, 0)

/-- Per-lane words issue on two lanes, with D a main register, an operand register, a predicate and a uniform register,
the ray words with a main register (PerLaneWordsComplete, PerLaneWordsFrame, and the words of the statements on values). -/
theorem witness_per_lane_words : ([5, 0x101, 0x15A, 0x114].all fun d =>
    (intWords (tw 0 d 1 2 3) ++ floatWords (tw 0 d 16 24 3) ++ immWords (iw d 1 7) ++
      [Instr.plop (tw 0 d 0x158 0x159 0xD8), .rdspecClr (tw 1 d 0x190 0 0), .icmpi (iw 2 1 7), .nop (tw 0 0 0 0 0),
        .pmovUnpack (tw 1 0 1 0 0), .umov (tw 0 d 1 2 0)]).all fun i =>
      issues i (ready i two) at0 || (d != 5 && (i.opcode == 0x6D || i.opcode == 0x6E))) = true := by decide +kernel

/-- IntegerArithmetic: the wrapping types 0 and 1, the saturating type 8, and carries into and out of a predicate. -/
theorem witness_arithmetic : ([0, 1, 8].all fun m => ([Instr.iadd (tw m 5 1 2 0), .isub (tw m 5 1 2 0), .iadd3 (tw m 5 1 2 3),
    .imul (tw m 5 1 2 0), .iaddc (tw 0 5 1 2 0x15F), .isubb { tw 0 5 1 2 0x159 with xm := 4 }].all fun i =>
      issues i (ready i id) at0)) = true := by decide +kernel

/-- MovesLogicAndShifts and PredicatesAndCompares: type 1 of a shift, predicates as sources, a pair of comparison types, every
condition of `ICMPI`. -/
theorem witness_predicates : (meets (.plop (tw 0 0x15F 0x158 0x159 0xD8)) id fun u _ => (u.thread 0).pred 0) = true ∧
    ([Instr.shl (tw 1 5 1 2 0), .shr (tw 1 5 1 2 0), .sel (tw 0 5 1 2 0x159), .pmovPack (tw 0 5 0 0 0),
      .pmovUnpack (tw 1 0 1 0 0), .icmp { tw 5 0x159 1 2 0x158 with xm := 4 }, .icmp (tw 0 5 1 2 0x158)].all fun i =>
      issues i (ready i id) at0) = true ∧
    ((List.range 10).all fun k => issues (.icmpi (iw (8 * k + 7) 1 5)) (ready (.icmpi (iw (8 * k + 7) 1 5)) id) at0) = true := by
  decide +kernel

/-- NopDoesNothing. -/
theorem witness_nop : issues (.nop (tw 0 0 0 0 0)) (ready (.nop (tw 0 0 0 0 0)) two) at0 = true := by decide +kernel

/-- UniformWords: the first and the last uniform register, with a source lane that is active and one that is not. -/
theorem witness_uniform : ([0x110, 0x14F].all fun d => [1, 2].all fun j =>
    (meets (.umov (tw 0 d 1 2 0)) (fun s => setV 0 2 j (setV 1 2 j (two s))) fun u x =>
      x.lanes.head? == some l0 && (u.thread 0).scene < u.scenes.length && (u.opnd 0 2).toNat == j) &&
    (meets (.uiadd (tw 0 d 1 2 0)) two fun _ x => x.lanes.head? == some l0)) = true := by decide +kernel

/-- LaneExchangeAndVotes: two lanes, a source lane that is active and one that is not, and each test. -/
theorem witness_exchange : ([0, 1, 31].all fun j => meets (.shfl (tw 0 5 1 2 3)) (fun s => setV 0 2 j (two s))
      fun _ x => x.lanes == [(0, 0), (1, 1)]) = true ∧
    ([0, 1, 2].all fun m => (meets (.qswap (tw m 5 1 0 0)) two fun _ x => x.lanes.length == 2) &&
      meets (.vote (tw m 0x159 1 0 0)) two fun _ x => x.lanes.length == 2) = true ∧
    issues (.ballot (tw 0 5 1 0 0)) (ready (.ballot (tw 0 5 1 0 0)) two) at0 = true := by decide +kernel

/-- SpecialValues: each special value of the statement. -/
theorem witness_special : ([0, 1, 2, 4, 6, 7, 9, 10, 12, 16].all fun k =>
    meets (.rdspec (tw 0 5 (0x180 + k) 0 0)) two fun _ _ => selClass (BitVec.ofNat 9 (0x180 + k)) == .integer) = true ∧
    meets (.rdspecClr (tw 1 5 0x190 0 0)) two (fun _ _ => true) = true := by decide +kernel

/-- FloatSpecialCases: the least NaN payload in one operand, in both, and zeros of both signs. -/
theorem witness_nan : ([(0x7F800001, 0), (0, 0xFFFFFFFF), (0x7F800001, 0x7FC00000)].all fun p =>
    ([Instr.fadd (tw 0 5 1 2 0), .fsub (tw 0 5 1 2 0), .fmul (tw 0 5 1 2 0), .ffma (tw 0 5 1 2 3), .fmin (tw 0 5 1 2 0),
      .fmax (tw 0 5 1 2 0), .fcmp (tw 7 5 1 2 0x158), .fcmp (tw 0 0x159 1 2 0x158), .fclass (tw 0 5 1 0 0x100)].all fun i =>
      meets i (fun s => setV 0 1 p.1 (setV 0 2 p.2 s)) fun u _ =>
        0x7F800000 < (u.opnd 0 1).toNat % 2 ^ 31 || 0x7F800000 < (u.opnd 0 2).toNat % 2 ^ 31)) = true ∧
    ([Instr.fmin (tw 0 5 1 2 0), .fmax (tw 0 5 1 2 0)].all fun i => meets i (fun s => setV 0 2 0x80000000 s) fun u _ =>
      u.opnd 0 1 == 0 && u.opnd 0 2 == 0x80000000) = true ∧
    ([Instr.fadd { tw 0 5 1 2 0 with xm := 4 }, .ffma { tw 0 5 1 2 3 with xm := 4 }].all fun i => meets i (setV 0 1 0xFFFFFFFF) fun u _ =>
      0x7F800000 < (u.opnd 0 1).toNat % 2 ^ 31) = true ∧
    ([Instr.faddi (iw 5 1 0x7FC00001), .fmuli (iw 5 1 0x7FC00001)].all fun i => issues i (ready i id) at0) = true := by
  decide +kernel

/-- Transcendentals: every word, and the special operands. -/
theorem witness_transcendentals : ([Instr.fexp2f (tw 0 5 1 0 0), .frcp (tw 0 5 1 0 0), .frsq (tw 0 5 1 0 0), .fsqrt (tw 0 5 1 0 0),
    .flog2 (tw 0 5 1 0 0), .fsin (tw 0 5 1 0 0), .fcos (tw 0 5 1 0 0), .ftanh (tw 0 5 1 0 0)].all fun i =>
      [0, 0x80000000, 0x7F800000, 0xFF800000, 0x3F800000].all fun a => meets i (setV 0 1 a) fun u _ =>
        u.opnd 0 1 == BitVec.ofNat 32 a) = true := by decide +kernel

/-- TransfersGoToTargets, PerLaneWordsComplete and CallsLink: two lanes, targets at both ends of the offset, under a predicate that leaves one lane. -/
theorem witness_transfers : ([0x1FFFFFFF, -0x20000000, -1].all fun k =>
    (meets (.bra { jw 0 0 0 k with pg := 1 }) (fun s => (two s).modThread 1 fun t => { t with p := 2 }) fun _ x => x.lanes == [(1, 1)]) &&
    (meets (.brx (jw 0 0 1 k)) two fun u _ => (u.opnd 0 1).toNat % 8 == 0) &&
    (meets (.call (jw 0 4 0 k)) two fun u _ => (u.opnd64 0 0).toNat % 8 == 0 && 5 < (u.thread 0).v.length)) = true ∧
    ([Instr.ret (jw 0 0 2 0), .callR (jw 1 4 2 0)].all fun i => meets i (fun s => setV 0 2 64 (two s)) fun u x =>
      x.lanes.all fun l => (u.opnd64 l.2 2).toNat % 8 == 0) = true := by decide +kernel

/-- MisalignedTargetStops. -/
theorem witness_misaligned : ([Instr.ret (jw 0 0 2 0), .callR (jw 1 4 2 0)].all fun i => meets i (setV 0 2 4) fun u x =>
    x.lanes == [l0] && (u.opnd64 0 2).toNat % 8 == 4 && (u.thread 0).place == .take 0) = true := by decide +kernel

/-- PerLaneWordsComplete, ThreadsStartAndEnd, YieldAndSleep, TrapsStop and RegionsAndRanges: two lanes, one with 16 ranges open, no
trace of the context. -/
theorem witness_two_lane_control : ([Instr.exit (jw 0 0 0 0), .reform (jw 0 0 0 0), .reformQuad (jw 1 0 0 0), .join (jw 0 4 1 0),
    .leave (jw 0 0 0 0), .yield (jw 0 0 0 0), .sleep (jw 0 0 1 0), .trap (jw 0 0 1 0),
    .brkpt (jw 0 0 1 0), .rgne (jw 0 0 0 0), .rngpush (jw 0 0 1 0), .rngpop (jw 0 0 0 0)].all fun i =>
      meets i (fun s => (two (setV 0 1 9 s)).modThread 1 fun t => { t with ranges := List.replicate 16 5 }) fun u x =>
        x.lanes.map Prod.snd == [0, 1] && !(u.thread 0).helper && (List.range 4).all fun d => (u.die d).silCfg.toNat % 4 == 0) = true := by
  decide +kernel

/-- ThreadsStartAndEnd: two threads of no cast that exit, and one beside a thread that stays. -/
theorem witness_exit : ([(0, [0, 1]), (1, [1])].all fun p =>
    meets (.exit { jw 0 0 0 0 with pg := BitVec.ofNat 3 p.1 }) (fun s => (two s).modThread 1 fun t => { t with p := 2 }) fun u x =>
      x.lanes.map Prod.snd == p.2 && (x.lanes.all fun l => decide (l.2 < u.threads.length) && (u.thread l.2).place == .take 0 &&
        u.castOf l.2 == none) && (u.scene 0).threads == [0, 1] && !(u.thread 0).gone) = true := by decide +kernel

/-- ReformFiles, with 63 reels of the core in use. -/
theorem witness_reform : ([Instr.reform (jw 0 0 0 0), .reformQuad (jw 1 0 0 0)].all fun i =>
    meets i (fun s => { s with reels := List.replicate 63 { (default : Reel) with live := true, pc := 800 } }) fun u x =>
      x.lanes == [l0] && (u.thread 0).place == .take 0 && !(u.scene x.scene).quad &&
      (u.reels.filter fun r => r.core == x.core && r.live).length < 64) = true := by decide +kernel

/-- ThreadsStartAndEnd: two lanes with room for no thread more, for one and for two, with and without a helper lane, at an entry and
at an address that is none. -/
theorem witness_spawn : (let i := Instr.spawn (jw 0 4 1 (-1))
    [2, 3, 4].all fun cap => [true, false].all fun h => [[0], [64]].all fun es =>
      meets i (fun s => ((two s).modScene 0 fun c => { c with entries := es, cap := cap }).modThread 0 fun t => { t with helper := h })
        fun u x => x.lanes.map Prod.snd == [0, 1] && x.scene == 0 && u.threads.length == 2 && (u.scene 0).nextTid == 2 &&
          (u.scene 0).code == 0 && (u.scene 0).entries == es) = true := by decide +kernel

/-- CastMembership: the key that joins nothing, a key of no cast; a member that leaves, and a thread of no cast. -/
theorem witness_casts : ([0xFFFFFFFF, 5, 0].all fun k => meets (.join (jw 0 4 1 0)) (setV 0 1 k) fun u x =>
      x.lanes == [l0] && u.castOf 0 == none && u.casts.isEmpty && 4 < (u.thread 0).v.length) = true ∧
    (meets (.leave (jw 0 0 0 0)) (withCast [mem0 0 0 none none, mem0 1 0 none none]) fun u x =>
      x.lanes == [l0] && u.castOf 0 == some 0) = true ∧
    (meets (.leave (jw 0 0 0 0)) (withCast [mem0 1 0 none none]) fun u x => x.lanes == [l0] && u.castOf 0 == none) = true := by
  decide +kernel

/-- Barriers: a member of this phase and one of a later phase with another member awaited, the one member of a cast, and a
thread of no cast. -/
theorem witness_barriers : ([Instr.bar (jw 0 0 0 0), .barArr (jw 1 0 0 0), .barWait (jw 2 0 0 0)].all fun i =>
      ([0, 3, 4].all fun since => meets i (withCast [mem0 0 since none none, mem0 1 3 none none]) fun u x =>
        x.lanes == [l0] && (u.thread 0).place == .take 0 && u.castOf 0 == some 0 && (u.cast 0).phase == 3 &&
        (u.cast 0).member 0 == some (mem0 0 since none none)) &&
      meets i id fun u _ => u.castOf 0 == none) = true ∧
    (meets (.bar (jw 0 0 0 0)) (withCast [mem0 0 3 none none]) fun u x => x.lanes == [l0] && u.castOf 0 == some 0 &&
      (u.cast 0).live && (u.cast 0).members == [mem0 0 3 none none]) = true := by decide +kernel

/-- A queue of four entries at address 16 of the scratchpad, with its ring at 64, and its address in v1. -/
def queue (head tail : Nat) (s : State) : State := setV 0 1 16 (s.modScene 0 fun c => { c with
  sp := ((((c.sp.writeN 16 (leBytes 4 head)).writeN 20 (leBytes 4 tail)).writeN 24 [2]).writeN 28 (leBytes 4 64)).writeN 64
    ([10, 11, 12, 13].flatMap fun k => leBytes 4 k) })

/-- RefillDequeues: an entry at the wrap of the ring's counter, and an empty queue. -/
theorem witness_refill : ([(2 ^ 32 - 1, 1), (6, 6)].all fun p => meets (.refill (jw 0 4 1 0)) (queue p.1 p.2) fun u x =>
    x.lanes == [l0] && !(u.thread 0).helper && queueOk (u.scene 0) 16 && (u.scene 0).empty.isEmpty &&
    (u.scene 0).poison.isEmpty && (u.scene 0).bad.isEmpty) = true := by decide +kernel

/-- Address operands in the states below: index `idx` in the uniform register 2, offset `off` in v2, data in v8 to v11. -/
def addressed (idx off : Nat) (s : State) : State :=
  setV 0 8 0x11223344 (setV 0 9 0x55667788 (setV 0 10 0x99 (setV 0 11 0x77 (setV 0 2 off (setU 2 idx (mapped s))))))

/-- A write of thread 0, and one of operation 0 that thread 0 knows, are held for their granules. -/
def crossed (s : State) : State :=
  let y : OldGranule := { space := .mem, gran := 0x3000, cls := 1, via := 1, owners := [.thread 0], bytes := List.replicate 16 9
                          knows := [.thread 0], marks := [], fenced := [], seen := [], l1s := [] }
  { s with olds := [y, { y with space := .sp 0, gran := 0 }, { y with space := .sp 0, gran := 0, cls := 0, via := 0 }] }

/-- Scratchpad operands: the address in v2, with the tag of an own pointer in v3, the bytes 1, 2, … from address 0. -/
def padded (a : Nat) (s : State) : State :=
  setV 0 2 a (setV 0 3 0x1F000000 ((crossed s).modScene 0 fun c => { c with sp := c.sp.writeN 0 ((List.range 128).map fun k => BitVec.ofNat 8 (k + 1)) }))

/-- The hypotheses on a scratchpad access of `n` bytes at `a`. -/
def padOk (n a : Nat) (u : State) (x : WordCtx) : Bool :=
  let sc := u.scene x.scene
  x.lanes == [l0] && a % n == 0 && decide (a + n ≤ sc.alloc + sc.win) && !sc.spEmpty a n && !sc.spPoisoned a n && !sc.spBad a n &&
    !sc.spBadPart a n && sees u (u.threadReader 0) (.sp x.scene) && decide ((u.take 0).holds + bankCycles (spWords n [(0, a)]) ≤ 64)

/-- ScratchpadLoads and ScratchpadStores: the smallest and largest sizes, at address 0 and at the end of the allocation, plain and tagged. -/
theorem witness_scratchpad : (let last := (State.reset.place 0 (.nop (tw 0 0 0 0 0))).scenes.foldl (fun n c => max n c.alloc) 0
    [0, 4, 5, 12].all fun m => [0, last - memBytes m].all fun a =>
      (meets (.lds (mw m 8 2 0 0 0)) (padded a) fun u x => padOk (memBytes m) a u x && (u.opnd 0 2).toNat == a) &&
      (meets (.ldt (mw m 8 2 0 0 0)) (padded a) fun u x => padOk (memBytes m) a u x && bitsOf (u.opnd64 0 2).toNat 63 56 == 0x1F) &&
      (5 ≤ m || (meets (.sts (mw m 8 2 0 0 0)) (padded a) fun u x => padOk (memBytes m) a u x) &&
        meets (.stt (mw m 8 2 0 0 0)) (padded a) fun u x => padOk (memBytes m) a u x)) = true := by decide +kernel

/-- ScratchpadAtomics: sum and exchange, plain and tagged, a comparison that holds and one that does not. -/
theorem witness_scratchpad_atomics : ([Instr.atoms (mw 0 8 2 0 16 0), .atoms (mw 9 8 2 0 16 0), .cass (mw 0 8 2 0 16 0),
    .atomt (mw 0 8 2 0 16 0), .atomt (mw 9 8 2 0 16 0)].all fun i => [0, 0x34333231].all fun v =>
      meets i (fun s => setV 0 8 v (padded 32 s)) fun u x => padOk 4 48 u x && (u.scene 0).spNum 48 4 == 0x34333231 &&
        bitsOf (u.opnd64 0 2).toNat 63 56 == 0x1F) = true := by decide +kernel

/-- The hypotheses on a global access of the buffer that `w` names, of `n` bytes, with the right `right` (0 read, 1 write, 2
atomic), where the page types `cms` are allowed. -/
def bufOk (w : MWord) (n right : Nat) (cms : List Nat) (u : State) (x : WordCtx) : Bool :=
  let idx := mIndex u x w
  let q := u.bufRecord (x.req u) idx
  x.lanes == [l0] && !(u.thread 0).helper && !mProbe w && u.roomy && sees u (u.threadReader 0) .mem && okThen q.1 fun bits => !recBound bits &&
    okThen (formAddr bits (mOffset u w bits 0) n) fun va =>
      okThen (q.2.lineCheck (x.req u) { bits := bits, index := idx } right va).1 fun xl =>
        !xl.watch && xl.pkg == u.pkgId && !u.linePsn (lineOf xl.pa) && cms.contains xl.cm && !u.mapsFull (frameOf xl.pa) &&
          (u.l1Find x.core xl.pkg (lineOf xl.pa)).isNone && (xl.cm != 2 || u.lineWr (lineOf xl.pa)) &&
          decide ((u.l1.filter fun y => y.core == x.core).length < l1Lines)

/-- GlobalLoads: the start of the extent on an SC page, plain, and the end on an RC page, acquiring; a written line of a
WO page. -/
theorem witness_loads : ([(0, 0, 1), (1008, 2, 2)].all fun p => meets (.ldg (mw 5 8 2 2 p.1 p.2.1)) (addressed p.2.2 0) (bufOk (mw 5 8 2 2 p.1 p.2.1) (memBytes 5) 0 [0, 1])) = true ∧
    (meets (.ldg (mw 2 8 2 2 16 0)) (fun s => (addressed 3 0 s).setLineBit (lineOf 0x50000) 9 true)
      (bufOk (mw 2 8 2 2 16 0) 4 0 [2])) = true := by decide +kernel

/-- GlobalStores and GlobalAtomics: the start of the extent on an SC page and its end on an RC page. -/
theorem witness_stores : ([(0, 1), (1020, 2)].all fun p => let off := p.1
      let r := p.2
      (meets (.stg (mw 2 8 2 2 off 0)) (addressed r 0) (bufOk (mw 2 8 2 2 off 0) 4 1 [0, 1])) &&
      (meets (.atomg (mw 0 8 2 2 off 0)) (addressed r 0) (bufOk (mw 0 8 2 2 off 0) 4 2 [0, 1])) &&
      meets (.casg (mw 0 8 2 2 off 0)) (addressed r 0) (bufOk (mw 0 8 2 2 off 0) 4 2 [0, 1])) = true := by decide +kernel

/-- GlobalAddressFaults: the first offset past the extent, and a misaligned one. -/
theorem witness_address_faults : ([(1024, 3), (2, 5)].all fun p =>
    [(Instr.ldg (mw 2 8 2 2 p.1 0), mw 2 8 2 2 p.1 0), (.stg (mw 2 8 2 2 p.1 0), mw 2 8 2 2 p.1 0),
      (.atomg (mw 0 8 2 2 p.1 0), mw 0 8 2 2 p.1 0), (.casg (mw 0 8 2 2 p.1 0), mw 0 8 2 2 p.1 0)].all fun y => meets y.1 (addressed 1 0) fun u x =>
        x.lanes == [l0] && (u.ctx (u.scene x.scene).ctx).fqBase == 0 && u.held.isEmpty && (u.thread 0).scene == x.scene &&
        (u.thread 0).place == .take 0 && !(u.thread 0).helper && !(u.die (coreDie x.core)).dailyCfg.getLsbD 0 &&
        ((List.range 4).all fun d => (u.die d).silCfg.toNat % 4 == 0) && okThen (u.bufRecord (x.req u) (mIndex u x y.2)).1 fun bits =>
          let off := mOffset u y.2 bits 0
          if p.2 == 5 then off % 4 != 0 else off % 4 == 0 && decide (recExtent bits < off + 4)) = true := by decide +kernel

/-- The exchange of ScratchpadStores: a core of the cast with a window of 256 bytes, at its start and at its end. -/
theorem witness_exchange_stores : ([0, 252].all fun v => meets (.stx (mw 2 8 2 0 0 0))
    (fun s => setV 0 2 v ((withCast [mem0 0 0 none none, mem0 1 0 none none] s).modScene 0 fun c => { c with win := 256 })) fun u x =>
      x.lanes == [l0] && !(u.thread 0).helper && u.castScenes 0 0 == some [0] && (u.scene 0).win == 256 && (u.scene 0).bad.isEmpty) =
    true := by decide +kernel

/-- ConstantAndFragmentLoads: the last word of a constant bank of 64 bytes, and fragments whose rows lie in the scratchpad. -/
theorem witness_constants : (meets (.ldk (mw 2 8 2 0 60 0))
      (fun s => (addressed 1 0 s).modScene 0 fun c => { c with kconst := 0x10000, kcSize := 64 }) fun u x =>
        let q := u.translate (x.req u) ((u.scene 0).kconst + 60) false false none
        x.lanes == [l0] && (okThen q.1 fun xl => !xl.watch) &&
          okThen (q.2.virtRead (x.req u) ((u.scene 0).kconst + 60) 4).1 fun r => !r.2) = true ∧
    ([Instr.ldsm (mw 2 8 2 0 0 0), .ldsmt (mw 2 8 2 0 0 0)].all fun i => meets i (fun s => { padded 32 s with olds := [] }) fun u x =>
      let w := mw 2 8 2 0 0 0
      x.lanes == [l0] && u.olds.isEmpty && fragRow u w 0 % 16 == 0 && decide (fragRow u w 0 + 16 ≤ (u.scene 0).alloc + (u.scene 0).win) &&
        (u.scene 0).empty.isEmpty && (u.scene 0).poison.isEmpty && (u.scene 0).bad.isEmpty &&
        decide ((u.take 0).holds + bankCycles (((List.range (fragN w)).flatMap fun f => (List.range 8).filterMap fun r =>
          (fragLane x f r).map fun l => l).flatMap fun l => (List.range 4).map fun k =>
            swz (fragRow u w l.2) (w.mod.toNat / 4) / 4 + k) ≤ 64)) = true := by decide +kernel

/-- Fences: each scope, each combination of the IP bits, with a dirty IP line and another line in the L1. -/
theorem witness_fences : (let f := fun (s : State) => { s with
      l1 := [{ (default : L1Line) with ip := true, dirty := [0], line := 5 }, { (default : L1Line) with line := 6 }] }
    ((List.range 4).all fun m => meets (.fence (mw m 0 0 0 0 0)) f fun u _ => u.l1.length == 2) &&
    ([(0, 0), (1, 0), (1, 1), (0, 1)].all fun p => meets (.fencex (mw 0 0 p.2 0 p.1 0)) f fun u _ => u.l1.length == 2) &&
    ([(1, 1), (2, 6)].all fun p => meets (.fencex (mw p.1 0 (2 ^ p.2) 0 1 0)) crossed fun u x =>
      x.lanes == [l0] && u.ops.isEmpty && (u.olds.getD 2 default).cls == 0 && (u.olds.getD 2 default).owners == [.thread 0] &&
        coreDie (u.scene (u.thread 0).scene).core == 0 && (u.nextReader 0 [0] p.2).die == 0)) = true := by
  decide +kernel

/-- GranulesAreWhole: a granule of 16 bytes with an older value, and a state that holds none. -/
theorem witness_granules : (let s := crossed (ready (.nop (tw 0 0 0 0 0)) id)
    (s.olds.getD 0 default).bytes.length == 16 && !sees s (s.opReader 0 2) .mem && sees { s with olds := [] } extReader .mem) = true := by
  decide +kernel

/-- FullEmptyControl: one line and 16 lines, up to the end of the allocation. -/
theorem witness_full_empty : ([0, 15].all fun m => [Instr.feset (mw m 8 2 0 0 0), .feqry (mw m 8 2 0 0 0)].all fun i =>
    meets i (fun s => setV 0 2 (128 * (15 - m)) (s.modScene 0 fun c => { c with empty := [15], poison := [15], alloc := 2048 }))
      fun u x => x.lanes == [l0] && decide ((u.opnd 0 2).toNat + 128 * (m + 1) ≤ (u.scene 0).alloc)) = true := by decide +kernel

/-- Queries: an index past the table, a record of no valid bit, one with a handle but no binding, the extent and the element size of a
good one; requests and prefetches. -/
theorem witness_queries : ([0, 2].all fun m => [0, 1, 3, 4].all fun idx => meets (.bufq (mw m 8 0 2 0 0))
      (fun s => setRec 3 (record 0x30000 1024 7 + 2 ^ 223) (addressed idx 0 s)) fun u x =>
      mIndex u x (mw m 8 0 2 0 0) == idx && u.bufCntOf (x.req u) == 4 && (idx == 4 || okThen (u.readRecord (x.req u) idx).1 fun r =>
        if idx == 0 then recBad r else !recBad r && (u.readRecord (x.req u) idx).2.recAgrees (x.req u) idx r == (idx == 1))) = true ∧
    ([Instr.pgreq (mw 0 0 2 2 0 0), .prfg (mw 0 0 2 2 0 0)].all fun i => meets i (addressed 1 0) fun u x =>
      decide (x.ctx u < 1024) && (u.ctx (x.ctx u)).fqBase == 0 && ((List.range 4).all fun d => (u.die d).silCfg.toNat % 4 == 0) && u.held.isEmpty &&
        u.bindings.isEmpty && u.l1.isEmpty) = true := by decide +kernel

/-- WoarmUnwrites: one line and four lines. -/
theorem witness_woarm : ([0, 3].all fun m => meets (.woarm (mw m 0 2 2 0 0)) (addressed 3 0) fun u x =>
    let w := mw m 0 2 2 0 0
    let q := u.bufRecord (x.req u) (mIndex u x w)
    x.lanes == [l0] && !(u.thread 0).helper && okThen q.1 fun bits =>
      okThen (armLane q.2 (x.req u) { bits := bits, index := mIndex u x w } (mOffset u w bits 0) (m + 1)).1 fun ls =>
        ls.length == m + 1) = true := by decide +kernel

/-- A nest of `n` + 1 iterations on unsigned 32-bit elements, with its bases in the uniform registers 8 to 10. -/
def nest (n : Nat) : LWord :=
  { (lWord 0) with eop := 1, typ := 4, sd := 8, sa := 9, sb := 10, cue := 15, ext := Vector.ofFn fun i => if i.val == 0 then BitVec.ofNat 11 n else 0, str := Vector.ofFn fun i => if i.val < 3 then 1 else 0 }

/-- NestsAndFills: a fill of one element and one that ends with its sixteenth line. -/
theorem witness_fills : ([1, 508].all fun n => meetsA (.fill (tw 0 0 1 2 3)) [] (fun s => setV 0 1 16 (setV 0 3 n s)) fun u x =>
    let sz := fillBytes (tw 0 0 1 2 3)
    x.lanes == [l0] && decide (16 % 128 + sz * n ≤ 2048 ∧ 16 + sz * n ≤ (u.scene 0).alloc + (u.scene 0).win) && 16 % sz == 0 &&
      (u.scene 0).bad.isEmpty) = true := by decide +kernel

/-- NestsAndFills: a nest of one iteration, of 16 and of 17. -/
theorem witness_nests : ([0, 15, 16].all fun n => meetsA (.loopn (nest n)) [] (fun s => setU 8 256 (setU 10 64 s)) fun u x =>
    let sc := u.scene 0
    nestTotal (nest n) == n + 1 && sc.empty.isEmpty && sc.poison.isEmpty && sc.bad.isEmpty && sees u (u.takeReader (x.lanes.map Prod.snd)) (.sp x.scene) && (List.range 3).all fun o =>
      let base := ([256, 0, 64] : List Nat).getD o 0
      (sc.uniReg ([(nest n).sd, (nest n).sa, (nest n).sb].getD o 0).toNat).toNat == base &&
        decide (0 ≤ nestLowest (nest n) base o ∧ nestHighest (nest n) base o + 4 ≤ ((sc.alloc + sc.win : Nat) : Int))) = true := by
  decide +kernel

/-- A descriptor in the uniform registers 16 to 23: buffer 1, a direction, scratchpad address 128, 8 elements by `ny` rows. -/
def described (dir ny : Nat) (s : State) : State :=
  let d := 1 + dir * 2 ^ 16 + (if ny == 1 then 0 else 1) * 2 ^ 17 + 128 * 2 ^ 32 + 8 * 2 ^ 160 + ny * 2 ^ 176 + 2 ^ 192
  (List.range 8).foldl (fun (s : State) k => setU (16 + k) (d / 2 ^ (32 * k) % 2 ^ 32) s)
    (setRec 1 (record 0x10000 1024 7 + 32 * 2 ^ 128) (addressed 1 4 s))

/-- CopiesStart: a copy of a lane in each direction, tiles of 16 rows and of 17 in each direction. -/
theorem witness_copies : ([0, 7].all fun m => meets (.cpy (mw m 8 2 2 16 0)) (fun s => setV 0 8 64 (addressed 1 4 s)) fun u x =>
      let w := mw m 8 2 2 16 0
      x.lanes == [l0] && !(u.thread 0).helper && okThen (u.bufRecord (x.req u) (mIndex u x w)).1 fun bits =>
        (cpyLaneFault (u.scene 0) bits 64 (mOffset u w bits 0) (4 * 2 ^ (m % 4))).isNone &&
          recAllows (x.ctx u) bits (if w.mod.getLsbD 2 then 1 else 0)) = true ∧
    ([0, 1].all fun dir => [16, 17].all fun ny => meetsA (.cpyb (mw 0 0 0 16 0 0)) [] (described dir ny) fun u x =>
      let d := descOf (u.scene x.scene) 16
      tdNz d * tdNy d == ny && okThen (bulkCheck x u d false).1 fun r =>
        decide (tdSpa d + tdExtent d r ≤ (u.scene x.scene).alloc + (u.scene x.scene).win)) = true := by decide +kernel

/-- The scene of thread 0 on core 0 and one of thread 1 on core 1, in a cast, with windows of 2048 bytes. -/
def castCores (s : State) : State :=
  let s := (withCast [mem0 0 0 none none, mem0 1 0 none none] s).modScene 0 fun c => { c with win := 2048 }
  { s with scenes := s.scenes ++ [{ s.scene 0 with core := 1, threads := [1] }]
           threads := s.threads.modify 1 fun t => { t with scene := 1 } }

/-- CopiesStart: a multicast to no core, with no bit of the mask below 16, to the own core and another, of 16 rows and of 17;
a slot of each core that is returned. -/
theorem witness_multicasts : ([0, 0x10000, 3].all fun mask => [16, 17].all fun ny => meetsA (.cpym (mw 0 0 2 16 0 0)) []
      (fun s => setV 0 2 mask (castCores (described 0 ny s))) fun u x =>
        let d := descOf (u.scene x.scene) 16
        let nums := (List.range 16).filter fun n => (u.opnd 0 2).getLsbD n
        u.castOf 0 == some 0 && (u.cast 0).numOf x.core == some 0 && okThen (bulkCheck x u d true).1 fun r =>
          nums.all fun n => ((u.cast 0).coreOf n).isSome && (u.cast 0).freeOf 0 n != 0 &&
            ((u.castScenes 0 n).getD []).all fun z => decide (tdSpa d + tdExtent d r ≤ (u.scene z).win)) = true ∧
    ([0, 1].all fun f => meets (.slotret (mw 0 0 2 0 0 0)) (fun s => setV 0 2 f (castCores s)) fun u x =>
      x.lanes.head? == some l0 && !(u.thread 0).helper && u.castOf 0 == some 0 && ((u.cast 0).coreOf f).isSome &&
        (u.cast 0).numOf x.core == some 0) = true := by decide +kernel

/-- `k` operand slots, the first of which is claimed, in a scene with the matrix array. -/
def slotted (k : Nat) (s : State) : State := s.modScene 0 fun c => { c with
  slots := k, arr := true, alloc := 2 ^ 20, oslots := (List.replicate k default).modify 0 fun o => { o with claimed := true } }

/-- OperandSlots: a free slot and none, two lines from line 5 of the scratchpad and of a buffer. -/
theorem witness_slots : ([1, 2].all fun k => meetsA (.opclm (tw 0 8 0 0 0)) [] (slotted k) fun u x =>
      (u.scene 0).slots == k && (u.scene 0).oslots.length == k && !seqFull u x.core) = true ∧
    ([(Instr.oprel (tw 0 0 1 0 0), [((1, 1) : Sel × Nat)]), (.opld (tw 0 0 1 2 3), [(1, 1), (2, 1), (3, 1)])].all fun p =>
      meetsA p.1 p.2 (fun s => setV 0 2 128 (setV 0 3 0x10005 (slotted 2 s))) fun u x => !seqFull u x.core &&
        (slotCause u 0 0 false).isNone && lineCtl 0x10005 == some (5, 2)) = true ∧
    (meetsA (.opldg (tw 0 0 1 0x112 3)) [(1, 1), (3, 1)]
      (fun s => setV 0 2 0 (setU 3 768 (setV 0 3 0x10005 (slotted 2 (addressed 1 0 s))))) fun u x =>
        (slotCause u 0 0 false).isNone && uniPair (u.scene 0) 0x112 == (1, 768) && okThen (u.bufRecord (x.req u) 1).1 fun r =>
          recAllows (x.ctx u) r 0 && decide (768 + 256 ≤ recExtent r)) = true := by decide +kernel

/-- MatrixArray: 16 rows and 17, with each kind of result. -/
theorem witness_matrix : (meetsA (.wlatch (tw 0 0 1 0 0)) [(1, 1)] (slotted 1) fun u x => !seqFull u x.core && !streamBusy u x.core x.tk &&
      (slotCause u 0 0 true).isNone) = true ∧
    ([0x0F00, 0x1000].all fun rc => [Instr.mstream (tw 2 0 1 2 0), .mlut (tw 2 0 1 2 0)].all fun i =>
      meetsA i [(1, 1), (2, 1)] (fun s => setV 0 2 rc (slotted 1 s)) fun u _ =>
        (slotCause u 0 0 true).isNone && someThen (rowCtl rc true) fun r => r.2.1 == rc / 256 + 1) = true ∧
    (meetsA (.mzero (tw 0 0 0 2 0)) [(2, 1)] (fun s => setV 0 2 0x20F00 (slotted 1 s)) fun _ _ => rowCtl 0x20F00 false == some (0, 16, 2)) =
      true ∧
    ([0, 6].all fun m => [0x0F00, 0x1000].all fun rc => meetsA (.mdrain (tw m 0 0x112 2 3))
      ((2, 1) :: if m % 4 == 2 then [(3, 1)] else []) (fun s => setV 0 2 rc (setU 2 128 (setU 3 1024 (slotted 1 s)))) fun u _ => someThen (rowCtl rc false) fun r =>
        decide (128 + 256 * outBytes (m % 4) * r.2.1 ≤ (u.scene 0).alloc)) = true := by decide +kernel

/-- Context 0 with 64 task records, two lanes. -/
def taskArea (s : State) : State := (two s).modCtx 0 fun c => { c with registered := true, taskCnt := 64 }

/-- Tasks: the least and the greatest operands, a helper beside a lane that is none. -/
theorem witness_tasks : ([(Instr.taskputResv (tw 0 8 1 0 0), 1, 64), (.taskputFree (tw 2 0 1 0 0), 0, 63),
      (.taskarm (tw 0 0 1 0 0), 5, 70), (.taskarmDec (tw 1 0 1 0 0), 5, 70)].all fun p => [true, false].all fun h =>
        meets p.1 (fun s => (setV 0 1 p.2.1 (setV 1 1 p.2.2 (taskArea s))).modThread 0 fun t => { t with helper := h }) fun u x =>
          x.lanes.length == 2 && (u.ctx (x.ctx u)).taskCnt == 64 && !seqFull u x.core) = true ∧
    (meets (.taskputCommit (tw 1 0 1 2 0)) (fun s => setV 1 1 64 (setV 0 2 63 (taskArea s))) fun u x => !seqFull u x.core &&
      u.tracks.isEmpty && (u.scene 0).empty.isEmpty && (u.scene 0).poison.isEmpty && (u.scene 0).bad.isEmpty && x.lanes.all fun l =>
        sees u (u.threadReader l.2) (.sp x.scene) && (u.opnd l.2 1).toNat % 64 == 0 &&
        decide ((u.opnd l.2 1).toNat + 64 ≤ (u.scene 0).alloc) &&
        decide ((u.opnd l.2 2).toNat < (u.ctx (u.scene 0).ctx).taskCnt)) = true ∧
    ([0, 1].all fun m => [2, 64].all fun k => meets (.taskqry (tw m 8 1 0 0)) (fun s => (setV 0 1 k (mapped s)).modCtx 0 fun c =>
      { c with taskBase := 0x10000, taskCnt := 64 }) fun u x => x.lanes == [l0] && !seqFull u x.core &&
        (k == 64 || okThen ((u.acquireL1 x.core).taskLoad x 0 k).1 fun _ => true)) = true ∧
    (meets (.taskqry (tw 2 8 0 0 0)) (fun s => (mapped s).modCtx 0 fun c => { c with taskBase := 0x10000, taskCnt := 3 }) fun u x =>
      x.lanes == [l0] && !seqFull u x.core &&
        okThen ((u.acquireL1 x.core).taskStates (fun s k => s.taskLoad x 0 k) 3).1 fun sts => sts == [0, 0, 0]) = true := by decide +kernel

/-- Accords: a record of context 0, bound or not, an image of the least size, and one in an unwritten line of a WO page. -/
theorem witness_accords : ([Instr.acunbind (tw 0 0 1 0 0), .acqry (tw 0 8 1 0 0)].all fun i =>
      meetsA i [(1, 1)] (fun s => setV 0 1 1 (addressed 2 0 s)) fun u x => okThen (u.accordRecord (x.req u) 1).1 Option.isSome) = true ∧
    (meetsA (.acparam (tw 0 0 1 2 3)) [(1, 1), (2, 1), (3, 1)] (fun s => setV 0 2 7 { setV 0 1 1 (addressed 2 0 s) with
      bindings := [{ (default : Binding) with ctx := 0, index := 1, rd := some default }] }) fun u x =>
        okThen (u.accordRecord (x.req u) 1).1 Option.isSome &&
          ((u.accordRecord (x.req u) 1).2.bindingOf (x.req u) 1 == some 0 && (u.binding 0).rd.isSome)) = true ∧
    ([(2, true), (3, false)].all fun p => meetsA (.acbind (tw 0 0 1 0x112 0)) [(1, 1)]
      (fun s => setU 3 64 (setV 0 1 1 (addressed p.1 0 s))) fun u x =>
      let me := u.accordRecord (x.req u) 1
      let q := me.2.bufRecord (x.req u) p.1
      okThen me.1 (fun _ => true) && okThen q.1 fun bits =>
        let er : Req := { engineReq (x.ctx u) x.core with who := some (u.nextReader x.scene (x.lanes.map Prod.snd) 4) }
        match (q.2.readImage er { bits := bits, index := p.1 } 64).1 with
        | .read _ => p.2
        | .wait _ => !p.2
        | _ => false) = true := by decide +kernel

/-- The surface in a state `st`, its buffer index in uniform register 3, the coordinates (x, y) in v1 and v2, a sample in v5. -/
def surfaced (st x y : Nat) (s : State) : State := setU 3 2 (setV 0 1 x (setV 0 2 y (setV 0 5 77 (surface st s))))

/-- The same surface with its reference at VA 0x50000, sealed. -/
def referenced (st x y : Nat) (s : State) : State :=
  let s := setRec 0 (record 0x50000 1024 7) (mapPage 5 7 1 (surfaced st x y s))
  let entry := leBytes 64 (0xFFFF * 2 ^ 80)
  { s with mem := (lay (lay s.mem 0x70000 (leBytes 128 (surfHdr 3))) 0x70080 (entry ++ entry)).writeN 0x40034 [0, 0] }

/-- The hypotheses on a surface instruction of lane 0: nothing of its thread waits in the unit, its surface opens with the right, and
its lane answers a value. -/
def surfOk (i : Instr) (w : TWord) (right : Nat) (lane : State → Surf → SurfLane → Bool) (u : State) (x : WordCtx) : Bool :=
  let q := (openSurf (x.surfaceReq u) (surfIndex u x w) right).run u
  x.lanes == [l0] && !(u.thread 0).helper && (u.surfAhead u.ops.length [0]).isEmpty &&
    (u.surfEmpty i x.scene [surfLane w u l0]).isEmpty && okThen q.1 fun y => lane q.2 y (surfLane w u l0)

/-- A lane of the surface unit answers a value. -/
def laneOk (m : Surf → SurfLane → SurfM Nat) (s : State) (y : Surf) (l : SurfLane) : Bool := okThen ((m y l).run s).1 fun _ => true

/-- Surfaces: a load of the last sample, a query of a good header and one of an invalid header. -/
theorem witness_surface_loads : (let w := tw 0 8 0x113 1 2
    meets (.sld w) (surfaced 1 15 15) (surfOk (.sld w) w 1 (laneOk (sldLane w))) &&
    ([(1, true), (7, false)].all fun p => meets (.sqry w) (surfaced p.1 3 15) fun u x =>
      x.lanes == [l0] && okThen ((readSurf (x.surfaceReq u) (surfIndex u x w) 1).run u).1 fun y => y.isSome == p.2 &&
        y.all fun y => laneOk (sqryLane w) ((readSurf (x.surfaceReq u) (surfIndex u x w) 1).run u).2 y (surfLane w u l0))) = true := by
  decide +kernel

/-- Surfaces: motion stored from a reference and as a hint. -/
theorem witness_surface_motion : (let w := tw 0 5 0x113 1 2
    meets (.sstmv w) (referenced 1 3 2) (surfOk (.sstmv w) w 3 (laneOk (sstmvLane w false))) &&
    meets (.sstmvHint w) (surfaced 1 3 2) (surfOk (.sstmvHint w) w 3 (laneOk (sstmvLane w true)))) = true := by decide +kernel

/-- Surfaces: a coded tile of the scratchpad, and one whose line is empty; an instruction behind another of its thread. -/
theorem witness_surface_codes : (let w := tw 0 9 0x113 1 2
    let f := fun (s : State) => (setV 0 9 64 (surfaced 1 3 2 s)).modScene 0 fun c => { c with sp := c.sp.writeN 68 [0, 0, 77, 0] }
    (meets (.sstc w) f fun u x => surfOk (.sstc w) w 3 (fun s y l => (sstcLanes w s (x.surfaceReq u).by x.scene y [l]).1.all fun r =>
      okThen r.2 fun _ => r.1 == 0) u x) &&
    (meets (.sstc w) (fun s => (f s).modScene 0 fun c => { c with empty := [0] }) fun u x =>
      x.lanes == [l0] && !(u.surfEmpty (.sstc w) x.scene [surfLane w u l0]).isEmpty) &&
    meets (.sld w) (fun s => { f s with ops := [{ (default : Op) with instr := .sstc w, lanes := [l0], args := [2, 0, 1, 2, 64] }] }) fun u x =>
      x.lanes == [l0] && !(u.surfAhead u.ops.length [0]).isEmpty) = true := by decide +kernel

/-- Surfaces: a sample stored into an open surface. -/
theorem witness_surface_stores : (let w := tw 0 5 0x113 1 2
    meets (.sst w) (surfaced 1 3 2) fun u x => surfOk (.sst w) w 3 (fun s y l => (sstLanes w s y [l]).1.all fun r =>
      okThen r.2 fun n => r.1 == 0 && n == 0) u x) = true := by
  decide +kernel

/-- Surfaces: a surface that is opened anew, and one that is sealed. -/
theorem witness_surface_once : (let w := tw 1 0 0x113 0x114 0
    meetsA (.ssealOpen w) [] (fun s => setU 4 0xFFFF (setU 5 0xFFFF (setU 6 0xFFFF (setU 7 0xFFFF (surfaced 0 3 2 s))))) fun u x =>
      let q := (openSurf (x.surfaceReq u) (surfIndex u x w) 3).run u
      okThen q.1 fun y => okThen ((y.reopen ((List.range 4).map fun k => ((u.scene x.scene).uniReg (selReg w.b + k)).toNat % 2 ^ 16)).run
        q.2).1 fun _ => true) = true ∧
    (let w := tw 0 0 0x113 0x114 0
    meetsA (.ssealSeal w) [(w.b, 1)] (surfaced 1 3 2) fun u x =>
      okThen ((sealStart (x.surfaceReq u) (surfIndex u x w) (u.opnd 0 w.b).toNat).run u).1 fun _ => true) = true := by decide +kernel

/-- Surfaces: tiles up to the last that are materialised. -/
theorem witness_surface_materialises : (let w := tw 0 0 0x113 2 3
    meetsA (.smat w) [(w.b, 1), (w.c, 1)] (surfaced 1 3 0) fun u x =>
      okThen ((openSurf (x.surfaceReq u) (surfIndex u x w) 3).run u).1 fun y =>
        y.state == 1 && decide ((u.opnd 0 w.b).toNat + (u.opnd 0 w.c).toNat < y.nt)) = true := by decide +kernel

/-- A pass buffer in a state, in context 0 with a task, with the passes `ps`. -/
def passed (st : Nat) (ps : List Pass) (s : State) : State := setU 3 2 { passBuf st 0 (tasked (sceneNode 2) s) with passes := ps }

/-- PassesAndMotion: a pass that opens, one that closes, a triangle of equal vertices, and a
visibility query outside a pixel scene. -/
theorem witness_passes : (meetsA (.primemitOpen (tw 1 8 0x113 0 0)) [] (passed 0 []) fun u x =>
      okThen ((passOpen (x.surfaceReq u) (passIndex u x (tw 1 8 0x113 0 0)) x.scene x.core (u.scene x.scene).part).run u).1 fun st =>
        st == 0) = true ∧
    (meetsA (.primemitClose (tw 2 0 0x113 0 0)) [] (passed 1 [pass0 1]) fun u x =>
      let buf := passIndex u x (tw 2 0 0x113 0 0)
      let q := (openPass (x.surfaceReq u) buf).run u
      okThen q.1 fun p => p.state == 1 && okThen ((p.put 2 p.prims p.drops).run q.2).1 fun _ =>
        ((p.put 2 p.prims p.drops).run q.2).2.passOf (x.ctx u) buf == some 0) = true ∧
    (meets (.primemitTri (tw 0 0 0x113 16 0)) (passed 1 [pass0 1]) fun u x => x.lanes == [l0] && !(u.thread 0).helper &&
      okThen ((emitTri (x.surfaceReq u) (passIndex u x (tw 0 0 0x113 16 0)) ((List.range 10).map fun k => (u.opndWord 0 16 k).toNat)).run u).1
        fun _ => true) = true ∧
    ([0, 2].all fun m => meets (.visq (tw m 8 1 0 0)) id fun u x => x.lanes.all fun l => (u.scene (u.thread l.2).scene).pass.isNone) =
      true := by decide +kernel

/-- PassesAndMotion: a motion request with its results in the scratchpad; a query of each field. -/
theorem witness_motion : ([(256, 128)].all fun o => meetsA (.mvereq (tw 0 8 0x118 0 0)) []
      (fun s => (List.range 8).foldl (fun (s : State) k =>
        setU (8 + k) ((2 + 8 * 2 ^ 80 + o.1 * 2 ^ 96 + o.2 * 2 ^ 128) / 2 ^ (32 * k) % 2 ^ 32) s) (referenced 3 0 0 s)) fun u x =>
        let d := descOf (u.scene x.scene) 8
        okThen ((mveCheck (x.surfaceReq u) d).run u).1 fun _ => (mveOutFault (u.scene x.scene) d).isNone &&
          u.mveReqs.isEmpty) = true ∧
    ([0, 3].all fun m => issues (.mveqry (tw m 8 1 0 0)) (ready (.mveqry (tw m 8 1 0 0)) id) at0) = true := by decide +kernel

/-- The operands a, b and n in v1 to v3, a wide one in v4 and v5, another in v6 and v7. -/
def privileged (a b n wa wb : Nat) (s : State) : State :=
  setV 0 1 a (setV 0 2 b (setV 0 3 n (setV 0 4 (wa % 2 ^ 32) (setV 0 5 (wa / 2 ^ 32) (setV 0 6 (wb % 2 ^ 32) (setV 0 7 (wb / 2 ^ 32) s))))))

/-- PrivilegedStart: every register that `WRSYS` may write at 32 bits, the queues up to the last, contexts up to the last, a
range up to the last page, a frame of type SC. -/
theorem witness_privileged_start : (let A : Sel × Nat := (1, 1)
    let B : Sel × Nat := (2, 1)
    let C : Sel × Nat := (3, 1)
    let w := tw 0 8 1 2 3
    let f := privileged 5 6 7 0 0
    let yes := fun (_ : State) (_ : WordCtx) => true
    ([0x001, 0x01F].all fun k => (meetsA (.rdsys w) [A, B] (privileged k 0 0 0 0) fun _ _ => (sysCheck k 0 32).isNone) &&
      meetsA (.wrsys w) [A, B, C] (privileged k 0 4 0 0) fun u x => (u.sysFault (coreDie x.core) k 0 4).isNone) &&
    meetsA (.waitev w) [A, B] f yes &&
    ([(0x401, 2048, 64), (0, 0, 1)].all fun p => meetsA (.frpop w) [A, B, C] (fun s => privileged p.1 p.2.1 p.2.2 0 0 (s.modScene 0 fun c =>
      { c with alloc := 4096 })) fun u _ => decide (p.2.1 + 32 * p.2.2 ≤ (u.scene 0).alloc)) &&
    ([Instr.resumeScn { w with mod := 1 }, .swapout w, .scenekill w, .haltb w, .drain w, .drainAbandon { w with mod := 1 }].all fun i =>
      meetsA i [A, B] f yes) &&
    meetsA (.swapin w) [A, B, C] f yes &&
    ([0, 1023].all fun c => meetsA (.tlbinvCtx { w with mod := 1 }) [A] (privileged c 0 0 0 0) yes &&
      meetsA (.tlbinvRange { w with b := 6 }) [A, (6, 2), C] (privileged c 0 1 0 (2 ^ 57 - 65536)) fun u _ =>
        u.opndN 0 6 2 == 2 ^ 57 - 65536) &&
    meetsA (.retype { w with a := 4 }) [(4, 2), B] f yes &&
    meetsA (.ptwr { w with a := 4, b := 6 }) [(4, 2), (6, 2)]
      (fun s => privileged 0 0 0 0x10008 5 (s.setFrameTag 1 (mkTag 0 false true 0 false))) fun u _ =>
        u.opndN 0 4 2 == 0x10008 && u.frameTag 1 % 4 == 0) = true := by decide +kernel

/-- PrivilegedReads: one record and two, masks, a scene that cannot be dumped, and the return of a handler. -/
theorem witness_privileged_reads : ([1, 2].all fun n => meetsA (.resumeRec (tw 0 8 1 2 3)) [(1, 1), (2, 1), (3, 1)] (privileged 5 64 n 0 0)
      fun u x => decide (64 + 32 * n ≤ (u.scene 0).alloc) && (u.scene 0).empty.isEmpty && (u.scene 0).poison.isEmpty &&
        (u.scene 0).bad.isEmpty && sees u (u.threadReader 0) (.sp x.scene)) = true ∧
    (meetsA (.hashver (tw 0 8 4 0 0)) [(4, 2)] (fun s => setV 0 4 1 (setV 0 5 8 (supMapped s))) fun u x =>
      let q := u.bufRecord (x.req u) 1
      okThen q.1 fun bits => decide (8 + 416 ≤ recExtent bits) && recAllows (x.ctx u) bits 0 &&
        match (q.2.engineSpan { x.req u with who := some (u.threadReader 0) } { bits := bits, index := 1 } (recBase bits + 8) 416).1 with
        | .ok _ psn => !psn
        | _ => false) = true ∧
    (meetsA (.dump (tw 0 8 1 2 0x118)) [(1, 1), (2, 1)] (privileged 5 6 0 0 0) fun u _ => u.dumpStatus 5 6 != 0) = true ∧
    (meetsA (.reti (tw 0 0 1 0 0)) [(1, 1)] (fun s => s.modScene 0 fun c => { c with handler := some 1 }) fun u x =>
      (u.scene x.scene).handler.isSome && decide (x.core < 256)) = true := by decide +kernel

/-- A halted scene of context 0 beside the supervisor's, in state DEBUG. -/
def haltedScene (s : State) : State :=
  let s := setRec 1 (record 0x10000 60000 7) (supMapped s)
  { s with
    scenes := s.scenes ++ [{ s.scene 0 with ctx := 0, sid := 9, core := 0, threads := [1], regs := 8, alloc := 128 }]
    threads := s.threads ++ [{ s.thread 0 with scene := 1, halted := true, place := .nowhere, v := List.replicate 8 0 }]
    lcs := 2 }

/-- PrivilegedReads: a scene that can be dumped. -/
theorem witness_dump : (meetsA (.dump (tw 0 8 1 2 0x118)) [(1, 1), (2, 1)]
    (fun s => setV 0 1 0 (setV 0 2 9 (setU 8 1 (haltedScene s)))) fun u x =>
      let q := u.bufRecord (x.req u) 1
      let n := (u.dumpBytes ((u.sceneById 0 9).getD 0)).length
      u.dumpStatus 0 9 == 0 && okThen q.1 fun bits => recAllows (x.ctx u) bits 1 && decide (n ≤ recExtent bits) &&
        (q.2.dumpTarget { x.req u with who := some (u.threadReader 0) } { bits := bits, index := 1 } (recBase bits) n 0).1.isNone) = true := by decide +kernel

/-! ### Steps that are no instruction -/

/-- A word to fill a clause. -/
def nop : Instr := .nop (tw 0 0 0 0 0)

/-- Partition 0 has every stage. -/
def staged (s : State) : State :=
  { s with parts := Vector.ofFn fun i => if i.val == 0 then { s.part 0 with stages := List.range 48 } else s.part i.val }

/-- Take 0 waits at the clause of instruction `i`, on a core of partition 0. -/
def waiting (i : Instr) (f : State → State) : State :=
  let s := staged (ready i f)
  { s with cur := none, takes := s.takes.modify 0 fun t => { t with st := .waiting, pos := 0 } }

/-- The same with the scene on core 0, whatever the instruction. -/
def onCore0 (s : State) : State :=
  { s with takes := s.takes.modify 0 fun t => { t with core := 0 }, scenes := s.scenes.modify 0 fun c => { c with core := 0 }
           codeRows := s.codeRows.map fun r => { r with core := 0 } }

/-- The hypotheses of ClauseStarts on a take that waits at its clause on `core`. -/
def clauseOk (s : State) (core : Nat) : Bool :=
  let y := s.take 0
  let sc := s.scene y.scene
  s.bestTake core 0 == some 0 && !s.pipeBusy core 0 true && y.st == .waiting && !y.lanes.isEmpty &&
    (y.lanes.all fun l => (s.thread l.2).stepping != 2) && (s.breakpoint sc (sc.codeOff y.pc)).isNone &&
    (s.clauseFault y.core sc (sc.codeOff y.pc)).isNone

/-- ClauseStarts: a plain clause, a privileged one on a Director and on another core, one outside its code, a suspended one, a lane
whose step is over, and a core without a take. -/
theorem witness_clause_starts : (let p := waiting (.rdsys (tw 0 8 1 2 0)) id
    let q := onCore0 p
    let n := waiting nop fun s => s.modScene 0 fun c => { c with codeSize := 0 }
    let z := { waiting nop id with takes := (waiting nop id).takes.modify 0 fun t => { t with st := .suspended, pos := 1 } }
    let b := waiting nop fun s => s.modThread 0 fun t => { t with stepping := 2 }
    clauseOk (waiting nop two) 0 && clauseOk p 48 && isDirector 48 && clauseOk q 0 && !isDirector 0 &&
    (q.privWord 0 (q.scene 0) ((q.scene 0).codeOff (q.take 0).pc)).isSome && (q.thread 0).place == .take 0 &&
    n.bestTake 0 0 == some 0 && (n.clauseFault 0 (n.scene 0) ((n.scene 0).codeOff (n.take 0).pc)).isSome && (n.thread 0).place == .take 0 &&
    z.bestTake 0 0 == some 0 && !z.pipeBusy 0 0 true && b.bestTake 0 0 == some 0 && (b.take 0).st == .waiting && (b.thread 0).stepping == 2 &&
    ((waiting nop id).bestTake 5 0).isNone) = true := by decide +kernel

/-- ClauseStarts: a pipe that a stepped word between two steps leaves to a take at the age limit, one that is not left, and one
inside a step. -/
theorem witness_left_pipe : ([true, false].all fun old =>
    let s := waiting nop two
    let t := { s.take 0 with st := .issuing true, progress := 1, lanes := [(0, 0)] }
    let s := { s with takes := [t, { s.take 0 with lanes := [(1, 1)], age := if old then s.ageLimit 0 else 0 }] }
    s.bestTake 0 0 == some 1 && s.pipeBusy 0 0 true && s.leavable 0 0 true 1 == (if old then some 0 else none)) = true ∧
    (let s := waiting nop two
    let t := { s.take 0 with st := .issuing true, progress := 1, inStep := true, lanes := [(0, 0)] }
    let s := { s with takes := [t, { s.take 0 with lanes := [(1, 1)], age := s.ageLimit 0 }] }
    (s.leavable 0 0 true 1).isNone) = true := by decide +kernel

/-- CoreSteps: a spent hold, a sleep that ends, the first and the last register line, an exited thread, with another in its scene
and alone, a thread that a record halts, and a code row. -/
theorem witness_core_steps : (let w := waiting nop two
    let line := { w with threads := w.threads.modify 0 fun t => { t with cached := [] } }
    let gone := { w with takes := [], threads := w.threads.modify 0 fun t => { t with exited := true, place := .nowhere } }
    let code := { waiting nop mapped with codeRows := [], scenes := w.scenes.modify 0 fun c => { c with code := 0x10000, codeSize := 96 } }
    let spent := { ready (.iadd (tw 0 20 1 2 0)) id with
      takes := (ready (.iadd (tw 0 20 1 2 0)) id).takes.modify 0 fun t => { t with holds := 64 }
      threads := line.threads.take 1 }
    (spent.take 0).st == .issuing false && 64 ≤ (spent.take 0).holds && spent.wordWaits 0 &&
    (w.take 0).st == .waiting && (w.scene 0).st == .resident &&
    ([0, 8].all fun l => (line.thread 0).live && decide (l ≤ ((line.scene 0).regs + 31) / 32)) &&
    decide ((line.bankLines 0 (line.thread 0).colour).length < 96) &&
    (gone.thread 0).exited && !(gone.thread 0).gone && (gone.thread 0).cue == .replicate 12 0 && (gone.scene 0).threads == [0, 1] &&
    (w.thread 0).place == .take 0 &&
    (code.codeRow 0 0 0 0).isNone && (code.rowFor 0).isSome &&
      okThen (code.virtRead (coreReq 0 0) 0x10000 96).1 fun _ => true) = true := by
  decide +kernel

/-- CoreSteps, rounds and reels: the end of a round at its last cycle, and an idle bay with one reel. -/
theorem witness_rounds : (let w := { waiting nop id with clock := 256, rounds := 3 }
    let z := { w with takes := [], reels := [{ (default : Reel) with core := 0, scene := 0, pc := 24, lanes := [(0, 0)], live := true, age := 2 }]
                      threads := w.threads.modify 0 fun t => { t with place := .reel 0 } }
    w.power == .run && w.clock / 64 == w.rounds + 1 && z.bayIdle 0 3 && decide (2 < z.ageLimit 0) &&
    z.oldestReel 0 (fun _ => true) == some 0 && !(z.reel 0).cont) = true := by decide +kernel

/-- Partition 0 with stages 0 and 1, and context 0 current. -/
def partitioned (s : State) : State :=
  { s with parts := Vector.ofFn fun i => if i.val == 0 then { s.part 0 with stages := [0, 1], current := some 0, since := 5 } else s.part i.val }

/-- A scene of context 0 in a state, with no thread or take yet. -/
def sceneIn (st : SceneState) : State :=
  let s := partitioned (waiting nop id)
  { s with takes := [], threads := [], codeRows := [], scenes := s.scenes.modify 0 fun c => { c with
    st := st, threads := [], groups := [], nthr := 40, cap := 50, nextTid := 0 } }

/-- ScenesAndSlices: a queued scene and a ready one, a scene that saves, one that is restored. -/
theorem witness_scenes : (let q := sceneIn .queued
    let r := sceneIn .ready
    let w := { waiting nop id with scenes := (waiting nop id).scenes.modify 0 fun c => { c with st := .saving } }
    q.itsTurn 0 && (q.bestCore (q.admissible (q.scene 0))).isSome && r.itsTurn 0 &&
    (someThen (r.bestCore (r.readmissible 0)) fun core => r.readmissible 0 core) && w.stoppable 0 && (w.scene 0).st == .saving &&
    ((sceneIn .restoring).scene 0).st == .restoring) = true := by decide +kernel

/-- ScenesAndSlices: a slice of 2000 units that ends at its last cycle with another context waiting, with the scenes drained and
with a take inside its clause; a pre-emption under way; a suspended scene, and a package that can trip. -/
theorem witness_slices : (let b := partitioned (waiting nop id)
    let s := b.setCtx 1 { Ctx.reset with registered := true }
    let s := { s with clock := 2000 * 1200 + 5, scenes := s.scenes ++ [{ s.scene 0 with ctx := 1, sid := 77, st := .ready, threads := [] }] }
    let busy := { s with takes := s.takes.modify 0 fun t => { t with st := .issuing false } }
    let next := fun (s : State) => (s.modCtx 0 fun x => { x with lastRun := s.clock }).nextContext 0
    let z := { b with scenes := b.scenes.modify 0 fun c => { c with st := .suspended } }
    s.power == .run && s.sliced && s.sliceOver 0 && (s.part 0).current == some 0 && !(s.part 0).closing && next s == some 1 &&
    s.canPreempt 0 (some 1) && busy.sliceOver 0 && next busy == some 1 && !busy.canPreempt 0 (some 1) &&
    (s.modPart 0 fun x => { x with closing := true, next := some 1 }).canPreempt 0 (some 1) &&
    z.canUnsuspend 0 0 && ((List.range 2).all fun j => !(z.unsuspend 0).canUnsuspend 0 j) &&
    (List.range 48).all fun j => b.canPreempt j none) = true := by decide +kernel

/-- Operation 0 is under way in lane 0 of thread 0 for instruction `i`, with captured operands, in a state changed by `f`. -/
def underway (i : Instr) (args : List Nat) (f : State → State) : State :=
  let s := f (ready i id)
  { s with ops := [{ (default : Op) with instr := i, lanes := [l0], core := (s.scene 0).core, args := args }] }

/-- OperationsComplete: the results of a load and of a transcendental, with a cue. -/
theorem witness_results : ([Instr.frcp (tw 0 5 1 0 0), .ldg (mw 2 5 1 0 0 0)].all fun i =>
    let s := underway i [] id
    let s := { s with ops := s.ops.map fun (o : Op) => { o with cue := some 11, writes := [{ thread := 0, dest := .v 5, value := 7 }] } }
    !(s.op 0).done && (s.op 0).daily.isNone && (s.op 0).flags.isEmpty && !(s.thread 0).exited && decide (5 < (s.thread 0).v.length)) =
    true := by decide +kernel

/-- SupervisorCompletions: a write of each register with the greatest value, a read, a table entry, a wait that an event has woken, one
that times out, and one that a timer wakes. -/
theorem witness_completions : (let w := tw 0 5 1 0 0
    let late := underway (.waitev w) [7, 100] fun s => { s with clock := 100 }
    let timed := underway (.waitev w) [64, 0] fun s => { s.modDie 0 (fun r => { r with timer := 5 }) with clock := 5 * 1200 }
    ([underway (.wrsys w) [1, 0, 2 ^ 32 - 1] id, underway (.rdsys w) [1, 0] id, underway (.ptwr w) [0x10008, 2 ^ 64 - 1] id,
      underway (.waitev w) [7, 100, 4] id, late, timed].all fun s =>
      !(s.op 0).done && (s.op 0).held.isNone && (s.op 0).wo.isNone && (s.op 0).cue.isNone && (s.op 0).writes.isEmpty &&
      (s.op 0).flags.isEmpty && (s.op 0).daily.isNone && !(s.thread 0).exited && decide ((s.op 0).core < 256) &&
      !s.mapsFull 1 && s.roomy && decide (5 < (s.thread 0).v.length)) &&
    decide ((late.op 0).issued + 100 ≤ late.clock) &&
    (coreDie (timed.op 0).core == 0 && (timed.die 0).timer == 5 && timed.timerLeft 0 == 0)) = true := by decide +kernel

/-- OperationsComplete: the first and the last line of an operand load, an operation held at a page that translates, and waits
of a thread and of an operation at the timeout. -/
theorem witness_lines : (let w := tw 0 5 1 0 0
    let held := underway (.opldg w) [0, 0, 5, 2, 0, 1, 0] mapped
    let held := { held with ops := held.ops.map fun (o : Op) => { o with held := some { (default : FaultRec) with va := 0x10000 } } }
    let t := { waiting nop id with clock := 120000, takes := [], threads := (waiting nop id).threads.modify 0 fun t =>
      { t with wo := some default, place := .nowhere } }
    let o := underway (.opldg w) [0, 0, 5, 2, 0, 1, 0] fun s => { s with clock := 120000 }
    let o := { o with ops := o.ops.map fun (p : Op) => { p with wo := some default } }
    ([0, 1].all fun k =>
      let s := underway (.opld w) [0, 0, 5, 2, 128] (slotted 2)
      let s := { s with ops := s.ops.map fun (p : Op) => { p with progress := k } }
      s.matReady 0 && sees s (s.opReader 0 2) (.sp 0) && (s.scene 0).empty.isEmpty && (s.scene 0).poison.isEmpty && (s.scene 0).bad.isEmpty && (s.scene 0).oslots.length == 2) &&
    okThen (held.translate (held.op 0).req 0x10000 false false none).1 (fun _ => true) &&
    !(t.thread 0).halted && (t.die 0).woTimeout * 1200 == 120000 && (o.op 0).wo == some default && !(o.op 0).done &&
    (default : WoWait).since == 0) = true := by decide +kernel

/-- The one record in the arming order, and the state in which the record of word `n` is ready, over a surface. -/
def armed0 : Armed := { ctx := 0, index := 1, seq := 5, unit := none }
def launching (n : Nat) (f : State → State) : State := { f (ready nop fun s => tasked n s) with cur := none, armed := [armed0] }

/-- The hypotheses of NodesLaunch on a record that is valid or not, and `p` of the state in which it has become LAUNCHED. -/
def launchOk (s : State) (valid : Bool) (p : Nat → State → Bool) : Bool :=
  let q := ({ s with armed := [] } : State).taskRead (unitReq 0 (s.ctx 0).homeDie) 1 64
  s.armed == [armed0] && s.nodeReady 0 1 && s.power == .run && okThen q.1 fun n =>
    let v := q.2.nodeValid (unitReq 0 (q.2.nodeUnit 0 1 n)) n
    v.1 == valid && (!valid ||
      let r := v.2.taskAtomic (unitReq 0 (q.2.nodeUnit 0 1 n)) 1 fun h =>
        if taskState h == 3 && taskPred h == 0 then some (withTaskState h 4) else none
      okThen r.1 fun b => b && p n (r.2.nodeLaunched 0 1 (nodeKind n)))

/-- NodesAndUnits: records of an empty kind that is valid, of every queue, and of a kind that is none. -/
theorem witness_launches : ([2, 3, 6, 7].all fun k => launchOk (launching (k + 3 * 2 ^ 8) id) true fun n _ => nodeKind n == k) = true ∧
    launchOk (launching (8 + 3 * 2 ^ 8) id) false (fun _ _ => true) = true := by decide +kernel

/-- NodesAndUnits: a scene node without launch constants. -/
theorem witness_scene_launch : launchOk (launching (sceneNode 3) id) true (fun n u => nodeKind n == 1 && (sceneReq n).nconst == 0 &&
    (u.sceneKernel (unitReq 0 0) (sceneReq n)).1.isSome) = true := by decide +kernel

/-- NodesAndUnits: a seal of an open surface, and one of a surface that is sealed. -/
theorem witness_seal_launch : ([(1, true), (3, false)].all fun p =>
    launchOk (launching (4 + 3 * 2 ^ 8 + 2 * 2 ^ 192) (inRcPage p.1)) true fun n u =>
      let l := u.launchRun 0 1 0 n 5
      let g := ((sealStart (l.surfNodeReq u.nodes.length 0 0) (bitsOf n 207 192) (bitOf n 208).toNat).run l).1
      nodeKind n == 4 && okThen g (fun _ => true) == p.2) = true := by decide +kernel

/-- NodesAndUnits: a motion search whose surface has no reference. -/
theorem witness_vision_launch : launchOk (launching (5 + 3 * 2 ^ 8 + 2 * 2 ^ 192) (inRcPage 3)) true (fun n u =>
    let l := u.launchRun 0 1 0 n 5
    nodeKind n == 5 && !(okThen ((mveCheck (l.mveReqBy 0 0 0 none (some u.nodes.length)) (bitsOf n 287 192 + (2 ^ 64 - 1) * 2 ^ 96)).run l).1
      fun _ => true)) = true := by decide +kernel

/-- A node of a kind that is under way. -/
def node0 (kind : Nat) : NodeRun := { (default : NodeRun) with ctx := 0, index := 1, kind := kind, live := true, die := 7 }

/-- NodesAndUnits: a tile task with a free array and one on a die without; the end of a scene, a copy and an empty node whose work is
done, and a host node that fails. -/
theorem witness_nodes : (let s := { partitioned (ready nop id) with nodes := [node0 2] }
    let free := fun (x : NodeRun) => (s.partCores (s.ctx x.ctx).part).find? fun k =>
      s.arrayFree k && s.mayRun x.ctx && (x.die == 7 || coreDie k == x.die)
    (free (node0 2)).isSome && (free { node0 2 with die := 3 }).isNone && s.power == .run && (node0 2).core.isNone) = true ∧
    (let s := ready nop (tasked (sceneNode 4))
    let s := { s with scenes := s.scenes.modify 0 fun c => { c with st := .ended, node := some 1 } }
    (s.scene 0).st == .ended && (s.scene 0).node == some 1 && (s.scene 0).ctx == 0) = true ∧
    ([(7, true), (3, true), (6, false)].all fun p =>
      let s := { ready nop (fun s => tasked (p.1 + 4 * 2 ^ 8 + (2 ^ 32 - 1) * 2 ^ 64) s) with nodes := [node0 p.1] }
      (s.nodeRun 0).live && s.runFirst 0 && s.nodeFree 0 &&
        (s.scenes.all fun c => c.st != .ended) &&
        match ((s.modRun 0 fun y => { y with held := none, wo := none, begun := y.begun || y.kind != 2 }).runNode 0).1 with
        | .done => p.2
        | .failed _ _ => !p.2
        | _ => false) = true := by decide +kernel

/-- NodesAndUnits: the record of a node that is done, with no successor and no trace of its context. -/
theorem witness_completes : (let s := ready nop (tasked (7 + 4 * 2 ^ 8 + (2 ^ 32 - 1) * 2 ^ 64))
    let q := s.taskRead (unitReq 0 0) 1 16
    let m := q.2.taskAtomic (unitReq 0 0) 1 fun h => if taskState h == 4 then some (withTaskState h 5) else none
    okThen q.1 (fun n => nodeSucc n == 2 ^ 32 - 1) && okThen m.1 id && (List.range 4).all fun d => (m.2.die d).silCfg.toNat % 4 == 0) = true := by
  decide +kernel

/-- NodesAndUnits: a seal that is coded for an instruction and for a node. -/
theorem witness_seals : ([(some 0, none), (none, some 0)].all fun p =>
    let j : SealJob := { ctx := 0, die := 0, buf := 2, flags := 0, issuer := p.1, node := p.2, done := false }
    let s := { ready nop (fun s => inRcPage 2 (tasked (4 + 4 * 2 ^ 8) s)) with seals := [j], ops := [default], nodes := [node0 4] }
    s.seals[0]? == some j && j.node.all s.runFirst && !(s.op 0).done) = true := by decide +kernel

/-- A motion request in a state, of an instruction or a node, from the sealed surface to its reference. -/
def motion0 (state : Nat) (issuer node : Option Nat) (s : State) : State :=
  { referenced 3 0 0 s with
    ops := [default], nodes := [node0 5]
    mveReqs := [{ (default : MveReq) with desc := 2 + 2 ^ 18 + (2 ^ 64 - 1) * 2 ^ 96, issuer := issuer, node := node, state := state }] }

/-- NodesAndUnits: a motion request of each kind whose checks pass on the engine that is free, and one that fails at its start. -/
theorem witness_motion_starts : ([(some 0, none), (none, some 0)].all fun p =>
      let s := motion0 0 p.1 p.2 (ready nop id)
      s.freeMve 0 == some 0 && s.mveFirst 0 && s.power == .run && okThen ((mveCheck (s.mveReq 0) (s.mve 0).desc).run s).1 fun _ => true) = true ∧
    (let s := { motion0 0 (some 0) none (ready nop id) with mem := [] }
    s.freeMve 0 == some 0 && s.mveFirst 0 && !okThen ((mveSearch (s.mveReq 0) (s.mve 0).desc).run s).1 fun _ => true) = true := by
  decide +kernel

/-- NodesAndUnits: motion requests whose reference is the same and another one. -/
theorem witness_motion_ends : ([1, 2].all fun st => [(0, true), (9, false)].all fun p =>
    let s := motion0 st (some 0) none (ready nop id)
    let s := s.modMve 0 fun q => { q with refGen := p.1 }
    !mvHint (s.mve 0).desc && okThen ((mveRefSame (s.mveReq 0) (s.mve 0)).run s).1 fun b => b == p.2) = true := by decide +kernel

/-- NodesAndUnits: a bin of a closed pass with one triangle, and a pass whose one bin is final. -/
theorem witness_bins : (let s := { ready nop (fun s => passBuf 2 0 (tasked (sceneNode 2) s)) with cur := none, passes := [{ pass0 2 with
      tris := [{ x := [256, 768, 256], y := [256, 256, 768], z := [0x3F000000, 0x3F400000, 0x3E800000], id := 5 }] }] }
    let r := unitReq 0 0
    okThen ((openPass r 2).run s).1 fun h => h.w == 64 && h.h == 64 && match s.taskRead r h.pixNode 64 with
      | (.ok n, z) => (sceneReq n).nconst == 0 && (z.sceneKernel r (sceneReq n)).1.isSome && z.passes.length == 1
      | _ => false) = true ∧
    (let s := { ready nop (fun s => passBuf 2 (2 ^ 32 - 1) (tasked (sceneNode 2) s)) with cur := none, passes := [{ pass0 2 with final := [0] }] }
    okThen ((openPass (unitReq 0 0) 2).run s).1 fun h => (h.w + 63) / 64 * ((h.h + 63) / 64) == 1 && h.done == 2 ^ 32 - 1 &&
      s.scenes.all fun c => c.pass != some 0) = true := by decide +kernel

/-- A handler's state: the supervisor with one kernel, event 2 pending, and its entry `e`. -/
def handled (e : Nat) : State :=
  { (ready nop fun s => supMapped (tasked (sceneNode 2) s)).modDie 0 (fun r => { r with
      evPend := 4, evMask := 0xFF, evEntry := BitVec.ofNat 64 e, skTab := 0x10100, skTCnt := 1 }) with cur := none }

/-- EventsAndRegisters: a timer at its last cycle on the first and the last die; an event whose entry is a kernel's, another index
of that kernel, and another kernel. -/
theorem witness_events : (([0, 3].all fun d => let s := { (ready nop id).modDie d (fun r => { r with timer := 5 }) with clock := 5 * 1200 }
      (s.die d).timer == 5 && s.timerLeft d == 0) &&
    ([0, 4 * 2 ^ 32, 1].all fun e => (handled e).dispatchable 0 2) &&
    (let q := (handled 0).kernel (coreReq supCtx 48) 0
    someThen q.1 fun k => k.entries.contains 0 && !k.entries.contains 4 && [48, 49].all fun core => !(q.2.freeGroups core).isEmpty &&
      q.2.fits (handlerScene k 0 2 0 q.2.seqCtr 0) core) && ((handled 1).kernel (coreReq supCtx 48) 1).1.isNone) = true := by decide +kernel

/-- EventsAndRegisters: a group with a frame assigned and one without, a registered context whose queue is empty, states other than
SECURE. -/
theorem witness_registers : (let s := (ready nop mapped).setFrameTag 5 (mkTag 0 false true 0 false)
    s.groupAssigned 0 && !s.groupAssigned 127 && (s.ctx 0).registered && (s.ctx 0).fqTail == (s.ctx 0).fqHead &&
    ({ s with lcs := 2 } : State).lcs != 1) = true := by decide +kernel

/-- MemorySystem: a line that the L2 does not hold, at both ends of HBM, a dirty one that it holds, a full bank address, a frame
that is scrubbed, and the last step of a migration. -/
theorem witness_memory : (let s := ready nop mapped
    let d := { s with l2 := [{ (default : L2Line) with key := .phys 1536, dirty := true, cmpr := true }] }
    let z := s.setFrameTag 9 (mkTag 3 true false 0 false)
    let m := { s with migrating := true, moved := (List.range 128).map fun j => (j, if j == 5 then 2 ^ 25 - 1 else 2 ^ 25) }
    ([0, 2 ^ 32 - 1].all fun l => populated (128 * l) && !isHostPa (128 * l) && !s.unmarked l && decide (s.homeDieOf (128 * l) < 4)) &&
    s.l2.isEmpty && (d.l2.find? fun x => x.key == .phys 1536).isSome && isHbm (128 * 1536) && s.throttled.isEmpty &&
    s.openRows.get 8191 == 0 && tagScrub (z.frameTag 9) && ((List.range 512).find? fun l => !(z.scrubMarks 9).contains l) == some 0 &&
    decide (m.moved.get 5 < 2 ^ 25) && s.l2Fits (.phys 0) && decide (({ s with clock := 49152 } : State).windowAt.get 7 + 49152 ≤ 49152)) = true := by
  decide +kernel

/-- MemorySystem: under a mask with one bit more, a line of a migration that displaces the next, and that one, which then moves. -/
theorem witness_staging : (let s := { State.reset with
      migrating := true, masks := State.reset.masks.set 0 (2 ^ 7 + 2 ^ 20), moved := [(0, 2 ^ 13)] }
    let t := { s with moved := [(0, 2 ^ 13 + 1)] }
    s.staging.get 0 == 0 && decide (s.moved.get 0 < groupLine (s.partner (128 * s.moved.get 0))) && decide (s.moved.get 0 < 2 ^ 25) &&
    decide (groupLine (t.partner (128 * t.moved.get 0)) < t.moved.get 0)) = true := by decide +kernel

/-- MemorySystem: the last word of a cached register line, of the scratchpad and of an operand slot; and a binding whose stream
ends. -/
theorem witness_soft_errors : (let s := ready nop (slotted 2)
    let b := { s with bindings := [{ (default : Binding) with wr := some default }] }
    let z := { s with l2 := [{ (default : L2Line) with key := .phys 1536, dirty := true }] }
    decide (z.homeDieOf (128 * 1536) < 4) && (z.l2.find? fun x => x.key == .phys 1536).isSome &&
    (s.thread 0).cached.contains 8 && (s.thread 0).cached.contains 0 && s.storesHere 0 && decide (255 < (s.scene 0).regs) && (s.scene 0).st == .resident && decide (4 * (2 ^ 18 - 1) < (s.scene 0).alloc) &&
    decide ((2 * 8448 - 1) / 8448 < (s.scene 0).oslots.length) && (b.binding 0).wr == some default) = true := by decide +kernel

/-- HostAndLinks: writes and reads of a registered context through its pages, and a context that is not registered. -/
theorem witness_host : (let s := { ready nop mapped with cur := none, mbReady := true }
    s.power == .run && s.roomy && !(s.ctx 5).registered && !(s.ctx 1023).registered && (s.ctx 0).registered &&
    ([(0x10070, 16), (0x30000, 128)].all fun p => match s.hostSpans (hostReq s 0) p.1 p.2 true with
      | (.ok [(va, n, x)], z) => z.roomy && va == p.1 && !z.mapsFull (x.pa / 65536) && n == p.2 && x.pkg == z.pkgId && (z.lineRefuses x va n).isNone && decide (x.pa % 128 + n ≤ 128)
      | _ => false) &&
    (match s.hostSpans (hostReq s 0) 0x10010 16 false with
      | (.ok [_], z) => z.roomy && !z.linePsn (lineOf 0x30010) && sees z extReader .mem
      | _ => false) &&
    match s.translate (hostReq s 0) 0x10010 false true none with
      | (.ok x, z) => z.roomy && x.cm == 0 && x.pkg == z.pkgId && !z.unreachable x.pkg && !z.linePsn (lineOf x.pa) && x.pa % 8 == 0 && !z.mapsFull (x.pa / 65536)
      | _ => false) = true := by decide +kernel

/-- HostAndLinks: an exported context that admits a read, a write and an atomic of another package, and one that does not; a host
line that is populated. -/
theorem witness_links : (let s := { (ready nop mapped).setFrameTag 3 (mkTag 1 false true 7 false) with
      standalone := false, exports := [{ srcPkg := 143, srcCtx := 4, ctx := 7 }] }
    let asks : List RemoteAsk := [.read 16, .write [1, 2, 3], .atomic 0 5, .atomic 1 5, .cas true 0 5].map fun op => { cm := 1, place := none, op := op }
    s.power == .run && s.roomy && s.pkgId != 143 && tagType (s.frameTag 3) == 1 && !s.linePsn (lineOf 0x30010) && !s.mapsFull 3 &&
    (s.lineRefuses (s.homeXlat 0x30010) 0 3).isNone && sees s extReader .mem && isHostPa 0x800000000000 &&
    asks.all fun a => s.remoteAdmits 143 4 0x30010 a && !s.remoteAdmits 143 5 0x30010 a && decide (0 < remoteBytes a.op ∧ 0x30010 % 128 + remoteBytes a.op ≤ 128)) =
    true := by decide +kernel

/-- A mailbox payload of `n` bytes with the given fields. -/
def payload (n : Nat) (fs : List (Nat × List Byte)) : List Byte :=
  fs.foldl (fun (l : List Byte) f => l.take f.1 ++ f.2 ++ l.drop (f.1 + f.2.length)) (List.replicate n 0)

/-- ContinuityProcessor: an open mailbox, context 7 registered, and a payload of each command that passes its checks, with fields
at the ends of their ranges. -/
theorem witness_mailbox : (let s := { (ready nop id).setFrameTag 1 (mkTag 0 false true 0 false) with
      cur := none, takes := [], scenes := [], threads := [], mbReady := true, fwOk := true }
    let s := staged (s.setCtx 7 { Ctx.reset with registered := true })
    let z := { s with scenes := (ready nop id).scenes }
    let reg := payload 64 [(0, leBytes 4 1023), (5, [3]), (8, leBytes 8 (2 ^ 57 - 65536)), (16, leBytes 8 0x12000)]
    s.power == .run && s.mbReady && !s.mbWait && s.fwOk && (z.scene 0).st == .resident && (stageCores 0).contains (z.scene 0).core &&
    restZero (payload 64 [(0, [47]), (8, [1])]) [(0, 1), (8, 6)] && !(z.part 47).stages.contains 0 && s.lcs == 1 && restZero reg [(0, 6), (8, 16)] && reg.length == 64 && isHbm 0x12000 && tagType (s.frameTag 1) == 0 &&
    ((s.part 0).stages.any fun g => g / 12 == 3) && !(s.ctx 1023).registered && (s.ctx 7).registered && s.endable 7 &&
    restZero (payload 64 [(0, leBytes 4 7)]) [(0, 4)] && restZero (payload 64 [(0, [47]), (8, leBytes 6 (2 ^ 48 - 1))]) [(0, 1), (8, 6)] &&
    ((List.range 256).all s.coreClear) && restZero (payload 64 [(1, [143]), (4, leBytes 4 1023), (8, leBytes 4 7)]) [(0, 2), (4, 8)] &&
    s.exports.isEmpty && restZero (payload 64 [(0, leBytes 4 7), (32, List.replicate 32 0xAB)]) [(0, 4), (32, 32)] &&
    restZero (payload 64 [(0, [4]), (8, leBytes 8 0x800000000040), (16, leBytes 4 128)]) [(0, 1), (8, 12)] &&
    restZero (payload 136 [(0, [15]), (8, List.replicate 64 3)]) [(0, 1), (8, 128)] && restZero (payload 72 [(0, [1])]) [(0, 1)] &&
    ({ s with lcs := 0, ctxs := [] } : State).ctxs.isEmpty && ({ s with lcs := 3 } : State).lcs == 3) = true := by decide +kernel

/-- ContinuityProcessor: each state of the power. -/
theorem witness_power : (State.reset.power == .boot && ({ State.reset with power := .standby } : State).power == .standby &&
    (ready nop id).power == .run) = true := by decide +kernel

/-- StepRunsTheWord: the turn of a take whose word decodes; an event's turn, cycles of the clock, and an empty agenda. -/
theorem witness_step : (let i := Instr.iadd (tw 0 5 1 2 0)
    let s := State.reset.place ((encode i).getD 0) i
    let y := s.take 0
    s.agenda == [.word 0] && s.clocked && y.st == .issuing false && !y.betweenSteps && s.between.agenda == [.word 0] &&
      decide (decodeWord (s.codeNum y.core (s.scene y.scene) ((s.scene y.scene).codeOff y.pc + 8 * (y.pos + 1)) 32) = .instr i) &&
      ([[Turn.ev (.timerExpiry 0)], [.ev .standbyWake], [.tick 5], []].all fun a => ({ s with agenda := a } : State).between.agenda == a) &&
      Instr.opcode (.timerExpiry 0) == 0x100 && needsNoClock .standbyWake && !s.mbWait &&
      !({ s with power := .standby } : State).clocked) = true := by
  decide +kernel

/-- MemoryStaysCanonical: reset memory, and one with tables and records. -/
theorem witness_memory_canonical : State.reset.mem.wf = true ∧ (mapped State.reset).mem.wf = true := by decide +kernel

/-- RoundTrip: a well-formed word with every operand field at its greatest value. -/
theorem witness_round_trip : (let i := Instr.ldg { mw 2 0xFF 0xFF 63 0xFFF 2 with pg := 7, pn := true, dist := 7, cue := 11 }
    decide i.wellFormed && (encode i).isSome) = true := by decide +kernel

/-- HeldAndRefusedWords: a register that is not cached, and a register beyond the scene's count. -/
theorem witness_held : ([Instr.iadd (tw 0 20 1 2 0), .fadd (tw 0 20 1 2 0), .movi (iw 20 0 5), .ldg (mw 2 20 1 2 0 0), .sts (mw 2 20 1 0 0 0)].all fun i =>
    let s := ready i fun s => s.modThread 0 fun t => { t with cached := [] }
    let z := ready i fun s => (two s).modScene 0 fun c => { c with regs := 8 }
    wordHolds (s.issue at0 i) false (s.atIssue at0 i).lanes i && !(s.atIssue at0 i).outside (s.issue at0 i) &&
    ((s.issue at0 i).take 0).progress == 0 && ([0, 63, 64].all fun h =>
      wordHolds (({ s with takes := s.takes.modify 0 fun t => { t with holds := h } } : State).issue at0 i) false (s.atIssue at0 i).lanes i) &&
    let u := z.issue at0 i
    (u.ctx (u.scene 0).ctx).fqBase == 0 && u.held.isEmpty && (u.scene 0).ctx == 0 && ((z.atIssue at0 i).lanes.all fun l =>
      (u.thread l.2).scene == 0 && (u.thread l.2).place == .take 0) &&
    (z.atIssue at0 i).outside (z.issue at0 i) && (z.atIssue at0 i).lanes.map Prod.snd == [0, 1]) = true := by decide +kernel

end Sys2Proof.Tests
end

section
/-! PROOFS. The step: the turn that it takes, by the agenda (O59). -/

namespace Sys2Proof.Machine

/-- A word that decodes to an instruction has that instruction's opcode and variant. -/
theorem rawInstr_of_decodeWord {n : Nat} {i : Instr} (h : decodeWord n = .instr i) : rawInstr n = some i := by
  unfold decodeWord at h
  cases hr : rawInstr n with
  | none => simp [hr] at h
  | some j =>
    rw [hr] at h
    cases hc : lowestCause j.causes with
    | none => simpa [hc] using h
    | some c => simp [hc] at h

/-- A step takes the first turn of the agenda. -/
theorem step_of_agenda_cons {s : State} {t : Turn} {rest : List Turn} (h : s.between.agenda = t :: rest) :
    step s = ({ s.between with agenda := rest } : State).turn t := by
  unfold step State.nextTurn
  rw [h]

/-- With an empty agenda a step takes the default turn. -/
theorem step_of_agenda_nil {s : State} (h : s.between.agenda = []) : step s = s.between.turn s.between.defaultTurn := by
  unfold step State.nextTurn
  rw [h]

/-- The next word of a take that issues, where the word decodes: a stepped word between its steps needs a scene that issues. -/
theorem State.nextWord_of_decodes {s : State} {tk : Nat} {pipe : Bool} {i : Instr} (hst : (s.take tk).st = .issuing pipe)
    (hgo : (s.take tk).betweenSteps = false ∨ s.canIssue (s.take tk).scene = true)
    (hdec : decodeWord (s.codeNum (s.take tk).core (s.scene (s.take tk).scene)
      ((s.scene (s.take tk).scene).codeOff (s.take tk).pc + 8 * ((s.take tk).pos + 1)) 32) = .instr i) :
    s.nextWord tk = some (i, { s with cur := some { take := tk, pos := (s.take tk).pos
                                                    addr := (s.take tk).pc + BitVec.ofNat 64 (8 * ((s.take tk).pos + 1)) } }) := by
  have hstop : ((s.take tk).betweenSteps && !s.canIssue (s.take tk).scene) = false := by
    rcases hgo with hb | hc
    · simp [hb]
    · simp [hc]
  have hword : s.wordAt tk (s.take tk).pos = some i := rawInstr_of_decodeWord hdec
  unfold State.nextWord
  simp only [hst, hstop, hword, Bool.false_eq_true, if_false, Option.map_some]

/-- A turn of a take whose next word is known runs it while the clocks run. -/
theorem State.turn_word_of_nextWord {s z : State} {tk : Nat} {i : Instr} (hclk : s.clocked = true)
    (h : s.nextWord tk = some (i, z)) : s.turn (.word tk) = exec i z := by
  simp only [State.turn, hclk, if_true, h]

/-- The turn of an event executes it, where the clocks run or it needs none (R436). -/
theorem State.turn_event (s : State) {i : Instr} (h : i.opcode = 0x100) :
    s.turn (.ev i) = if s.clocked = true ∨ needsNoClock i = true then exec i s else .next s := by
  simp [State.turn, isEvent, h]

/-- The word of the agenda's take is decoded and executed. -/
theorem step_runs_the_word : Claim.StepRunsTheWord := by
  intro s tk rest pipe i u y c hag hclk hst hgo hdec
  rw [step_of_agenda_cons hag]
  exact State.turn_word_of_nextWord hclk
    (State.nextWord_of_decodes (s := { u with agenda := rest }) hst hgo hdec)

/-- The other turns: an event, cycles of the clock, and the default turn. -/
theorem step_runs_the_turn : Claim.StepRunsTheTurn := by
  intro s rest u
  refine ⟨fun i hop hag => ?_, fun n hag => ?_, fun hag => step_of_agenda_nil hag, fun hmb => ?_⟩
  · rw [step_of_agenda_cons hag, State.turn_event _ hop]
    rfl
  · rw [step_of_agenda_cons hag]
    rfl
  · exact ⟨s.between_agenda hmb, s.between_clock hmb, s.between_mem hmb⟩

end Sys2Proof.Machine

namespace Sys2Proof
open Machine

/-- Settles O59, by the turn that the agenda's head gives and the inversion of the decoder. -/
theorem stepRunsTheWord : Obligations.StepRunsTheWord :=
  ⟨step_runs_the_word, step_runs_the_turn⟩

end Sys2Proof
end

section
/-! PROOFS. Rules of the parts of the state that the memory system's steps change: tables, bytes, marks of lines, the
registers of a die, bindings (O52). -/

namespace Sys2Proof.Machine

/-! ## Tables, bytes and lists -/

/-- Of a table whose entries are kept or dropped by their numbers, a dropped entry reads as zero. -/
theorem Table.get_filter_key (p : Nat → Bool) (t : Table) (k : Nat) :
    Table.get (t.filter fun e => p e.1) k = if p k = true then t.get k else 0 := by
  induction t with
  | nil => simp only [List.filter_nil, Table.get, ite_self]
  | cons e rest ih =>
    obtain ⟨j, x⟩ := e
    by_cases hp : p j = true
    · rw [List.filter_cons, if_pos hp]
      simp only [Table.get, ih, beq_iff_eq]
      by_cases hk : k = j
      · rw [if_pos hk, if_pos hk, hk, if_pos hp]
      · rw [if_neg hk, if_neg hk]
    · rw [List.filter_cons, if_neg hp, ih]
      simp only [Table.get, beq_iff_eq]
      by_cases hk : k = j
      · rw [hk, if_neg hp, if_neg hp]
      · rw [if_neg hk]

/-- Of bytes that are kept or dropped by their addresses, a dropped one reads as zero. -/
theorem Memory.read_filter_key (p : Nat → Bool) (m : Memory) (c : Nat) :
    Memory.read (m.filter fun e => p e.1) c = if p c = true then m.read c else 0 := by
  induction m with
  | nil => simp only [List.filter_nil, Memory.read, ite_self]
  | cons e rest ih =>
    obtain ⟨k, b⟩ := e
    by_cases hp : p k = true
    · rw [List.filter_cons, if_pos hp]
      simp only [Memory.read, ih, beq_iff_eq]
      by_cases hk : c = k
      · rw [if_pos hk, if_pos hk, hk, if_pos hp]
      · rw [if_neg hk, if_neg hk]
    · rw [List.filter_cons, if_neg hp, ih]
      simp only [Memory.read, beq_iff_eq]
      by_cases hk : c = k
      · rw [hk, if_neg hp, if_neg hp]
      · rw [if_neg hk]

/-- A dropped range of bytes reads as zeros, and every other byte reads as before. -/
theorem Memory.read_dropRange (m : Memory) (a n c : Nat) :
    (m.dropRange a n).read c = if c < a ∨ a + n ≤ c then m.read c else 0 := by
  have h := Memory.read_filter_key (fun k => decide (k < a) || decide (a + n ≤ k)) m c
  simp only [Bool.or_eq_true, decide_eq_true_eq] at h
  exact h

/-- A number stands in a list that it was put into. -/
theorem mem_insertNat_self (k : Nat) (l : List Nat) : k ∈ insertNat k l := by
  induction l with
  | nil => simp [insertNat]
  | cons j rest ih =>
    unfold insertNat
    split
    · simp
    · split
      · rename_i h
        simp_all
      · exact List.mem_cons_of_mem _ ih

/-- An index of the elements that satisfy a test is one of the list. -/
theorem lt_of_mem_indices {α : Type} {xs : List α} {p : α → Bool} {i : Nat} (h : i ∈ indices xs p) : i < xs.length := by
  unfold indices at h
  obtain ⟨x, hx, rfl⟩ := List.mem_map.1 h
  have hmem := List.mem_zipIdx (List.mem_filter.1 hx).1
  omega

/-- A bit that is set reads as set. -/
theorem bitOf_setBitN_true (x i : Nat) : bitOf (setBitN x i true) i = true := by
  unfold setBitN
  split
  · rename_i h
    simpa using h
  · rename_i h
    have h0 : x / 2 ^ i % 2 = 0 := by
      have : x / 2 ^ i % 2 ≠ 1 := by simpa [bitOf] using h
      omega
    have h1 : (x + 2 ^ i) / 2 ^ i = x / 2 ^ i + 1 := Nat.add_div_right _ (Nat.two_pow_pos i)
    simp only [if_true, bitOf, h1, beq_iff_eq]
    omega

/-! ## Dies -/

/-- The registers of a die after a change of one die's. -/
theorem State.modDie_die (s : State) (d e : Nat) (f : DieRegs → DieRegs) (he : e < 4) :
    (s.modDie d f).die e = if e = d then f (s.die e) else s.die e := by
  simp [State.die, State.modDie, List.getD_eq_getElem?_getD, he]

/-- A number beyond the dies names no registers. -/
theorem State.die_of_ge (s : State) {d : Nat} (hd : 4 ≤ d) : s.die d = default := by
  simp [State.die, List.getD_eq_getElem?_getD, hd]

/-- An event leaves every register of the dies but the pending events. -/
theorem State.setEvent_die (s : State) (d bit e : Nat) (he : e < 4) :
    (s.setEvent d bit).die e =
      { s.die e with evPend := if e = d then (s.die e).evPend ||| BitVec.ofNat 32 (2 ^ bit) else (s.die e).evPend } := by
  have h : (s.setEvent d bit).die e = (s.modDie d fun r => { r with evPend := r.evPend ||| BitVec.ofNat 32 (2 ^ bit) }).die e := rfl
  rw [h, State.modDie_die s d e _ he]
  split <;> rfl

/-- An event sets its bit of the pending events of its die. -/
theorem State.setEvent_evPend (s : State) (d bit : Nat) (hd : d < 4) :
    ((s.setEvent d bit).die d).evPend = (s.die d).evPend ||| BitVec.ofNat 32 (2 ^ bit) := by
  simp [State.setEvent_die s d bit d hd]

/-- An event of another die leaves the pending events of a die. -/
theorem State.setEvent_evPend_other (s : State) {d e : Nat} (bit : Nat) (he : e < 4) (h : e ≠ d) :
    ((s.setEvent d bit).die e).evPend = (s.die e).evPend := by
  simp [State.setEvent_die s d bit e he, h]

/-- An event leaves the root of every translation. -/
theorem State.setEvent_ptRootOf (s : State) (d bit : Nat) (r : Req) : (s.setEvent d bit).ptRootOf r = s.ptRootOf r := by
  have hroot : ((s.setEvent d bit).die r.die).sPtRoot = (s.die r.die).sPtRoot := by
    by_cases he : r.die < 4
    · rw [State.setEvent_die s d bit _ he]
    · rw [State.die_of_ge _ (by omega), State.die_of_ge _ (by omega)]
  unfold State.ptRootOf
  rw [hroot]
  rfl

/-! ## Bindings -/

/-- A handle that names a binding names one of the list. -/
theorem State.lt_of_handleOf {s : State} {h i : Nat} (hh : s.handleOf h = some i) : i < s.bindings.length :=
  lt_of_mem_indices (List.mem_of_mem_head? hh)

/-- A binding after its change. -/
theorem State.modBinding_same (s : State) (i : Nat) (f : Binding → Binding) (h : i < s.bindings.length) :
    (s.modBinding i f).binding i = f (s.binding i) := by
  simp [State.binding, State.modBinding, List.getD_eq_getElem?_getD, h]

/-- The write direction of a binding that keeps no state keeps none. -/
theorem imgStateful_of_stateless {b : Binding} {f : FormDir} (hb : b.stateful = false) (hw : b.wr = some f) :
    imgStateful (imgHeader f.image) = false := by
  simp only [Binding.stateful, hw, Bool.or_eq_false_iff] at hb
  exact hb.2

/-! ## Lost lines (R371) -/

/-- A line that is lost is poisoned. -/
theorem State.loseLine_linePsn (s : State) (l : Nat) : (s.loseLine l).linePsn l = true := by
  have htag : (s.loseLine l).lineTag l = setBitN (s.lineTag l) 10 true := by
    have : (s.loseLine l).lineTag l = (s.lineTags.set l (setBitN (s.lineTag l) 10 true)).get l := rfl
    rw [this, Table.get_set, if_pos rfl]
  rw [State.linePsn, htag]
  exact bitOf_setBitN_true _ _

@[simp] theorem State.loseLine_mem (s : State) (l : Nat) : (s.loseLine l).mem = s.mem := rfl
@[simp] theorem State.loseLine_memErrs (s : State) (l : Nat) :
    (s.loseLine l).memErrs = (s.homeDieOf (128 * l), 128 * l) :: s.memErrs := rfl

/-- A lost line raises event 4 on its home die. -/
theorem State.loseLine_evPend (s : State) (l : Nat) (h : s.homeDieOf (128 * l) < 4) :
    ((s.loseLine l).die (s.homeDieOf (128 * l))).evPend = (s.die (s.homeDieOf (128 * l))).evPend ||| 16 :=
  State.setEvent_evPend _ _ 4 h

/-- A lost line leaves the root of every translation. -/
theorem State.loseLine_ptRootOf (s : State) (l : Nat) (r : Req) : (s.loseLine l).ptRootOf r = s.ptRootOf r :=
  State.setEvent_ptRootOf _ _ 4 r

end Sys2Proof.Machine
end

section
/-! PROOFS. What a lost line leaves alone: translations, the die of every key and the room of the L2 (R10, R371; O52). -/

namespace Sys2Proof.Machine

/-- The state with the tags of lines, the errors, the operations and the registers of the dies of another: what a lost line
changes (R371). -/
def State.marked (s m : State) : State :=
  { s with lineTags := m.lineTags, memErrs := m.memErrs, ops := m.ops, dies := m.dies }

theorem State.loseLine_eq_marked (s : State) (l : Nat) : s.loseLine l = s.marked (s.loseLine l) := by
  simp only [State.loseLine, State.marked, State.setEvent, State.modDie, State.setLineBit]

theorem State.walkFrom_marked (s m : State) (entry : Nat → Nat) (va : Nat) : ∀ n l a,
    (s.marked m).walkFrom entry va n l a = s.walkFrom entry va n l a
  | 0, _, _ => rfl
  | n + 1, l, a => by
    have ih := State.walkFrom_marked s m entry va n
    have hf : (s.marked m).frameTag = s.frameTag := rfl
    simp only [State.walkFrom, ih, hf]

theorem State.keepWalk_marked (s m : State) (r : Req) (va : Nat) (es : List (Nat × Nat)) :
    (s.marked m).keepWalk r va es = (s.keepWalk r va es).marked m := by
  have hw : (s.marked m).walks = s.walks := rfl
  simp only [State.keepWalk, hw]
  split <;> rfl

section
variable {s m : State} (hroot : ∀ r, (s.marked m).ptRootOf r = s.ptRootOf r)
include hroot

theorem State.walkNow_marked (r : Req) (va : Nat) :
    (s.marked m).walkNow r va = ((s.walkNow r va).1, (s.walkNow r va).2.marked m) := by
  have hmem : (s.marked m).mem = s.mem := rfl
  have hold : (s.marked m).walkEntry r va = s.walkEntry r va := rfl
  have hc : (s.marked m).choose = (s.choose.1, s.choose.2.marked m) := rfl
  simp only [State.walkNow, State.walkFrom_marked, hroot, hmem, hold, hc, State.keepWalk_marked]
  split
  · rfl
  · split <;> rfl

theorem State.leafOf_marked (r : Req) (va : Nat) :
    (s.marked m).leafOf r va = ((s.leafOf r va).1, (s.leafOf r va).2.marked m) := by
  simp only [State.leafOf, State.walkNow_marked hroot]
  generalize s.walkNow r va = q
  have htlb : (q.2.marked m).tlb = q.2.tlb := rfl
  have hc : (q.2.marked m).choose = (q.2.choose.1, q.2.choose.2.marked m) := rfl
  simp only [htlb, hc]
  split
  · cases q.1 <;> rfl
  · cases q.1 with
    | error f => dsimp only; split <;> rfl
    | ok new =>
      dsimp only
      split
      · rfl
      · split <;> rfl

/-- No translation reads what a lost line changes. -/
theorem State.translate_marked (r : Req) (va : Nat) (write atomic : Bool) (p : Option Place3) :
    ((s.marked m).translate r va write atomic p).1 = (s.translate r va write atomic p).1 := by
  simp only [State.translate, State.leafOf_marked hroot]
  generalize s.leafOf r va = q
  have hf : (q.2.marked m).leafFault = q.2.leafFault := rfl
  rcases q.1 with f | ⟨l, e⟩
  · rfl
  · simp only [hf]
    split <;> rfl

theorem State.keyDie_marked (key : L2Key) : (s.marked m).keyDie key = s.keyDie key := by
  cases key with
  | phys l => rfl
  | bound h k =>
    have hh : (s.marked m).handleOf h = s.handleOf h := rfl
    have hb : (s.marked m).binding = s.binding := rfl
    have ha : (s.marked m).accordOf = s.accordOf := rfl
    simp only [State.keyDie, State.beatAccord, hh, hb, ha, State.translate_marked hroot]

theorem State.l2Fits_marked (key : L2Key) : (s.marked m).l2Fits key = s.l2Fits key := by
  have hl : (s.marked m).l2 = s.l2 := rfl
  have hk : (s.marked m).keyLines = s.keyLines := by
    funext k
    cases k <;> rfl
  simp only [State.l2Fits, State.keyDie_marked hroot, hl, hk]

end

/-- A lost line leaves the room of the L2. -/
theorem State.loseLine_l2Fits (s : State) (l : Nat) (key : L2Key) : (s.loseLine l).l2Fits key = s.l2Fits key := by
  have hroot := State.loseLine_ptRootOf s l
  rw [State.loseLine_eq_marked] at hroot ⊢
  exact State.l2Fits_marked hroot key

/-- Where the L2 has room for a line that it does not hold, it takes it, and nothing else changes. -/
theorem State.touchL2_of_fits {s : State} {key : L2Key} (write cmpr : Bool) (hno : ∀ x ∈ s.l2, x.key ≠ key)
    (hfit : s.l2Fits key = true) :
    s.touchL2 key write cmpr = { s with l2 := s.l2 ++ [{ key := key, dirty := write, cmpr := cmpr }] } := by
  have hfind : (s.l2.find? fun x => x.key == key) = none := by
    simpa [List.find?_eq_none] using hno
  have hroom : ∀ n, s.l2Room key n = s
    | 0 => rfl
    | n + 1 => by simp [State.l2Room, hfit]
  unfold State.touchL2
  rw [hfind]
  simp only [hroom]

end Sys2Proof.Machine
end

section
/-! PROOFS. The steps of the L2 (R292, R371, R373; O52). -/

namespace Sys2Proof.Machine

/-- A line fill of a physical line is a fetch, with its errors, into the L2. -/
theorem exec_l2LineFill_phys {s : State} {l : Nat} (e : LineError) (hno : ∀ x ∈ s.l2, x.key ≠ .phys l)
    (hpop : populated (128 * l) = true) (he : e ≠ .parity) :
    exec (.l2LineFill (.phys l) e) s = .next ((s.fetchError l e).touchL2 (.phys l) false false) := by
  have hany : (s.l2.any fun x => x.key == .phys l) = false := by
    simpa using hno
  have h : exec (.l2LineFill (.phys l) e) s = execL2LineFill (.phys l) e s := rfl
  rw [h, execL2LineFill]
  simp [hany, hpop, he]

/-- The exponents of a line lie within their field. -/
theorem lineBexp_le (bs : List Byte) : lineBexp bs ≤ 255 := by
  have hfold : ∀ (es : List Nat) (r : Nat × Nat), r.1 ≤ 255 →
      (es.foldl (fun r e => (min r.1 (bitsOf e 14 7), max r.2 (bitsOf e 14 7))) r).1 ≤ 255 := by
    intro es
    induction es with
    | nil => exact fun _ h => h
    | cons e es ih => exact fun r h => ih _ (Nat.le_trans (Nat.min_le_left _ _) h)
  exact hfold _ _ (Nat.le_refl _)

/-- A write-back leaves the bits of a line's tag above CMP and BEXP. -/
theorem writebackTag_high (tag : Nat) (cmpr : Bool) (bs : List Byte) : writebackTag tag cmpr bs / 512 = tag / 512 := by
  have := lineBexp_le bs
  unfold writebackTag
  dsimp only
  split <;> omega

/-- A write-back sets CMP and BEXP where the line is compressed, and clears them else. -/
theorem writebackTag_low (tag : Nat) (cmpr : Bool) (bs : List Byte) :
    writebackTag tag cmpr bs % 512 = if cmpr = true ∧ lineFits bs = true then 2 * lineBexp bs + 1 else 0 := by
  have := lineBexp_le bs
  unfold writebackTag
  simp only [Bool.and_eq_true]
  split <;> omega

theorem tagged_of_isHbm {l : Nat} (h : isHbm (128 * l) = true) : tagged l = true := by
  have hlt : 128 * l < 0x8000000000 := by simpa [isHbm] using h
  have hhost : isHostPa (128 * l) = false := by
    simp only [isHostPa, Bool.and_eq_false_iff, decide_eq_false_iff_not]
    omega
  simp [tagged, populated, h, hhost]

/-- A dirty line of HBM that leaves the L2 takes its new tag. -/
theorem State.evictPhys_of_dirty {s : State} {l : Nat} {x : L2Line} (hx : s.l2.find? (fun x => x.key == .phys l) = some x)
    (hd : x.dirty = true) (hh : isHbm (128 * l) = true) :
    s.evictPhys l = { s with
      l2 := s.l2.filter fun y => y.key != .phys l
      lineTags := s.lineTags.set l (writebackTag (s.lineTag l) x.cmpr (s.mem.readN (128 * l) 128)) } := by
  unfold State.evictPhys
  rw [hx]
  simp only [hd, hh, tagged_of_isHbm hh, Bool.and_self, Bool.and_true, if_true]
  rfl

theorem L2Line.key_ne_of_mem_filter {ls : List L2Line} {key : L2Key} {y : L2Line} (h : y ∈ ls.filter fun y => y.key != key) :
    y.key ≠ key := by
  simpa using (List.mem_filter.1 h).2

/-- The claim on the L2: fills without and with an error that is not corrected, and write-backs. -/
theorem cache_steps : Claim.CacheSteps := by
  intro s l
  refine ⟨fun hno hpop hfit => ⟨?clean, fun hhost hun hdie => ?lost⟩, fun x hx hd hh => ?writeback⟩
  case clean =>
    have hf : s.fetchError l .clean = s := by
      unfold State.fetchError
      split <;> rfl
    refine ⟨_, exec_l2LineFill_phys .clean hno hpop (by decide), ?_⟩
    rw [hf, State.touchL2_of_fits false false hno hfit]
    exact ⟨⟨_, List.mem_append_right _ (List.mem_singleton.2 rfl), rfl, rfl⟩, rfl⟩
  case lost =>
    have hf : s.fetchError l .uncorrectable = s.loseLine l := by
      simp [State.fetchError, tagged, hpop, hhost, hun]
    have hno' : ∀ x ∈ (s.loseLine l).l2, x.key ≠ .phys l := hno
    have hfit' : (s.loseLine l).l2Fits (.phys l) = true := by rw [State.loseLine_l2Fits, hfit]
    refine ⟨_, exec_l2LineFill_phys .uncorrectable hno hpop (by decide), ?_⟩
    rw [hf, State.touchL2_of_fits false false hno' hfit']
    exact ⟨s.loseLine_linePsn l, s.loseLine_mem l, s.loseLine_memErrs l, s.loseLine_evPend l hdie⟩
  case writeback =>
    have htag : ∀ k, (s.evictPhys l).lineTag k =
        if k = l then writebackTag (s.lineTag l) x.cmpr (s.mem.readN (128 * l) 128) else s.lineTag k := by
      intro k
      rw [State.evictPhys_of_dirty hx hd hh]
      exact Table.get_set _ _ _ _
    refine ⟨s.evictPhys l, rfl, ?_, ?_, ?_, ?_, fun k hk => ?_⟩
    · rw [State.evictPhys_of_dirty hx hd hh]
      exact fun y hy => L2Line.key_ne_of_mem_filter hy
    · rw [State.evictPhys_of_dirty hx hd hh]
    · rw [htag, if_pos rfl, writebackTag_high]
    · rw [htag, if_pos rfl, writebackTag_low]
    · rw [htag, if_neg hk]

end Sys2Proof.Machine
end

section
/-! PROOFS. Stream contexts, rows, windows, scrubbing and migration (R295, R365, R368, R369, R374; O52). -/

namespace Sys2Proof.Machine

/-- A stateless write direction gives its stream context back. -/
theorem streamContextRelease_write {s : State} {a h i : Nat} {f : FormDir} (hh : s.handleOf h = some i)
    (hst : (s.binding i).stateful = false) (hw : (s.binding i).wr = some f) :
    ∃ t, exec (.streamContextRelease a h true) s = .next t ∧
      (t.binding i).wr = some { f with streams := f.streams.filter fun x => x != a } ∧ t.mem = s.mem := by
  have hx : exec (.streamContextRelease a h true) s = execStreamContextRelease a h true s := rfl
  rw [hx, execStreamContextRelease]
  simp only [hh]
  refine ⟨_, rfl, ?_, rfl⟩
  rw [State.modBinding_same _ _ _ (State.lt_of_handleOf hh)]
  simp [hw, imgStateful_of_stateless hst hw, FormDir.release]

/-- An activation opens its row, counts it, and counts a conflict where it closes another row. -/
theorem rowActivation_opens {s : State} {frame line bank row : Nat} (hh : isHbm (128 * (512 * frame + line)) = true)
    (hbank : s.bankOf (128 * (512 * frame + line)) = bank) (hrow : s.rowOf (128 * (512 * frame + line)) = row)
    (hthr : bank * 2 ^ 15 + row ∉ s.throttled) (hopen : s.openRows.get bank ≠ row + 1) :
    ∃ t, exec (.rowActivation frame line) s = .next t ∧ t.openRows.get bank = row + 1 ∧ t.mem = s.mem ∧
      t.rowCnt.get (bank * 2 ^ 15 + row) = s.rowCnt.get (bank * 2 ^ 15 + row) + 1 ∧
      t.bankCnt.get bank = s.bankCnt.get bank + if s.openRows.get bank = 0 then 0 else 1 := by
  have hx : exec (.rowActivation frame line) s = execRowActivation frame line s := rfl
  have hthr' : s.throttled.contains (rowKey bank row) = false := by simpa [rowKey] using hthr
  have hopen' : (s.openRows.get bank == row + 1) = false := by simpa using hopen
  have hcount : ∀ n, (if s.openRows.get bank != 0 then s.bankCnt.set bank n else s.bankCnt).get bank =
      if s.openRows.get bank = 0 then s.bankCnt.get bank else n := by
    intro n
    by_cases h0 : s.openRows.get bank = 0 <;> simp [h0, Table.get_set]
  have hconfl : (if s.openRows.get bank = 0 then s.bankCnt.get bank else s.bankCnt.get bank + 1) =
      s.bankCnt.get bank + if s.openRows.get bank = 0 then 0 else 1 := by
    split <;> rfl
  have hopened : (s.openRows.set bank (row + 1)).get bank = row + 1 := by rw [Table.get_set, if_pos rfl]
  have hcounted : (s.rowCnt.set (rowKey bank row) (s.rowCnt.get (rowKey bank row) + 1)).get (rowKey bank row) =
      s.rowCnt.get (rowKey bank row) + 1 := by rw [Table.get_set, if_pos rfl]
  rw [hx, execRowActivation]
  simp only [hbank, hrow, hh, hthr', hopen', Bool.not_true, Bool.or_self, Bool.false_eq_true, if_false]
  refine ⟨_, rfl, ?_⟩
  rw [← hconfl, ← hcount]
  split <;> exact ⟨hopened, rfl, hcounted, rfl⟩

/-- The end of a window of a stack has its banks count anew. -/
theorem conflictWindowEnd_counts_anew {s : State} {k : Nat} (hk : k < 8) (hw : s.windowAt.get k + 49152 ≤ s.clock) :
    ∃ t, exec (.conflictWindowEnd k) s = .next t ∧ t.windowAt.get k = s.clock ∧ t.mem = s.mem ∧
      ∀ b, t.bankCnt.get b = if b % 8 = k then 0 else s.bankCnt.get b := by
  have hx : exec (.conflictWindowEnd k) s = execConflictWindowEnd k s := rfl
  have hw' : s.windowAt.get k + Config.conflictWindow ≤ s.clock := hw
  rw [hx, execConflictWindowEnd]
  simp only [hk, hw', decide_true, Bool.and_self, if_true]
  refine ⟨_, rfl, ?_, rfl, fun b => ?_⟩
  · rw [Table.get_set, if_pos rfl]
  · rw [Table.get_filter_key fun b => bankStack b != k]
    by_cases hb : b % 8 = k <;> simp [bankStack, hb]

/-- A refresh of a bank has its rows count anew, none of them throttled. -/
theorem refreshManagement_counts_anew (s : State) {bank row : Nat} (hrow : row < 2 ^ 15) :
    ∃ t, exec (.refreshManagement bank) s = .next t ∧ t.mem = s.mem ∧
      t.rowCnt.get (bank * 2 ^ 15 + row) = 0 ∧ bank * 2 ^ 15 + row ∉ t.throttled := by
  have hbank : (bank * 2 ^ 15 + row) / 2 ^ 15 = bank := by omega
  refine ⟨_, rfl, rfl, ?_, ?_⟩
  · rw [Table.get_filter_key fun k => k / 2 ^ 15 != bank, hbank, bne_self_eq_false]
    rfl
  · rw [List.mem_filter, hbank, bne_self_eq_false]
    exact fun h => Bool.false_ne_true h.2

/-- A mark of the scrub unit leaves bytes and tags. -/
theorem State.markScrub_mem (s : State) (line : Nat) (w : Bool) : (s.markScrub line w).mem = s.mem := by
  unfold State.markScrub
  split
  · split <;> rfl
  · rfl

theorem State.markScrub_lineTags (s : State) (line : Nat) (w : Bool) : (s.markScrub line w).lineTags = s.lineTags := by
  unfold State.markScrub
  split
  · split <;> rfl
  · rfl

/-- Scrubbing a frame drops the bytes of its first unmarked line and clears that line's tag. -/
theorem scrubLine_drops {s : State} {frame l : Nat} (hs : tagScrub (s.frameTag frame) = true)
    (hl : ((List.range 512).find? fun l => !(s.scrubMarks frame).contains l) = some l) :
    ∃ t, exec (.scrubLine frame) s = .next t ∧ t.mem = s.mem.dropRange ((frame * 512 + l) * 128) 128 ∧
      t.lineTags = s.lineTags.set (frame * 512 + l) 0 := by
  have hx : exec (.scrubLine frame) s = execScrubLine frame s := rfl
  rw [hx, execScrubLine]
  simp only [hs, hl, Bool.not_true, Bool.false_eq_true, if_false]
  refine ⟨_, rfl, ?_⟩
  split <;> exact ⟨State.markScrub_mem _ _ _, State.markScrub_lineTags _ _ _⟩

/-- Scrubbing zeroes the first unmarked line of a frame and no byte outside it. -/
theorem scrubLine_zeroes {s : State} {frame l : Nat} (hs : tagScrub (s.frameTag frame) = true)
    (hl : ((List.range 512).find? fun l => !(s.scrubMarks frame).contains l) = some l) :
    ∃ t, exec (.scrubLine frame) s = .next t ∧
      (∀ p, (frame * 512 + l) * 128 ≤ p → p < (frame * 512 + l + 1) * 128 → t.mem.read p = 0) ∧
      (∀ p, p < (frame * 512 + l) * 128 ∨ (frame * 512 + l + 1) * 128 ≤ p → t.mem.read p = s.mem.read p) ∧
      t.lineTag (frame * 512 + l) = 0 := by
  obtain ⟨t, ht, hmem, htags⟩ := scrubLine_drops hs hl
  refine ⟨t, ht, fun p h1 h2 => ?_, fun p h => ?_, ?_⟩
  · rw [hmem, Memory.read_dropRange, if_neg (by omega)]
  · rw [hmem, Memory.read_dropRange, if_pos (by omega)]
  · rw [State.lineTag, htags, Table.get_set, if_pos rfl]

/-! ## Migration -/

/-- Events raised on several dies leave everything but the dies' registers and the operations that wait for an event. -/
theorem foldl_setEvent_rest (bit : Nat) (ds : List Nat) (s : State) :
    ({ ds.foldl (fun (s : State) d => s.setEvent d bit) s with dies := s.dies, ops := s.ops } : State) = s := by
  induction ds generalizing s with
  | nil => rfl
  | cons d ds ih =>
    have h := congrArg (fun t : State => ({ t with dies := s.dies, ops := s.ops } : State)) (ih (s.setEvent d bit))
    exact h

/-- Each die on which an event is raised has its bit pending. -/
theorem foldl_setEvent_evPend (bit : Nat) {e : Nat} (he : e < 4) (ds : List Nat) (s : State) :
    ((ds.foldl (fun (s : State) d => s.setEvent d bit) s).die e).evPend =
      if e ∈ ds then (s.die e).evPend ||| BitVec.ofNat 32 (2 ^ bit) else (s.die e).evPend := by
  induction ds generalizing s with
  | nil => rfl
  | cons d ds ih =>
    rw [List.foldl_cons, ih]
    by_cases hd : e = d
    · subst hd
      simp [State.setEvent_evPend s e bit he, BitVec.or_assoc]
    · simp [State.setEvent_evPend_other s bit he hd, hd]

/-- The state after a line of a group has moved, or has been passed: one more is done, and nothing is staged. -/
def State.lineStepped (s : State) (g : Nat) : State :=
  { s with moved := s.moved.set g (s.moved.get g + 1), staging := s.staging.set g 0 }

theorem State.lineStepped_moved (s : State) (g j : Nat) :
    (s.lineStepped g).moved.get j = s.moved.get j + if j = g then 1 else 0 := by
  have h : (s.lineStepped g).moved = s.moved.set g (s.moved.get g + 1) := rfl
  rw [h, Table.get_set]
  split
  · subst j; rfl
  · rfl

theorem State.lineStepped_staging (s : State) (g j : Nat) :
    (s.lineStepped g).staging.get j = if j = g then 0 else s.staging.get j := by
  have h : (s.lineStepped g).staging = s.staging.set g 0 := rfl
  rw [h, Table.get_set]

/-- Whether every group is settled after a line step of one. -/
theorem State.lineStepped_settledAll (s : State) (g : Nat) :
    (s.lineStepped g).settledAll = (List.range 128).all fun j => s.moved.get j + (if j = g then 1 else 0) == 2 ^ 25 := by
  simp only [State.settledAll, State.lineStepped_moved, groupLines]

/-- The state after the last line step of a migration: the new map holds, and every die has the event (R369). -/
def State.migrationEnded (s : State) : State :=
  (List.range 4).foldl (fun (s : State) d => s.setEvent d 3)
    { s with migrating := false, oldMasks := s.masks, moved := [], staging := [] }

theorem State.migrationEnded_rest (s : State) :
    s.migrationEnded.mem = s.mem ∧ s.migrationEnded.migrating = false ∧ s.migrationEnded.oldMasks = s.masks := by
  have h := foldl_setEvent_rest 3 (List.range 4) { s with migrating := false, oldMasks := s.masks, moved := [], staging := [] }
  have hmem := congrArg State.mem h
  have hmig := congrArg State.migrating h
  have hmask := congrArg State.oldMasks h
  exact ⟨hmem, hmig, hmask⟩

theorem State.migrationEnded_evPend (s : State) {d : Nat} (hd : d < 4) :
    (s.migrationEnded.die d).evPend = (s.die d).evPend ||| 8 := by
  unfold State.migrationEnded
  rw [foldl_setEvent_evPend 3 hd, if_pos (List.mem_range.2 hd)]
  rfl

/-- A step of a group under migration: into the staging line, or past one line, and past the last line of the last group the
migration ends. -/
theorem exec_migrationStep {s : State} {g q : Nat} (hm : s.migrating = true) (hg : g < 128) (hk : s.moved.get g < 2 ^ 25)
    (hq : groupLine (s.partner (g * 2 ^ 32 + 128 * s.moved.get g)) = q) :
    exec (.migrationStep g) s = .next (
      if (s.staging.get g == 0 && decide (s.moved.get g < q)) = true then { s with staging := s.staging.set g (q + 1) }
      else if (s.lineStepped g).settledAll = true then (s.lineStepped g).migrationEnded else s.lineStepped g) := by
  have hx : exec (.migrationStep g) s = execMigrationStep g s := rfl
  have hgo : ¬ (!s.migrating || decide (128 ≤ g) || decide (groupLines ≤ s.moved.get g)) = true := by
    have hg' : ¬ 128 ≤ g := by omega
    have hk' : ¬ groupLines ≤ s.moved.get g := by unfold groupLines; omega
    simp [hm, hg', hk']
  subst hq
  rw [hx, execMigrationStep, if_neg hgo]
  rfl

/-- The line steps of a group under migration, by where its next line goes. -/
theorem migrationStep_steps {s : State} {g q : Nat} (hm : s.migrating = true) (hg : g < 128) (hk : s.moved.get g < 2 ^ 25)
    (hq : groupLine (s.partner (g * 2 ^ 32 + 128 * s.moved.get g)) = q) :
    ∃ t, exec (.migrationStep g) s = .next t ∧ t.mem = s.mem ∧
      if s.staging.get g = 0 ∧ s.moved.get g < q then
        t.migrating = true ∧ t.moved = s.moved ∧ t.staging.get g = q + 1 ∧ ∀ j, j ≠ g → t.staging.get j = s.staging.get j
      else if (List.range 128).all fun j => s.moved.get j + (if j = g then 1 else 0) == 2 ^ 25 then
        t.migrating = false ∧ t.oldMasks = s.masks ∧ ∀ d < 4, (t.die d).evPend = (s.die d).evPend ||| 8
      else t.migrating = true ∧ t.moved.get g = s.moved.get g + 1 ∧ t.staging.get g = 0 ∧
        ∀ j, j ≠ g → t.moved.get j = s.moved.get j ∧ t.staging.get j = s.staging.get j := by
  have hstep := exec_migrationStep hm hg hk hq
  rw [← State.lineStepped_settledAll]
  by_cases hstage : s.staging.get g = 0 ∧ s.moved.get g < q
  · have hb : (s.staging.get g == 0 && decide (s.moved.get g < q)) = true := by simpa using hstage
    rw [if_pos hb] at hstep
    refine ⟨_, hstep, rfl, ?_⟩
    rw [if_pos hstage]
    refine ⟨hm, rfl, ?_, fun j hj => ?_⟩
    · rw [Table.get_set, if_pos rfl]
    · rw [Table.get_set, if_neg hj]
  have hb : ¬ (s.staging.get g == 0 && decide (s.moved.get g < q)) = true := by simpa using hstage
  rw [if_neg hb] at hstep
  by_cases hlast : (s.lineStepped g).settledAll = true
  · rw [if_pos hlast] at hstep
    obtain ⟨hmem, hmig, hmask⟩ := (s.lineStepped g).migrationEnded_rest
    refine ⟨_, hstep, hmem, ?_⟩
    rw [if_neg hstage, if_pos hlast]
    exact ⟨hmig, hmask, fun d hd => (s.lineStepped g).migrationEnded_evPend hd⟩
  · rw [if_neg hlast] at hstep
    refine ⟨_, hstep, rfl, ?_⟩
    rw [if_neg hstage, if_neg hlast]
    refine ⟨hm, ?_, ?_, fun j hj => ⟨?_, ?_⟩⟩
    · rw [State.lineStepped_moved, if_pos rfl]
    · rw [State.lineStepped_staging, if_pos rfl]
    · rw [State.lineStepped_moved, if_neg hj, Nat.add_zero]
    · rw [State.lineStepped_staging, if_neg hj]

/-- The claim on stream contexts, rows, windows, scrubbing and migration. -/
theorem memory_steps : Claim.MemorySteps := fun s =>
  ⟨fun _ _ _ _ hh hst hw => streamContextRelease_write hh hst hw, fun _ _ hh => rowActivation_opens hh rfl rfl,
    fun _ hk hw => conflictWindowEnd_counts_anew hk hw, fun _ _ hrow => refreshManagement_counts_anew s hrow,
    fun _ _ hs hl => scrubLine_zeroes hs hl, fun _ hm hg hk => migrationStep_steps hm hg hk rfl⟩

end Sys2Proof.Machine
end

section
/-! PROOFS. Soft errors of the stores (R372; O52). -/

namespace Sys2Proof.Machine

/-- A word of a register line that is cached, or of a cached control line, can be struck. -/
theorem State.regWordHeld_of {s : State} {k word : Nat}
    (h : word < 256 ∧ word / 32 + 1 ∈ (s.thread k).cached ∧ word < (s.scene (s.thread k).scene).regs ∨
      0 ∈ (s.thread k).cached ∧ (256 ≤ word ∧ word < 264 ∨ word = predWord ∨ word = fpsrWord)) :
    s.regWordHeld k word = true := by
  unfold State.regWordHeld
  rcases h with ⟨hlt, hc, hr⟩ | ⟨hc, hw⟩
  · simp [hlt, hc, hr]
  · have hge : ¬ word < 256 := by
      simp only [predWord, fpsrWord, controlWord] at hw
      omega
    have hw' : word < 264 ∨ word = predWord ∨ word = fpsrWord := hw.imp_left And.right
    simpa [hge, hc, or_assoc] using hw'

/-- A struck word of a thread's registers is in error. -/
theorem softError_registerCache {s : State} {k word : Nat} (hk : k < s.threads.length) (h : s.regWordHeld k word = true) :
    ∃ t, exec (.sramSoftError .registerCache k word) s = .next t ∧ word ∈ (t.thread k).bad ∧
      (t.thread k).v = (s.thread k).v ∧ t.mem = s.mem := by
  have hx : exec (.sramSoftError .registerCache k word) s =
      .next (s.modThread k fun t => { t with bad := insertNat word t.bad }) := by
    show execSramSoftError .registerCache k word s = _
    simp only [execSramSoftError, h, if_true]
  refine ⟨_, hx, ?_, ?_, rfl⟩
  · rw [State.modThread_same _ _ _ hk]
    exact mem_insertNat_self _ _
  · rw [State.modThread_same _ _ _ hk]

/-- A struck word of a scene's scratchpad is in error. -/
theorem softError_scratchpad {s : State} {k word : Nat} (hk : k < s.scenes.length) (hs : s.storesHere k = true)
    (hw : 4 * word < (s.scene k).alloc + 2 * (s.scene k).win) :
    ∃ t, exec (.sramSoftError .scratchpad k word) s = .next t ∧ word ∈ (t.scene k).bad ∧
      (t.scene k).sp = (s.scene k).sp ∧ t.mem = s.mem := by
  have hx : exec (.sramSoftError .scratchpad k word) s =
      .next (s.modScene k fun c => { c with bad := insertNat word c.bad }) := by
    show execSramSoftError .scratchpad k word s = _
    simp only [execSramSoftError, hs, hw, decide_true, Bool.and_self, if_true]
  refine ⟨_, hx, ?_, ?_, rfl⟩
  · rw [State.modScene_scene, if_pos ⟨rfl, hk⟩]
    exact mem_insertNat_self _ _
  · rw [State.modScene_scene, if_pos ⟨rfl, hk⟩]

/-- A slot of a scene after its change. -/
theorem Scene.slot_modify (c : Scene) (n : Nat) (f : OSlot → OSlot) (h : n < c.oslots.length) :
    ({ c with oslots := c.oslots.modify n f } : Scene).slot n = f (c.slot n) := by
  simp [Scene.slot, List.getD_eq_getElem?_getD, h]

/-- A struck word of an operand slot is in error. -/
theorem softError_operandMemory {s : State} {k word : Nat} (hk : k < s.scenes.length) (hs : s.storesHere k = true)
    (hw : word / 8448 < (s.scene k).oslots.length) :
    ∃ t, exec (.sramSoftError .operandMemory k word) s = .next t ∧
      (word % 8448 ∈ ((t.scene k).slot (word / 8448)).bad) ∧ t.mem = s.mem := by
  have hx : exec (.sramSoftError .operandMemory k word) s =
      .next (s.modScene k fun c => { c with oslots := c.oslots.modify (word / 8448) fun o =>
        { o with bad := insertNat (word % 8448) o.bad } }) := by
    show execSramSoftError .operandMemory k word s = _
    simp only [execSramSoftError, hs, hw, decide_true, Bool.and_self, if_true]
  refine ⟨_, hx, ?_, rfl⟩
  rw [State.modScene_scene, if_pos ⟨rfl, hk⟩, Scene.slot_modify _ _ _ hw]
  exact mem_insertNat_self _ _

/-- A struck line of an L2: a dirty one is lost, a clean one leaves the L2. -/
theorem State.cacheError_l2 {s : State} {die line : Nat} {x : L2Line} (hdie : s.homeDieOf (128 * line) = die)
    (hx : s.l2.find? (fun x => x.key == .phys line) = some x) :
    s.cacheError (0x1000 + die) line =
      if x.dirty then s.loseLine line else { s with l2 := s.l2.filter fun x => x.key != .phys line } := by
  have hcore : ¬ 0x1000 + die < 0x1000 := by omega
  have hhome : (s.homeDieOf (128 * line) != 0x1000 + die - 0x1000) = false := by
    rw [hdie]
    simp
  unfold State.cacheError
  rw [if_neg hcore, hhome, hx]
  rfl

/-- A struck line of an L2 keeps its bytes: a dirty one is poisoned, a clean one is dropped. -/
theorem softError_cacheLine {s : State} {k word : Nat} {x : L2Line} (hk : k < 4) (hdie : s.homeDieOf (128 * word) = k)
    (hx : s.l2.find? (fun x => x.key == .phys word) = some x) :
    ∃ t, exec (.sramSoftError .cacheLine (0x1000 + k) word) s = .next t ∧ t.mem = s.mem ∧
      if x.dirty then t.linePsn word = true else ∀ y ∈ t.l2, y.key ≠ .phys word := by
  have hstep : exec (.sramSoftError .cacheLine (0x1000 + k) word) s = .next (s.cacheError (0x1000 + k) word) := by
    have hown : 0x1000 + k < 0x2000 := by omega
    show execSramSoftError .cacheLine (0x1000 + k) word s = _
    simp only [execSramSoftError, if_pos hown]
  refine ⟨_, hstep, ?_⟩
  have hc := State.cacheError_l2 hdie hx
  by_cases hd : x.dirty = true
  · rw [if_pos hd] at hc ⊢
    rw [hc]
    exact ⟨s.loseLine_mem word, s.loseLine_linePsn word⟩
  · rw [if_neg hd] at hc ⊢
    rw [hc]
    exact ⟨rfl, fun y hy => L2Line.key_ne_of_mem_filter hy⟩

/-- The claim on soft errors, store by store. -/
theorem soft_errors : Claim.SoftErrors := fun _ _ _ =>
  ⟨fun hk h => softError_registerCache hk (State.regWordHeld_of h), fun hk hs hw => softError_scratchpad hk hs hw,
    fun hk hs hw => softError_operandMemory hk hs hw, fun _ hk hdie hx => softError_cacheLine hk hdie hx⟩

end Sys2Proof.Machine

namespace Sys2Proof
open Machine

/-- Settles O52: the L2, the controllers with scrubbing and migration, and the soft errors of the stores. -/
theorem memorySystem : Obligations.MemorySystem := ⟨cache_steps, memory_steps, soft_errors⟩

end Sys2Proof
end
